-- ==== Sys2Proof/Word.lean ====
section
/-!
DEFINITION. The words of the machine (R12, R238, R240) and the plainest arithmetic on them.
-/

namespace Sys2Proof

/-- A scalar register's word (R240). -/
abbrev Word := BitVec 64

/-- A byte; every address is a byte address (R12). -/
abbrev Byte := BitVec 8

/-- A vector register: 512 bytes (R198), element e of width w in bits [w(e+1)-1 : we] (R317). -/
abbrev VReg := BitVec 4096

/-- One bit per lane (R201, R242). -/
abbrev LaneMask := BitVec 128

/-- A table held as sorted pairs with no repeated key and no entry equal to the table's default. -/
abbrev Table (α : Type) := List (Nat × α)

/-- The scalar register number of a six-bit field. -/
abbrev SReg := BitVec 6

/-- The vector register number of a six-bit field. -/
abbrev VNum := BitVec 6

end Sys2Proof
end

