-- ==== Sys2Proof/Config.lean ====
section
/-!
DEFINITION. What an implementation fixes, and the values that the manual leaves open: opaque constants, of which
nothing can be proved but that they are functions of what they are applied to.
-/

namespace Sys2Proof.Config

/-- A free bit vector: the n-th value that the manual leaves open (log entry 6). -/
opaque freeBits : Nat → Nat

/-- Whether the Falcon-1024 signature of the part record verifies: message bytes, signature bytes (R23). -/
opaque recordValid : List Byte → List Byte → Bool

/-- Whether a firmware slot verifies against the key held in the ROM (R134 step 7). -/
opaque firmwareValid : List (Nat × Byte) → Bool

/-- The SHAKE256 digest of a firmware image, byte by byte (R137). -/
opaque imageDigest : List (Nat × Byte) → Nat → Byte

/-- Byte k of the 64-byte SHAKE256 digest of a byte list (R137). -/
opaque shake256 : List Byte → Nat → Byte

/-- The identity seed that the PUF yields with its helper data (R23, R134 step 3). -/
opaque identitySeed : List Byte → List Byte

/-- Whether the tag of a retirement entry holds under the identity seed (R26). -/
opaque retireTagValid : Nat → BitVec 64 → Bool

/-- The public half of the Falcon-1024 key pair that a seed gives (R137). -/
opaque identityKey : List Byte → List Byte

/-- The Falcon-1024 signature under a seed's key over a message (R137). -/
opaque quoteSignature : List Byte → List Byte → List Byte

/-- The ROM's bytes, as far as its digest needs them (R137). -/
opaque romImage : List Byte

/-- How many 256-byte sectors the codec needs for a block of 4,096 bytes that is not all zero (R48); read modulo 16,
plus one, so that it lies in 1 to 16. -/
opaque codecSectors : List Byte → Nat

/-- Byte k of the encoding of a block (R48). -/
opaque codecBytes : List Byte → Nat → Byte

/-- The codec state kept with a compressed block (R46). -/
opaque codecState : List Byte → Nat

/-- Which row a controller's random generator takes for a swap (R72): channel, bank, draw. -/
opaque swapRow : Nat → Nat → Nat → Nat

/-- Byte k of the FEC parity of a flit's bytes 0 to 243 (R88: the code is not architectural). -/
opaque fecParity : List Byte → Nat → Byte

/-- Where firmware begins in its image (log entry 10). -/
def firmwareEntry : Word := 0#64

/-- Reference ticks in a microsecond: the reference runs at 500 MHz (R129). -/
def ticksPerMicrosecond : Nat := 500

/-- Tenths of an arithmetic cycle in one reference tick at each clock step (R22): 2.7, 2.4, 2.1 and 1.8 GHz. -/
def tenthsPerTick (step : Nat) : Nat :=
  match step with
  | 0 => 54
  | 1 => 48
  | 2 => 42
  | _ => 36

/-- The same while the clock is stretched by half a period a cycle (R20: up to half a period). -/
def tenthsPerTickStretched (step : Nat) : Nat :=
  match step with
  | 0 => 36
  | 1 => 32
  | 2 => 28
  | _ => 24

end Sys2Proof.Config
end

