-- ==== Sys2Proof/Syntax.lean ====
section
/-!
DEFINITION. The instruction set as syntax: one constructor per row of the opcode table, with its operand
fields at their encoded widths (R243-R247); the rows that carry no encoding are the part's own whole steps (events),
which take no fields: what such a step acts on stands in the state beside it (State.arg).
-/

namespace Sys2Proof

/-- A job: its partition (by lowest quarter), its launch's acceptance number (R147) and its number in the launch. -/
structure JobId where
  part : Nat
  acc  : Nat
  job  : Nat
  deriving DecidableEq, Repr

/-- What owns a stream: a job, or a management core (R193). -/
inductive Owner where
  | job (j : JobId)
  | mgmt (n : Nat)
  deriving DecidableEq, Repr

/-- A stream, by its owner and its STRMID (R195's table: 0 control, 1-16 vector, 17 matrix, 18 copy). -/
structure StreamId where
  owner : Owner
  strm  : Nat
  deriving DecidableEq, Repr

/-- The four engines (R193); each decodes H = 1 words in its own private half (R239). -/
inductive Engine where
  | control | vector | matrix | copy
  deriving DecidableEq, Repr

/-- The three kinds of core (R193). -/
inductive CoreKind where
  | tile | guide | management
  deriving DecidableEq, Repr

/-- What the boot ROM meets from outside in one start (R134 steps 5 and 6). -/
structure BootInput where
  /-- a loop, bridge, Adit or attachment fails to train (FAIL 5) -/
  linkFail : Bool
  /-- parity-group members (0-11 stacks, 12-27 packages) whose PHY fails training (R62) -/
  phyFail : List Nat
  /-- zeroing does not complete within 20 s (FAIL 8) -/
  zeroTimeout : Bool
  /-- channels (member, channel) declared lost during zeroing -/
  lostZeroing : List (Nat × Nat)
  deriving DecidableEq, Repr

/-- What a translated access wants to do with a page (R35 row 4). -/
inductive AccessKind where
  | read | write | atomic | fetch
  deriving DecidableEq, Repr

/-- A page walk: the core it runs for, the partition and context it walks in, the address and the access. -/
structure WalkRequest where
  core : Nat
  part : Nat
  ctx  : Nat
  va   : BitVec 64
  kind : AccessKind
  deriving DecidableEq, Repr

/-- A structure that acknowledges a TLBI (R37, R40). -/
inductive TlbPlace where
  | core (n : Nat)
  | cluster (n : Nat)
  | walkCache (die : Nat)
  deriving DecidableEq, Repr

/-- One line of one stripe of a parity group (R56, R57): the group, the stripe and the line within the unit. -/
structure StripeLine where
  lpddr  : Bool
  stripe : Nat
  line   : Nat
  deriving DecidableEq, Repr

/-- What reaches an L2 slice (R54): a read, a masked write, or the eviction of a line. -/
inductive SliceRequest where
  | read (pa : Nat) (count : Nat)
  | write (pa : Nat) (bytes : List (BitVec 8))
  | evict (pa : Nat)
  deriving DecidableEq, Repr

/-- A fabric message (R90): the header's fields and its data slots. -/
structure FabricMessage where
  fclass : BitVec 4
  len    : BitVec 4
  status : BitVec 2
  smask  : BitVec 4
  rsv    : BitVec 14
  pa     : BitVec 52
  txn    : BitVec 16
  dstMod : BitVec 16
  srcMod : BitVec 16
  slots  : List (BitVec 128)
  deriving DecidableEq, Repr

/-- A flit as its receiver sees it after FEC (R88, R89): its link header, its CRC-32, and the slots of its payload that carry
messages, fifteen at most. -/
structure Flit where
  seq   : BitVec 12
  ack   : BitVec 12
  cvc   : BitVec 2
  crn   : BitVec 6
  crc   : BitVec 32
  slots : List (BitVec 128)
  deriving DecidableEq, Repr

/-- One constructor per row of the opcode table. -/
inductive Instr where
  /-- NOP (R309): Does nothing. -/
  | nop
  /-- TRAP (R309): Parks the stream or fragment after itself with cause TRAP and A in ADDR. -/
  | trap (a : BitVec 6)
  /-- BKPT (R309): Parks the stream or fragment after itself with cause BKPT. -/
  | bkpt
  /-- EXIT (R196): Ends the stream, or the issuing fragment. -/
  | exit
  /-- YIELD (R206): Occupies one issue slot and makes the stream youngest under GTO. -/
  | yield
  /-- SLEEP (R310): Suspends until the DTB reaches sA or the watch fires; sD tells which. -/
  | sleep (d : BitVec 6) (a : BitVec 6)
  /-- WATCH (R311): Arms the stream's line monitor on the line holding sA. -/
  | watch (a : BitVec 6)
  /-- MEET (R195): Waits until every live stream of the job is at a MEET. -/
  | meet
  /-- SNAP (R144): Fires the snapshot trigger when enabled; otherwise acts as NOP. -/
  | snap
  /-- MFS (R312): Reads the special register numbered in A into sD. -/
  | mfs (d : BitVec 6) (n : BitVec 6)
  /-- MTS (R312): Writes sB into the special register numbered in A, field by field. -/
  | mts (n : BitVec 6) (b : BitVec 6)
  /-- RESUME (R313): Resumes the item parked with the fault record at sA according to its DISP. -/
  | resume (d : BitVec 6) (a : BitVec 6)
  /-- KILL (R314): Terminates the job named by the fault record at sA. -/
  | kill (d : BitVec 6) (a : BitVec 6)
  /-- TLBI (R315): Invalidates translations for a range, context and scope, and waits for every acknowledgement. -/
  | tlbi (d : BitVec 6) (a : BitVec 6) (b : BitVec 6)
  /-- ADD (R293): sD ← A + B. -/
  | add (d : BitVec 6) (a : BitVec 6) (b : BitVec 6)
  /-- SUB (R293): sD ← A − B. -/
  | sub (d : BitVec 6) (a : BitVec 6) (b : BitVec 6)
  /-- MUL (R293): sD ← low 64 bits of A × B. -/
  | mul (d : BitVec 6) (a : BitVec 6) (b : BitVec 6)
  /-- MULHS (R293): sD ← high 64 bits of the signed product. -/
  | mulhs (d : BitVec 6) (a : BitVec 6) (b : BitVec 6)
  /-- MULHU (R293): sD ← high 64 bits of the unsigned product. -/
  | mulhu (d : BitVec 6) (a : BitVec 6) (b : BitVec 6)
  /-- DIVS (R267): Signed division with the defined zero and overflow cases. -/
  | divs (d : BitVec 6) (a : BitVec 6) (b : BitVec 6)
  /-- DIVU (R267): Unsigned division; division by zero gives all ones. -/
  | divu (d : BitVec 6) (a : BitVec 6) (b : BitVec 6)
  /-- REMS (R267): Signed remainder. -/
  | rems (d : BitVec 6) (a : BitVec 6) (b : BitVec 6)
  /-- REMU (R267): Unsigned remainder. -/
  | remu (d : BitVec 6) (a : BitVec 6) (b : BitVec 6)
  /-- AND (R293): sD ← A AND B. -/
  | and (d : BitVec 6) (a : BitVec 6) (b : BitVec 6)
  /-- OR (R293): sD ← A OR B. -/
  | or (d : BitVec 6) (a : BitVec 6) (b : BitVec 6)
  /-- XOR (R293): sD ← A XOR B. -/
  | xor (d : BitVec 6) (a : BitVec 6) (b : BitVec 6)
  /-- ANDN (R293): sD ← A AND NOT B. -/
  | andn (d : BitVec 6) (a : BitVec 6) (b : BitVec 6)
  /-- SHL (R293): Shifts A left by B mod 64. -/
  | shl (d : BitVec 6) (a : BitVec 6) (b : BitVec 6)
  /-- SHR (R293): Shifts A right logically by B mod 64. -/
  | shr (d : BitVec 6) (a : BitVec 6) (b : BitVec 6)
  /-- SAR (R293): Shifts A right arithmetically by B mod 64. -/
  | sar (d : BitVec 6) (a : BitVec 6) (b : BitVec 6)
  /-- ROL (R293): Rotates A left by B mod 64. -/
  | rol (d : BitVec 6) (a : BitVec 6) (b : BitVec 6)
  /-- MIN (R293): Signed minimum. -/
  | min (d : BitVec 6) (a : BitVec 6) (b : BitVec 6)
  /-- MAX (R293): Signed maximum. -/
  | max (d : BitVec 6) (a : BitVec 6) (b : BitVec 6)
  /-- MINU (R293): Unsigned minimum. -/
  | minu (d : BitVec 6) (a : BitVec 6) (b : BitVec 6)
  /-- MAXU (R293): Unsigned maximum. -/
  | maxu (d : BitVec 6) (a : BitVec 6) (b : BitVec 6)
  /-- SEQ (R293): sD ← 1 if A = B, otherwise 0. -/
  | seq (d : BitVec 6) (a : BitVec 6) (b : BitVec 6)
  /-- SNE (R293): sD ← 1 if A ≠ B, otherwise 0. -/
  | sne (d : BitVec 6) (a : BitVec 6) (b : BitVec 6)
  /-- SLT (R293): sD ← 1 if A < B signed, otherwise 0. -/
  | slt (d : BitVec 6) (a : BitVec 6) (b : BitVec 6)
  /-- SLTU (R293): sD ← 1 if A < B unsigned, otherwise 0. -/
  | sltu (d : BitVec 6) (a : BitVec 6) (b : BitVec 6)
  /-- SEL (R293): sD ← A if the old sD is non-zero, otherwise B. -/
  | sel (d : BitVec 6) (a : BitVec 6) (b : BitVec 6)
  /-- CLZ (R293): Counts the leading zeros of A. -/
  | clz (d : BitVec 6) (a : BitVec 6)
  /-- CTZ (R293): Counts the trailing zeros of A. -/
  | ctz (d : BitVec 6) (a : BitVec 6)
  /-- POPC (R293): Counts the ones in A. -/
  | popc (d : BitVec 6) (a : BitVec 6)
  /-- BREV (R293): Reverses the bits of A. -/
  | brev (d : BitVec 6) (a : BitVec 6)
  /-- ADDI (R294): sD ← A + sign-extended immediate. -/
  | addi (d : BitVec 6) (a : BitVec 6) (i : BitVec 13)
  /-- ANDI (R294): sD ← A AND sign-extended immediate. -/
  | andi (d : BitVec 6) (a : BitVec 6) (i : BitVec 13)
  /-- ORI (R294): sD ← A OR zero-extended immediate. -/
  | ori (d : BitVec 6) (a : BitVec 6) (i : BitVec 13)
  /-- XORI (R294): sD ← A XOR zero-extended immediate. -/
  | xori (d : BitVec 6) (a : BitVec 6) (i : BitVec 13)
  /-- SHLI (R294): Shifts A left by an immediate. -/
  | shli (d : BitVec 6) (a : BitVec 6) (i : BitVec 6)
  /-- SHRI (R294): Shifts A right logically by an immediate. -/
  | shri (d : BitVec 6) (a : BitVec 6) (i : BitVec 6)
  /-- SARI (R294): Shifts A right arithmetically by an immediate. -/
  | sari (d : BitVec 6) (a : BitVec 6) (i : BitVec 6)
  /-- SLTI (R294): Signed compare of A with an immediate. -/
  | slti (d : BitVec 6) (a : BitVec 6) (i : BitVec 13)
  /-- SLTUI (R294): Unsigned compare of A with an immediate. -/
  | sltui (d : BitVec 6) (a : BitVec 6) (i : BitVec 13)
  /-- MULI (R294): sD ← low 64 bits of A × immediate. -/
  | muli (d : BitVec 6) (a : BitVec 6) (i : BitVec 13)
  /-- AHI (R295): sD ← sign-extended IMM19 × 2^13. -/
  | ahi (d : BitVec 6) (i : BitVec 19)
  /-- LEA (R296): sD ← A + B × 2^sh. -/
  | lea (d : BitVec 6) (a : BitVec 6) (b : BitVec 6) (s : BitVec 3)
  /-- STEP2 (R296): Advances a packed x, y cell pair by B cells of rows A wide. -/
  | step2 (d : BitVec 6) (a : BitVec 6) (b : BitVec 6)
  /-- WRAP (R296): Advances a ring index modulo B. -/
  | wrap (d : BitVec 6) (a : BitVec 6) (b : BitVec 6)
  /-- B (R297): Unconditional relative branch. -/
  | b (o : BitVec 25)
  /-- BL (R297): Relative branch, saving the return address in s63. -/
  | bl (o : BitVec 25)
  /-- BC (R297): Branches if A compared with zero satisfies COND 0–5. -/
  | bc (c : BitVec 4) (a : BitVec 6) (o : BitVec 15)
  /-- BC_BSET (R297): Branches if bit n of A is 1. -/
  | bcBset (a : BitVec 6) (n : BitVec 6) (o : BitVec 9)
  /-- BC_BCLR (R297): Branches if bit n of A is 0. -/
  | bcBclr (a : BitVec 6) (n : BitVec 6) (o : BitVec 9)
  /-- BR (R297): Branches to A. -/
  | br (a : BitVec 6)
  /-- BLR (R297): Branches to A, saving the return address in s63. -/
  | blr (a : BitVec 6)
  /-- RET (R297): Branches to s63. -/
  | ret
  /-- LOOP (R299): Hardware loop counted by sN. -/
  | loop (l : BitVec 2) (n : BitVec 6) (e : BitVec 12)
  /-- LOOPI (R299): Hardware loop with an immediate count. -/
  | loopi (l : BitVec 2) (c : BitVec 11) (e : BitVec 12)
  /-- LOOPX (R299): Hardware loop that counts up and repeats while sN ≠ 0. -/
  | loopx (l : BitVec 2) (n : BitVec 6) (e : BitVec 12)
  /-- LOOP_SP (R301): Software-pipelined loop of st stages with register and predicate rotation. -/
  | loopSp (l : BitVec 2) (n : BitVec 6) (s : BitVec 5) (e : BitVec 12)
  /-- TOK_GIVE (R302): Increments a token count, waiting while it is 16; a release at .core. -/
  | tokGive (k : BitVec 3)
  /-- TOK_TAKE (R302): Waits for and decrements a token count; an acquire. -/
  | tokTake (k : BitVec 3)
  /-- TOK_PEEK (R302): Reads a token count. -/
  | tokPeek (d : BitVec 6) (k : BitVec 3)
  /-- TOK_ZERO (R302): Sets a token count to zero. -/
  | tokZero (k : BitVec 3)
  /-- TOK_ARM (R303): Sets the stream's pending take and give arm. -/
  | tokArm (e : BitVec 1) (t : BitVec 3) (g : BitVec 1) (k : BitVec 3)
  /-- CREW_JOIN (R304): Joins crew A and returns the rank, or a refusal code. -/
  | crewJoin (d : BitVec 6) (a : BitVec 6)
  /-- CREW_LEAVE (R304): Leaves crew A. -/
  | crewLeave (d : BitVec 6) (a : BitVec 6)
  /-- CREW_INFO (R305): Returns item B of crew A. -/
  | crewInfo (d : BitVec 6) (a : BitVec 6) (b : BitVec 6)
  /-- BAR_ARR (R306): Arrives at a scratchpad barrier word atomically; a release at .dev. -/
  | barArr (d : BitVec 6) (a : BitVec 6) (b : BitVec 6)
  /-- BAR_WAIT (R306): Waits for the generation after D; an acquire. -/
  | barWait (d : BitVec 6) (a : BitVec 6) (b : BitVec 6)
  /-- BAR_AW (R306): Arrives, then waits on the generation the arrival returned. -/
  | barAw (d : BitVec 6) (a : BitVec 6) (b : BitVec 6)
  /-- LD (R359): Scalar load from the global space. -/
  | ld (d : BitVec 6) (a : BitVec 6) (i : BitVec 6) (z : BitVec 2) (x : BitVec 1) (o : BitVec 1) (s : BitVec 3)
  /-- ST (R359): Scalar store to the global space. -/
  | st (d : BitVec 6) (a : BitVec 6) (i : BitVec 6) (z : BitVec 2) (o : BitVec 1) (s : BitVec 3)
  /-- LDX (R360): Scalar load from the local scratchpad. -/
  | ldx (d : BitVec 6) (a : BitVec 6) (z : BitVec 2) (x : BitVec 1) (o : BitVec 1)
  /-- LDX_PEER (R360): Scalar load from a crew peer's scratchpad. -/
  | ldxPeer (d : BitVec 6) (a : BitVec 6) (b : BitVec 6) (z : BitVec 2) (x : BitVec 1) (o : BitVec 1)
  /-- STX (R360): Scalar store to the local scratchpad. -/
  | stx (d : BitVec 6) (a : BitVec 6) (z : BitVec 2) (o : BitVec 1)
  /-- STX_PEER (R360): Scalar store to a crew peer's scratchpad. -/
  | stxPeer (d : BitVec 6) (a : BitVec 6) (b : BitVec 6) (z : BitVec 2) (o : BitVec 1)
  /-- ATOM_ADD (R363): Atomic fetch-and-add. -/
  | atomAdd (d : BitVec 6) (a : BitVec 6) (b : BitVec 6) (o : BitVec 2) (s : BitVec 3) (n : BitVec 1) (w : BitVec 1)
  /-- ATOM_AND (R363): Atomic fetch-and-AND. -/
  | atomAnd (d : BitVec 6) (a : BitVec 6) (b : BitVec 6) (o : BitVec 2) (s : BitVec 3) (n : BitVec 1) (w : BitVec 1)
  /-- ATOM_OR (R363): Atomic fetch-and-OR. -/
  | atomOr (d : BitVec 6) (a : BitVec 6) (b : BitVec 6) (o : BitVec 2) (s : BitVec 3) (n : BitVec 1) (w : BitVec 1)
  /-- ATOM_XOR (R363): Atomic fetch-and-XOR. -/
  | atomXor (d : BitVec 6) (a : BitVec 6) (b : BitVec 6) (o : BitVec 2) (s : BitVec 3) (n : BitVec 1) (w : BitVec 1)
  /-- ATOM_MIN (R363): Atomic signed minimum. -/
  | atomMin (d : BitVec 6) (a : BitVec 6) (b : BitVec 6) (o : BitVec 2) (s : BitVec 3) (n : BitVec 1) (w : BitVec 1)
  /-- ATOM_MAX (R363): Atomic signed maximum. -/
  | atomMax (d : BitVec 6) (a : BitVec 6) (b : BitVec 6) (o : BitVec 2) (s : BitVec 3) (n : BitVec 1) (w : BitVec 1)
  /-- ATOM_SWAP (R363): Atomic swap. -/
  | atomSwap (d : BitVec 6) (a : BitVec 6) (b : BitVec 6) (o : BitVec 2) (s : BitVec 3) (n : BitVec 1) (w : BitVec 1)
  /-- ATOM_CAS (R363): Atomic compare-and-swap with the compare value in sD. -/
  | atomCas (d : BitVec 6) (a : BitVec 6) (b : BitVec 6) (o : BitVec 2) (s : BitVec 3) (n : BitVec 1) (w : BitVec 1)
  /-- ATOM_FADD (R363): Atomic binary32 add. -/
  | atomFadd (d : BitVec 6) (a : BitVec 6) (b : BitVec 6) (o : BitVec 2) (s : BitVec 3) (n : BitVec 1)
  /-- ATOM_MINU (R363): Atomic unsigned minimum. -/
  | atomMinu (d : BitVec 6) (a : BitVec 6) (b : BitVec 6) (o : BitVec 2) (s : BitVec 3) (n : BitVec 1) (w : BitVec 1)
  /-- ATOM_MAXU (R363): Atomic unsigned maximum. -/
  | atomMaxu (d : BitVec 6) (a : BitVec 6) (b : BitVec 6) (o : BitVec 2) (s : BitVec 3) (n : BitVec 1) (w : BitVec 1)
  /-- FENCE (R223): Full fence at a scope. -/
  | fence (s : BitVec 3)
  /-- FENCE_REL (R366): Release half fence. -/
  | fenceRel (s : BitVec 3)
  /-- FENCE_ACQ (R366): Acquire half fence. -/
  | fenceAcq (s : BitVec 3)
  /-- FENCE_OWN (R226): Owner side of the asymmetric fence pair. -/
  | fenceOwn (s : BitVec 3)
  /-- FENCE_REM (R226): Remote side of the asymmetric fence pair, serialising the cores of a crew's members. -/
  | fenceRem (a : BitVec 6) (s : BitVec 3)
  /-- LAUNCH (R374): Reads a launch packet, checks it under R127 and returns a status. -/
  | launch (d : BitVec 6) (a : BitVec 6) (b : BitVec 6)
  /-- WQRY (R375): Sends a Chute query whose answer is written to scratchpad and given to token kK. -/
  | wqry (a : BitVec 6) (k : BitVec 3)
  /-- GOVQ_OPEN (R188): Opens a frame from a frame record and returns a status. -/
  | govqOpen (d : BitVec 6) (a : BitVec 6) (b : BitVec 6)
  /-- GOVQ_MARK (R189): Marks the DTB at the governor and updates the step time. -/
  | govqMark (b : BitVec 6)
  /-- GOVQ_NEXT (R190): Asks the governor's decision for boundary b. -/
  | govqNext (d : BitVec 6) (a : BitVec 6) (b : BitVec 6)
  /-- SEM_ADD (R369): Adds to a local or peer scratchpad semaphore; a release. -/
  | semAdd (d : BitVec 6) (a : BitVec 6) (b : BitVec 6)
  /-- SEM_WAIT (R369): Waits in order for a local semaphore count and takes it; an acquire. -/
  | semWait (d : BitVec 6) (a : BitVec 6)
  /-- SEM_ADD_RING (R370): Adds to a semaphore in a named job's scratchpad to return Adit ring slots. -/
  | semAddRing (d : BitVec 6) (a : BitVec 6) (b : BitVec 6)
  /-- QBIND_OUT (R371): Binds an outbound queue-link port to a peer's inbound port. -/
  | qbindOut (d : BitVec 6) (a : BitVec 6) (b : BitVec 6)
  /-- QBIND_IN (R371): Binds an inbound queue-link port with a depth and save area. -/
  | qbindIn (d : BitVec 6) (a : BitVec 6)
  /-- QBIND_UN (R373): Unbinds a queue-link port. -/
  | qbindUn (d : BitVec 6) (a : BitVec 6)
  /-- QBIND_Q (R371): Returns a port's waiting entries or held credits. -/
  | qbindQ (d : BitVec 6) (a : BitVec 6)
  /-- CFLUSH (R367): Drains and writes back the covered lines to a scope's point and invalidates clean copies below it. -/
  | cflush (a : BitVec 6) (b : BitVec 6) (s : BitVec 3)
  /-- PF (R368): Prefetch hint to the L1, cluster cache or L2. -/
  | pf (a : BitVec 6) (b : BitVec 6) (w : BitVec 1) (l : BitVec 2)
  /-- FADD (R323): Vector floating-point add. -/
  | fadd (d : BitVec 6) (a : BitVec 6) (b : BitVec 6) (p : BitVec 4) (t : BitVec 3)
  /-- FSUB (R323): Vector floating-point subtract. -/
  | fsub (d : BitVec 6) (a : BitVec 6) (b : BitVec 6) (p : BitVec 4) (t : BitVec 3)
  /-- FMUL (R323): Vector floating-point multiply. -/
  | fmul (d : BitVec 6) (a : BitVec 6) (b : BitVec 6) (p : BitVec 4) (t : BitVec 3)
  /-- FFMA (R323): Vector fused multiply-add, one rounding. -/
  | ffma (d : BitVec 6) (a : BitVec 6) (b : BitVec 6) (p : BitVec 4) (t : BitVec 3)
  /-- FFMS (R323): Vector fused d − a × b, one rounding. -/
  | ffms (d : BitVec 6) (a : BitVec 6) (b : BitVec 6) (p : BitVec 4) (t : BitVec 3)
  /-- FMIN (R324): Vector floating-point minimum. -/
  | fmin (d : BitVec 6) (a : BitVec 6) (b : BitVec 6) (p : BitVec 4) (t : BitVec 3)
  /-- FMAX (R324): Vector floating-point maximum. -/
  | fmax (d : BitVec 6) (a : BitVec 6) (b : BitVec 6) (p : BitVec 4) (t : BitVec 3)
  /-- FCMP (R325): Vector floating-point compare into a predicate. -/
  | fcmp (c : BitVec 2) (q : BitVec 4) (a : BitVec 6) (b : BitVec 6) (p : BitVec 4) (t : BitVec 3)
  /-- FUN (R327): Correctly rounded special function per element. -/
  | funSpecial (d : BitVec 6) (a : BitVec 6) (o : BitVec 6) (p : BitVec 4) (t : BitVec 3)
  /-- FSGN_CPY (R326): Copies the sign of vB into vA's elements. -/
  | fsgnCpy (d : BitVec 6) (a : BitVec 6) (b : BitVec 6) (x : BitVec 3) (t : BitVec 3)
  /-- FSGN_XOR (R326): XORs the sign of vB into vA's elements. -/
  | fsgnXor (d : BitVec 6) (a : BitVec 6) (b : BitVec 6) (x : BitVec 3) (t : BitVec 3)
  /-- IADD (R328): Wrapping vector integer add. -/
  | iadd (d : BitVec 6) (a : BitVec 6) (b : BitVec 6) (p : BitVec 4) (t : BitVec 3)
  /-- ISUB (R328): Wrapping vector integer subtract. -/
  | isub (d : BitVec 6) (a : BitVec 6) (b : BitVec 6) (p : BitVec 4) (t : BitVec 3)
  /-- IMUL (R328): Vector integer multiply, low bits. -/
  | imul (d : BitVec 6) (a : BitVec 6) (b : BitVec 6) (p : BitVec 4) (t : BitVec 3)
  /-- IMAD (R328): Vector integer multiply-add, low bits. -/
  | imad (d : BitVec 6) (a : BitVec 6) (b : BitVec 6) (p : BitVec 4) (t : BitVec 3)
  /-- IMADW (R329): Widening integer multiply-accumulate into a register group. -/
  | imadw (d : BitVec 6) (a : BitVec 6) (b : BitVec 6) (p : BitVec 4) (t : BitVec 3)
  /-- IADDS (R330): Saturating vector integer add. -/
  | iadds (d : BitVec 6) (a : BitVec 6) (b : BitVec 6) (x : BitVec 3) (t : BitVec 3)
  /-- ISUBS (R330): Saturating vector integer subtract. -/
  | isubs (d : BitVec 6) (a : BitVec 6) (b : BitVec 6) (x : BitVec 3) (t : BitVec 3)
  /-- IMIN (R330): Vector integer minimum. -/
  | imin (d : BitVec 6) (a : BitVec 6) (b : BitVec 6) (x : BitVec 3) (t : BitVec 3)
  /-- IMAX (R330): Vector integer maximum. -/
  | imax (d : BitVec 6) (a : BitVec 6) (b : BitVec 6) (x : BitVec 3) (t : BitVec 3)
  /-- ICMP (R331): Vector integer compare into a predicate. -/
  | icmp (c : BitVec 2) (q : BitVec 4) (a : BitVec 6) (b : BitVec 6) (p : BitVec 4) (t : BitVec 3)
  /-- LOGIC (R332): Bitwise lane operation selected by TY. -/
  | logic (d : BitVec 6) (a : BitVec 6) (b : BitVec 6) (p : BitVec 4) (o : BitVec 3)
  /-- SHIFT (R333): Vector shift left or right by vB mod width. -/
  | shift (d : BitVec 6) (a : BitVec 6) (b : BitVec 6) (x : BitVec 3) (f : BitVec 1) (t : BitVec 3)
  /-- IABS (R334): Vector integer absolute value. -/
  | iabs (d : BitVec 6) (a : BitVec 6) (p : BitVec 4) (t : BitVec 3)
  /-- POPC_V (R334): Vector population count. -/
  | popcV (d : BitVec 6) (a : BitVec 6) (p : BitVec 4) (t : BitVec 3)
  /-- CLZ_V (R334): Vector count of leading zeros. -/
  | clzV (d : BitVec 6) (a : BitVec 6) (p : BitVec 4) (t : BitVec 3)
  /-- CVT (R335): Converts elements between types under R277, widening or narrowing by register groups. -/
  | cvt (d : BitVec 6) (a : BitVec 6) (s : BitVec 1) (y : BitVec 3) (f : BitVec 1) (r : BitVec 3) (t : BitVec 3)
  /-- QNT (R338): Quantises blocks to an MX or AQ format and writes the block maxima. -/
  | qnt (d : BitVec 6) (a : BitVec 6) (b : BitVec 6) (q : BitVec 4) (t : BitVec 3)
  /-- DQN (R339): Decodes a 128-element window of block codes to FP32. -/
  | dqn (d : BitVec 6) (a : BitVec 6) (b : BitVec 6) (q : BitVec 4) (t : BitVec 3)
  /-- REQ (R340): Rescales integer accumulators with a multiplier, shift and zero point. -/
  | req (d : BitVec 6) (a : BitVec 6) (b : BitVec 6) (q : BitVec 4) (t : BitVec 3)
  /-- PACK (R336): Packs wide integers to narrower ones with saturation. -/
  | pack (d : BitVec 6) (a : BitVec 6) (b : BitVec 6) (x : BitVec 3) (t : BitVec 3)
  /-- UNPK (R336): Unpacks narrow integers into a register pair. -/
  | unpk (d : BitVec 6) (a : BitVec 6) (x : BitVec 3) (t : BitVec 3)
  /-- SHUF (R341): Permutes elements by indices in vB. -/
  | shuf (d : BitVec 6) (a : BitVec 6) (b : BitVec 6) (p : BitVec 4) (t : BitVec 3)
  /-- BCAST (R342): Broadcasts one element of vA. -/
  | bcast (d : BitVec 6) (a : BitVec 6) (b : BitVec 6) (x : BitVec 3) (t : BitVec 3)
  /-- SLIDE (R342): Slides elements up or down by an immediate. -/
  | slide (d : BitVec 6) (a : BitVec 6) (u : BitVec 1) (k : BitVec 5) (x : BitVec 3) (t : BitVec 3)
  /-- ZIP (R343): Interleaves two registers into a pair. -/
  | zip (d : BitVec 6) (a : BitVec 6) (b : BitVec 6) (x : BitVec 3) (t : BitVec 3)
  /-- UNZIP (R343): De-interleaves two registers into a pair. -/
  | unzip (d : BitVec 6) (a : BitVec 6) (b : BitVec 6) (x : BitVec 3) (t : BitVec 3)
  /-- SCAN (R345): Inclusive prefix scan over the fixed tree. -/
  | scan (d : BitVec 6) (a : BitVec 6) (o : BitVec 6) (p : BitVec 4) (t : BitVec 3)
  /-- RED (R345): Reduction over the fixed pairwise tree, written to every lane of the fragment. -/
  | red (d : BitVec 6) (a : BitVec 6) (o : BitVec 6) (p : BitVec 4) (t : BitVec 3)
  /-- PSET (R346): Sets a predicate from two scalar registers. -/
  | pset (p : BitVec 4) (x : BitVec 6) (y : BitVec 6)
  /-- PAND (R346): Predicate AND. -/
  | pand (p : BitVec 4) (x : BitVec 4) (y : BitVec 4)
  /-- POR (R346): Predicate OR. -/
  | por (p : BitVec 4) (x : BitVec 4) (y : BitVec 4)
  /-- PNOT (R346): Predicate NOT. -/
  | pnot (p : BitVec 4) (x : BitVec 4)
  /-- PMOV (R346): Predicate move. -/
  | pmov (p : BitVec 4) (x : BitVec 4)
  /-- VBR (R348): Vector branch that may diverge the fragment and open a region. -/
  | vbr (p : BitVec 4) (t : BitVec 11) (r : BitVec 10)
  /-- VEXIT (R349): Leaves n enclosing regions. -/
  | vexit (n : BitVec 6)
  /-- WHOLE (R204): Waits for every fragment and opens a whole-stream bracket. -/
  | whole
  /-- ENDWHOLE (R204): Closes the bracket and restores the saved fragments. -/
  | endwhole
  /-- VOTE_ANY (R347): Sets the fragment's predicate bits if any participant's source bit is set. -/
  | voteAny (q : BitVec 4) (s : BitVec 4) (p : BitVec 4)
  /-- VOTE_ALL (R347): Sets the fragment's predicate bits if every participant's source bit is set. -/
  | voteAll (q : BitVec 4) (s : BitVec 4) (p : BitVec 4)
  /-- VOTE_BALLOT (R347): Writes all 128 predicate bits with participants' source bits. -/
  | voteBallot (q : BitVec 4) (s : BitVec 4) (p : BitVec 4)
  /-- PART (R351): Partitions lane values densely by a predicate and writes the true count. -/
  | part (d : BitVec 6) (a : BitVec 6) (b : BitVec 6) (p : BitVec 4) (t : BitVec 3)
  /-- VROT (R352): Rotates the register base RRB by n. -/
  | vrot (n : BitVec 6)
  /-- VMOV (R344): Copies active lanes of a register. -/
  | vmov (d : BitVec 6) (a : BitVec 6) (x : BitVec 3)
  /-- VSPLAT (R344): Splats a scalar into active elements. -/
  | vsplat (d : BitVec 6) (a : BitVec 6) (x : BitVec 3) (t : BitVec 3)
  /-- VLD (R361): Contiguous vector load. -/
  | vld (d : BitVec 6) (b : BitVec 6) (a : BitVec 3) (p : BitVec 4) (s : BitVec 2) (o : BitVec 1) (c : BitVec 3)
  /-- VST (R361): Contiguous vector store. -/
  | vst (d : BitVec 6) (b : BitVec 6) (a : BitVec 3) (p : BitVec 4) (s : BitVec 2) (o : BitVec 1) (c : BitVec 3)
  /-- VLDS (R361): Strided vector load. -/
  | vlds (d : BitVec 6) (b : BitVec 6) (a : BitVec 3) (p : BitVec 4) (s : BitVec 2) (o : BitVec 1) (c : BitVec 3)
  /-- VSTS (R361): Strided vector store. -/
  | vsts (d : BitVec 6) (b : BitVec 6) (a : BitVec 3) (p : BitVec 4) (s : BitVec 2) (o : BitVec 1) (c : BitVec 3)
  /-- VGATH (R361): Vector gather by per-lane offsets. -/
  | vgath (d : BitVec 6) (b : BitVec 6) (a : BitVec 3) (p : BitVec 4) (s : BitVec 2) (o : BitVec 1) (c : BitVec 3)
  /-- VSCAT (R362): Vector scatter by per-lane offsets. -/
  | vscat (d : BitVec 6) (b : BitVec 6) (a : BitVec 3) (p : BitVec 4) (s : BitVec 2) (o : BitVec 1) (c : BitVec 3)
  /-- VATOM (R364): Vector atomic with per-address aggregation and per-lane prefixes. -/
  | vatom (d : BitVec 6) (b : BitVec 6) (a : BitVec 3) (o : BitVec 4) (r : BitVec 2) (s : BitVec 3) (n : BitVec 1)
  /-- VCAS (R364): Per-lane vector compare-and-swap using a register pair. -/
  | vcas (d : BitVec 5) (b : BitVec 6) (a : BitVec 3) (r : BitVec 2) (s : BitVec 3) (n : BitVec 1)
  /-- QSEND (R372): Sends a whole register over a queue link. -/
  | qsend (q : BitVec 2) (a : BitVec 6)
  /-- QRECV (R372): Receives a whole register from a queue link. -/
  | qrecv (d : BitVec 6) (q : BitVec 2)
  /-- VMX (R353): Per-lane 16 × 16 matrix row times a group vector. -/
  | vmx (d : BitVec 6) (a : BitVec 6) (b : BitVec 6) (s : BitVec 6) (t : BitVec 1)
  /-- RAY_Q (R415): Submits rays, pinning the BVH's current version. -/
  | rayQ (d : BitVec 6) (a : BitVec 6) (b : BitVec 6) (p : BitVec 4)
  /-- RAY_HIT (R416): Waits for each ray's candidate, completion or parking. -/
  | rayHit (d : BitVec 6) (a : BitVec 6) (b : BitVec 6) (p : BitVec 4)
  /-- RAY_RES (R417): Resolves candidates and resumes parked rays. -/
  | rayRes (d : BitVec 6) (a : BitVec 6) (b : BitVec 6) (p : BitVec 4)
  /-- TEX_2D (R419): Filtered 2-D texture sample. -/
  | tex2d (d : BitVec 6) (a : BitVec 6) (b : BitVec 6) (p : BitVec 4)
  /-- TEX_3D (R419): Filtered 3-D texture sample. -/
  | tex3d (d : BitVec 6) (a : BitVec 6) (b : BitVec 6) (p : BitVec 4)
  /-- TEX_FETCH (R419): Unfiltered texel fetch at integer coordinates. -/
  | texFetch (d : BitVec 6) (a : BitVec 6) (b : BitVec 6) (p : BitVec 4)
  /-- VIS_LD (R413): Reads a bin's final visibility entries. -/
  | visLd (d : BitVec 6) (a : BitVec 6) (b : BitVec 6) (p : BitVec 4)
  /-- VIS_LD_REL (R413): Reads visibility entries and then releases the bin's store. -/
  | visLdRel (d : BitVec 6) (a : BitVec 6) (b : BitVec 6) (p : BitVec 4)
  /-- PRIM_OPEN (R412): Opens a binning pass from a pass descriptor. -/
  | primOpen (b : BitVec 6)
  /-- PRIM_EMIT (R412): Each active lane emits one triangle to the open pass. -/
  | primEmit (d : BitVec 6) (a : BitVec 6) (b : BitVec 6) (p : BitVec 4)
  /-- PRIM_END (R412): Counts one end form towards the pass's EMITTERS. -/
  | primEnd
  /-- GUIDE_OUT (R179): Takes a free ring slot and sends a guide bin and its tag over the Adit. -/
  | guideOut (d : BitVec 6) (a : BitVec 6) (b : BitVec 6)
  /-- GSET (R380): Writes one stream-register field from sA. -/
  | gset (g : BitVec 4) (a : BitVec 6) (f : BitVec 4)
  /-- GLD (R380): Loads a 64-byte stream register image. -/
  | gld (g : BitVec 4) (a : BitVec 6) (b : BitVec 6) (s : BitVec 3) (x : BitVec 1)
  /-- GST (R380): Stores a 64-byte stream register image. -/
  | gst (g : BitVec 4) (a : BitVec 6) (b : BitVec 6) (s : BitVec 3) (x : BitVec 1)
  /-- GADV (R380): Advances a stream register's cursors. -/
  | gadv (g : BitVec 4) (a : BitVec 6) (b : BitVec 6)
  /-- MZERO (R387): Queues a command that zeroes the masked panels. -/
  | mzero (m : BitVec 16)
  /-- MLOOP (R388): Queues n K-steps into panels and advances both K cursors at issue. -/
  | mloop (d : BitVec 4) (a : BitVec 4) (b : BitVec 4) (h : BitVec 2) (c : BitVec 1) (k : BitVec 10)
  /-- MLOOP_C (R390): Cooperative product split over crew members by tile and K part. -/
  | mloopC (d : BitVec 4) (a : BitVec 4) (b : BitVec 4) (h : BitVec 2) (c : BitVec 1) (k : BitVec 10)
  /-- MSTEP (R388): Queues n K-steps into panels without advancing the cursors. -/
  | mstep (d : BitVec 4) (a : BitVec 4) (b : BitVec 4) (h : BitVec 2) (c : BitVec 1) (k : BitVec 10)
  /-- MBATCH (R383): Closes the current command segment and opens one with a batch number and an optional give. -/
  | mbatch (k : BitVec 3) (g : BitVec 1) (b : BitVec 3)
  /-- MWAIT (R385): Parks the matrix stream until batch b's segments complete. -/
  | mwait (b : BitVec 3)
  /-- MWAIT_ALL (R385): Parks the matrix stream until every earlier command completes. -/
  | mwaitAll
  /-- MDRAIN (R393): Rounds a panel into a stream's elements, optionally zeroing it. -/
  | mdrain (d : BitVec 4) (g : BitVec 4) (s : BitVec 6) (z : BitVec 1)
  /-- MLDA (R394): Loads a panel from stream elements converted to FP32. -/
  | mlda (d : BitVec 4) (g : BitVec 4) (s : BitVec 6)
  /-- MRESC_S (R395): Scales a panel by a scalar FP32 factor. -/
  | mrescS (d : BitVec 4) (s : BitVec 6)
  /-- MRESC_ROW (R395): Scales a panel by per-row factors. -/
  | mrescRow (d : BitVec 4) (g : BitVec 4) (s : BitVec 6)
  /-- MRESC_COL (R395): Scales a panel by per-column factors. -/
  | mrescCol (d : BitVec 4) (g : BitVec 4) (s : BitVec 6)
  /-- MMIG_OFF (R397): Commands issued from now never migrate. -/
  | mmigOff
  /-- MMIG_WAIT (R397): Commands may migrate after waiting sA cycles. -/
  | mmigWait (a : BitVec 6)
  /-- MMIG_ANY (R397): Commands may migrate whenever allowed. -/
  | mmigAny
  /-- CP (R406): Copies N bytes between views. -/
  | cp (d : BitVec 4) (g : BitVec 4) (s : BitVec 6) (c : BitVec 3) (t : BitVec 4)
  /-- CP_2D (R406): Copies a 2-D shape between views. -/
  | cp2d (d : BitVec 4) (g : BitVec 4) (s : BitVec 6) (c : BitVec 3) (t : BitVec 4)
  /-- CP_3D (R406): Copies a 3-D shape between views. -/
  | cp3d (d : BitVec 4) (g : BitVec 4) (s : BitVec 6) (c : BitVec 3) (t : BitVec 4)
  /-- CP_MC (R407): Multicasts a 2-D shape into the scratchpads of masked crew members, optionally with semaphore increments. -/
  | cpMc (d : BitVec 4) (g : BitVec 4) (s : BitVec 6) (c : BitVec 3) (t : BitVec 4) (m : BitVec 1)
  /-- CP_G (R406): Indexed gather or scatter of rows. -/
  | cpG (d : BitVec 4) (g : BitVec 4) (s : BitVec 6) (c : BitVec 3) (t : BitVec 4) (x : BitVec 1)
  /-- CP_Y (R408): Issues a copy and suspends the copy stream until it completes. -/
  | cpY (d : BitVec 4) (g : BitVec 4) (s : BitVec 6) (c : BitVec 3) (o : BitVec 6) (k : BitVec 2)
  /-- CP_WAIT (R409): Parks the copy stream until the tagged operations, or all earlier ones, complete. -/
  | cpWait (t : BitVec 4) (a : BitVec 1)
  /-- CP_FILL (R406): Fills a 3-D shape with a repeated 64-bit value. -/
  | cpFill (d : BitVec 4) (g : BitVec 4) (s : BitVec 6) (c : BitVec 3) (t : BitVec 4)
  /-- CP_SEM (R409): Queues a semaphore add that follows the completion of a tagged set. -/
  | cpSem (d : BitVec 4) (s : BitVec 6) (t : BitVec 4) (a : BitVec 1)
  /-- CP_PF (R410): Prefetch hint for a 3-D shape. -/
  | cpPf (g : BitVec 4) (s : BitVec 6) (l : BitVec 2)
  /-- POWER_ON (R134): Power is applied; management core 0 runs the boot ROM steps in order, writing FAIL and resetting on the first failure or entering minimal mode when the counter has reached 3. -/
  | powerOn
  /-- MODULE_RESET (R134): A module reset restarts the boot ROM sequence, with every register taking its module-reset value. -/
  | moduleReset
  /-- HOST_RESET (R136): A host reset over CXL resets the module and records STOP 1 for the next start. -/
  | hostReset
  /-- POWER_LOSS (R135): Power is lost; the start in progress counts as failed and STOP 0 is recorded. -/
  | powerLoss
  /-- ZEROING_TIMEOUT (R134): Zeroing has not completed within 20 s, so the start fails with FAIL 8. -/
  | zeroingTimeout
  /-- BOOT_GOOD (R134): A write of BOOT_CTL.GOOD makes hardware write C = 0 to flash and marks the start successful. -/
  | bootGood
  /-- BOOT_GOOD_TIMEOUT (R134): GOOD is not written within BOOT_CTL.TMO seconds; the start fails with FAIL 7 and the module resets. -/
  | bootGoodTimeout
  /-- BOOT_RESTART (R146): A write of BOOT_CTL.RESTART records STOP 2 and resets the module. -/
  | bootRestart
  /-- BOOT_CLRCNT (R135): In minimal mode, a write of CLRCNT sets C = 0, records STOP 6 and resets the module. -/
  | bootClrcnt
  /-- QUOTE_REQUEST (R137): A write of BOOT_QCMD starts a signed quote over the nonce and the digests, or sets ERR when OUT lies outside the HBM4E tier. -/
  | quoteRequest
  /-- QUOTE_DONE (R137): The quote engine writes the quote to OUT, performs a release at .dev and clears BUSY. -/
  | quoteDone
  /-- FLASH_ERASE_B (R146): BOOT_FLCMD OP 1 erases firmware slot B. -/
  | flashEraseB
  /-- FLASH_PROGRAM (R146): BOOT_FLCMD OP 2 programs one 4 KiB page of slot B from BOOT_FLDATA. -/
  | flashProgram
  /-- FLASH_VERIFY_B (R146): BOOT_FLCMD OP 3 verifies slot B and makes it slot A. -/
  | flashVerifyB
  /-- FLASH_OP_DONE (R146): A flash operation ends: RESULT is written and BUSY clears. -/
  | flashOpDone
  /-- POWER_CAP_WRITE (R19): A write of BOOT_PWRCAP.WATTS sets the module power cap, clamped to 1,000–3,200 W, effective within 10 µs. -/
  | powerCapWrite
  /-- POWER_WINDOW_END (R19): A 1 ms input-power window ends; the clock is set to step down or up against the cap, and OVER is updated. -/
  | powerWindowEnd
  /-- CLOCK_STEP (R22): A 100 µs step interval expires and the partition's arithmetic clock moves one step between 2.7 GHz and 1.8 GHz under the cap and the thermal stages. -/
  | clockStep
  /-- THERMAL_THROTTLE (R22): A die's hottest sensor crosses 105 °C going up, or 100 °C going down, so the partition starts or stops throttling. -/
  | thermalThrottle
  /-- THERMAL_SHUTDOWN (R22): At 115 °C the module removes power from all compute dies within 1 ms and records the cause. -/
  | thermalShutdown
  /-- CURRENT_LIMIT (R19): The logic rail reaches 4,800 A and the clock is stretched until the current falls back under the limit. -/
  | currentLimit
  /-- DROOP_DETECT (R20): A die's logic supply falls 4 % or more below nominal and its clock is stretched by up to half a period per cycle. -/
  | droopDetect
  /-- DROOP_RECOVER (R20): The supply recovers and clock stretching ends. -/
  | droopRecover
  /-- REGISTER_WRITE (R117): A write to a register with no behaviour of its own updates its RW fields and clears written W1C bits; a write to an unpopulated offset sets UNMAPPED. -/
  | registerWrite
  /-- PAGE_WALK_DONE (R35): A page walk finishes: the leaf is checked in the order of R35, A is set and the leaf is installed, or the access faults or parks. -/
  | pageWalkDone
  /-- DIRTY_UPDATE (R36): For a write through an entry with D = 0, the re-read leaf has D set by an atomic OR, replaces the cached entry and governs the write. -/
  | dirtyUpdate
  /-- TLBI_ACK (R40): A TLB or walk-cache structure acknowledges a TLBI once it has dropped the overlapping entries, drained its accesses and written back dirty lines. -/
  | tlbiAck
  /-- HOT_DECAY (R42): A write of MEM_HOT_CTL.DECAY starts a sweep that halves every hotness counter; a write while SWEEP = 1 is ignored. -/
  | hotDecay
  /-- HOT_SWEEP_END (R42): The decay sweep ends and SWEEP reads 0. -/
  | hotSweepEnd
  /-- SLICE_REQUEST (R54): A read, write or eviction reaches its L2 slice and is served from the slice or sent to DRAM. -/
  | sliceRequest
  /-- DRAM_READ_DONE (R47): DRAM data returns to a slice: the line or decompressed block is installed and the requester is answered. -/
  | dramReadDone
  /-- LP_WRITEBACK_RESUME (R51): A write-back stalled for free sectors resumes once its run can be allocated. -/
  | lpWritebackResume
  /-- LP_FREE_MERGE (R49): The background merge joins adjacent free runs into runs of up to 16 sectors. -/
  | lpFreeMerge
  /-- LP_COMMIT (R50): MEM_LP_CMD OP 1 commits a range of blocks as zero blocks, or is refused whole with CMTREF. -/
  | lpCommit
  /-- LP_DECOMMIT (R50): MEM_LP_CMD OP 2 frees the runs of committed blocks in a range and clears V. -/
  | lpDecommit
  /-- LP_CMD_DONE (R50): A commit or decommit ends; CMDBUSY clears and CMDDONE is set. -/
  | lpCmdDone
  /-- PARITY_DELTA (R59): A delta reaches the stripe's parity agent, which applies it and acknowledges, or holds it during a reconstruction. -/
  | parityDelta
  /-- DELTA_ACK (R59): A delta acknowledgement reaches the data agent, and its parity-consistent image becomes the new value. -/
  | deltaAck
  /-- RECONSTRUCTION_REQUEST (R61): The parity agent receives a request to reconstruct a line and asks every surviving data agent for its image. -/
  | reconstructionRequest
  /-- RECONSTRUCTION_ANSWER (R60): A surviving data agent answers with its image once its own deltas for the line are acknowledged. -/
  | reconstructionAnswer
  /-- RECONSTRUCTION_COMPLETE (R61): All answers are in: the parity agent returns the reconstructed line, releases the held deltas and counts PAR_CNT_RECON. -/
  | reconstructionComplete
  /-- CHANNEL_LOSS (R62): A controller declares its channel lost after 16 failed retries, 64 erring units in 1 ms, or a device fatal condition. -/
  | channelLoss
  /-- PHY_TRAINING_FAIL (R62): A member's PHY fails training and the member is declared lost. -/
  | phyTrainingFail
  /-- PAR_DECLARE_CHANNEL_LOST (R62): PAR_CMD OP 1 declares a channel lost. -/
  | parDeclareChannelLost
  /-- PAR_DECLARE_MEMBER_LOST (R62): PAR_CMD OP 2 declares a member lost. -/
  | parDeclareMemberLost
  /-- PAR_SCRUB_STRIPE (R75): PAR_CMD OP 3 runs one stripe through the scrub at once, or sets CMDERR on a bad field. -/
  | parScrubStripe
  /-- DEGRADED_ENTRY_DONE (R63): The entry ends: PAR_STATE is updated, ENTER clears, LOSS is set and stalled reads proceed by reconstruction. -/
  | degradedEntryDone
  /-- SCRUB_LINE (R69): At each INTERVAL the parity agent gathers one stripe line's images, compares their XOR with parity and repairs, replaces or skips. -/
  | scrubLine
  /-- GROUP_WINDOW_CLOSE (R71): WINDOW controller cycles pass since a group's first sector was served, and the remaining sectors compete by age. -/
  | groupWindowClose
  /-- ROW_SWAP (R72): A row reaches THRESH activations within a refresh window and is swapped with a random row through the row-copy buffer. -/
  | rowSwap
  /-- REFRESH (R73): A refresh falls due; it is issued or postponed, up to a debt of 8 per bank. -/
  | refresh
  /-- ALERT_BACKOFF (R74): The device signals an activation-count alert, and the controller stops activations and issues refresh-management commands. -/
  | alertBackoff
  /-- PACKET_INJECT (R82): A stop injects a packet into empty slots of its loop. -/
  | packetInject
  /-- PACKET_EJECT (R82): A packet reaches its destination stop and ejects into the buffer, or is refused, marked LAP and circulates. -/
  | packetEject
  /-- LINK_FORWARD (R84): A bridge, Adit or attachment stop stores a whole packet and forwards it across the link, responses first. -/
  | linkForward
  /-- LINK_CRC_ERROR (R84): A packet fails its link CRC and is resent from the replay buffer, with the packets behind it. -/
  | linkCrcError
  /-- HOP_CRC_ERROR (R85): A stop receives a bad beat and asks the upstream stop for it again. -/
  | hopCrcError
  /-- HOP_SPARE (R85): After 16 consecutive failures the hop moves the failing wire to its spare, sets SPARE and captures LOP_HOP. -/
  | hopSpare
  /-- QLINK_DATA (R86): A class 9 queue-link packet delivers 128 bytes into the peer's inbound queue. -/
  | qlinkData
  /-- QLINK_CREDIT (R86): A header-only class 9 packet returns credits to the sender. -/
  | qlinkCredit
  /-- FETCH_OP_ARRIVAL (R99): A fetch-and-operate request joins a queue at a combining point and combines with the latest eligible waiting request if it can. -/
  | fetchOpArrival
  /-- FETCH_OP_PERFORM (R106): The owning slice performs a possibly combined fetch-and-operate once and replies with the old value or a failure status. -/
  | fetchOpPerform
  /-- WAIT_BUFFER_REPLY (R103): A reply reaches a SENT wait-buffer entry, which sends v to first and v op e to second, or the failure status to both. -/
  | waitBufferReply
  /-- FLIT_RECEIVE (R89): A fabric flit is corrected by FEC and CRC-checked; good flits deliver messages, ACK and credits, bad ones cause an ACK of the last good flit. -/
  | flitReceive
  /-- PORT_DOWN (R87): A port goes down after 16 consecutive replays of one flit, or when both lanes fail. -/
  | portDown
  /-- LANE_TRAINING_FAIL (R87): A lane fails training and the port runs at half rate with HALF set. -/
  | laneTrainingFail
  /-- FABRIC_MESSAGE_SEND (R91): A message leaves on its trunk's port once its virtual channel holds credits for the whole message. -/
  | fabricMessageSend
  /-- TS_RECORD_POP (R97): A read of FAB_TS_META with V = 1 pops the oldest timestamp record. -/
  | tsRecordPop
  /-- HOST_MEM_READ (R118): A host CXL.mem read is performed at the owning slice at .sys, with poison or zeros as applicable. -/
  | hostMemRead
  /-- HOST_MEM_WRITE (R118): A host CXL.mem write is performed at the owning slice at .sys. -/
  | hostMemWrite
  /-- HOST_SNOOP (R311): A host snoop invalidates a host-coherent line held at a core and fires any watch on it. -/
  | hostSnoop
  /-- BI_RESPONSE (R119): BIRsp arrives for a back-invalidation, and the waiting device access to the host-held line proceeds. -/
  | biResponse
  /-- BIAS_SET (R120): HIF_BIAS_CMD OP 1 sets a page's host-bias bit. -/
  | biasSet
  /-- BIAS_CLEAR (R120): HIF_BIAS_CMD OP 2 back-invalidates every recorded line of the page, then clears its bit. -/
  | biasClear
  /-- BIAS_CMD_DONE (R120): A bias command ends and BUSY clears. -/
  | biasCmdDone
  /-- CXL_LINK_DOWN (R133): The CXL link leaves L0 and LINKDOWN is set. -/
  | cxlLinkDown
  /-- DTB_STEP (R130): A write of HIF_DTB_STEP adds the signed value to NS on every copy at the next tick and sets STEP. -/
  | dtbStep
  /-- DTB_NS_READ (R133): A read of HIF_DTB_NS returns the master NS and latches FRAC. -/
  | dtbNsRead
  /-- PTM_REQUEST (R130): A write of HIF_PTM_CTL.REQ while EN = 1 runs one PTM exchange and captures T1. -/
  | ptmRequest
  /-- PTM_RESPONSE (R130): The PTM response arrives: T4, MASTER and DELAY are captured and PTMDONE is set. -/
  | ptmResponse
  /-- PTM_TIMEOUT (R130): No PTM response arrives within 10 µs and PTMERR is set. -/
  | ptmTimeout
  /-- LAUNCH_START_TIME (R131): The deciding die's DTB reaches START and a held launch's jobs leave HELD. -/
  | launchStartTime
  /-- SCHED_DISPATCH (R148): The scheduler takes the candidate of the highest ready priority level, round-robin among queues, and distributes it to a die and core. -/
  | schedDispatch
  /-- LAUNCH_PATCH_CHECK (R153): Before any job is admitted, the patch table is checked structurally and then against the parameter values. -/
  | launchPatchCheck
  /-- JOB_ADMIT (R152): A core with the resources admits a distributed job: granules and tokens are zeroed, bases loaded and every stream started, with an acquire at .dev. -/
  | jobAdmit
  /-- JOB_DONE (R151): The last stream ends and the job's engine operations complete; the job becomes DONE with a release at .dev and frees its resources. -/
  | jobDone
  /-- MIGRATION_ADVERT (R160): Every 4 µs each die advertises its free job slots; an overloaded die packs jobs to the best advertiser. -/
  | migrationAdvert
  /-- MIGRATION_RECEIVE (R160): The receiving die places migrated jobs in its admission order. -/
  | migrationReceive
  /-- SOFT_PREEMPT_TIMEOUT (R161): A scheduler-requested soft pre-emption has not reached DONE within SCH_SOFTTMO and escalates to hard pre-emption. -/
  | softPreemptTimeout
  /-- HARD_PREEMPT_DONE (R163): A hard pre-emption has saved every state to the context area; the job's resources free and it becomes SUSPENDED. -/
  | hardPreemptDone
  /-- CANARY_EXPIRY (R169): A job's cycle count reaches its budget; it is stopped, a WATCHDOG record is posted and it becomes TERMINATED. -/
  | canaryExpiry
  /-- MATRIX_OPERAND_FAULT (R167): Matrix operand fetch meets TRANSLATION or PERMISSION; the job is killed and either relaunched or terminated. -/
  | matrixOperandFault
  /-- FAULT_RECORD_POST (R170): The scheduler writes a fault record and then PUT with a release at .sys, waiting while the queue is full. -/
  | faultRecordPost
  /-- CHUTE_QUERY (R159): The Chute answers a query with the next cell or end-of-work, writes the record, then gives the token. -/
  | chuteQuery
  /-- PRT_QUIESCE (R142): PRT_CMD OP 1 starts quiescing the quarters in MASK, or ends at once with RESULT 3 for a bad MASK. -/
  | prtQuiesce
  /-- QUIESCE_REACHED (R142): The quarters have no resident, distributed or migrating jobs and empty non-lowest queues; QUIESCED sets and the configuration is captured. -/
  | quiesceReached
  /-- QUIESCE_TIMEOUT (R142): PRT_QTMO expires; RESULT becomes PRT_BUSY, the busy quarter and queue are captured and dispatch resumes. -/
  | quiesceTimeout
  /-- PRT_RELEASE (R142): PRT_CMD OP 2 runs the release checks, applies or restores the configuration, clears QUIESCED and resumes dispatch. -/
  | prtRelease
  /-- SNAP_ARM (R146): A write of SNP_CTL.ARM = 1 arms the trigger and clears FIRED and DONE. -/
  | snapArm
  /-- TRIGGER_PIN_EDGE (R144): A rising edge on the external trigger pin fires the snapshot trigger or increments MISSED. -/
  | triggerPinEdge
  /-- SNAP_DTB_MATCH (R144): The first DTB tick with NS ≥ SNP_DTB fires the snapshot trigger. -/
  | snapDtbMatch
  /-- SNAPSHOT_LATCH (R144): On the first master tick at least 64 ns after the trigger, every block latches its shadows and cores write their records. -/
  | snapshotLatch
  /-- SNAPSHOT_DONE (R144): All core records are written and DONE is set after a release at .dev. -/
  | snapshotDone
  /-- LOAD_REPLY (R205): A load's data returns and its destination becomes ready, or DATA_LOST or a reply PERMISSION is delivered. -/
  | loadReply
  /-- ATOMIC_REPLY (R436): An atomic's reply returns the old value, or delivers DATA_LOST or an imprecise PERMISSION. -/
  | atomicReply
  /-- REGISTER_FILL_DONE (R198): A spilled vector register's fill from its backing slot completes and the waiting instruction may issue, or the fill faults. -/
  | registerFillDone
  /-- REGISTER_SPILL_DONE (R198): A dirty victim's write to its backing slot completes, or faults and leaves the victim resident. -/
  | registerSpillDone
  /-- SPLIT_TABLE_SPILL_FILL (R203): A split-table entry spills to, or returns from, the context area. -/
  | splitTableSpillFill
  /-- WC_DRAIN (R225): A store drains from the L1 write-combining buffer to its point of performance, within 1,024 cycles of issue. -/
  | wcDrain
  /-- SLEEP_DEADLINE (R310): The die's DTB reaches a sleeping stream's deadline and SLEEP returns 0. -/
  | sleepDeadline
  /-- COPY_START (R404): A queued copy operation starts its transfer in issue order. -/
  | copyStart
  /-- COPY_TRANSFER_FAULT (R212): A transfer meets TRANSLATION or PERMISSION on a page and parks at its first unperformed line; DATA_LOST terminates the job. -/
  | copyTransferFault
  /-- COPY_COMPLETE (R404): Every byte of a copy is performed: a release, its range locks free, and its armed token is given. -/
  | copyComplete
  /-- MATRIX_COMMAND_START (R382): A queued matrix command starts once earlier commands naming its panels have completed. -/
  | matrixCommandStart
  /-- MATRIX_COMMAND_DONE (R382): A matrix command completes and frees its range locks. -/
  | matrixCommandDone
  /-- COOP_DESCRIPTOR (R391): A member's MLOOP.C descriptor reaches its tile origin and is accepted or left unmatched. -/
  | coopDescriptor
  /-- COOP_COMBINE (R392): All members of a tile group have finished, and the origin's panels receive the fixed-order combination of the partials. -/
  | coopCombine
  /-- COMMAND_MIGRATE (R398): A queued MSTEP or MLOOP moves to an idle matrix engine in the cluster under its policy. -/
  | commandMigrate
  /-- COMMAND_RECALL (R398): A migrated command is recalled to its origin at its next K-step boundary. -/
  | commandRecall
  /-- PRIMITIVE_ARRIVAL (R173): An emitted primitive reaches the binning unit and is recorded in its bins, or is discarded when BINBUF is full. -/
  | primitiveArrival
  /-- BIN_RESOLVE (R174): A resolver takes the next bin into a free store and resolves its primitives into final visibility. -/
  | binResolve
  /-- GUIDE_BIN_LANDED (R179): Every byte of a guide bin and its tag has landed, and the consumer's full semaphore is incremented with a release. -/
  | guideBinLanded
  /-- RAY_TRAVERSAL_STOP (R418): The ray unit's traversal presents a candidate or completes the ray, writing its best hit and unpinning its version. -/
  | rayTraversalStop
  /-- RAY_PARK (R185): A ray whose shader fragment faults, or whose job is pre-empted, has its traversal state written to its record with STATE 1. -/
  | rayPark
  /-- CURRENT_BELOW_LIMIT (R19): The logic-rail current falls back under the 4,800 A limit and clock stretching for the limit ends. -/
  | currentBelowLimit
  /-- FABRIC_PORT_UP (R87): A fabric port trains and comes up, setting FAB_PORTSTAT.UP and changing its trunk's up-port count n. -/
  | fabricPortUp
  /-- CXL_LINK_UP (R115): The CXL link trains and enters L0, so host CXL.io, CXL.cache and CXL.mem traffic can flow. -/
  | cxlLinkUp
  /-- WRITE_ACKNOWLEDGEMENT (R237): A write acknowledgement or CXL completion for a stream's store reaches its core, letting waiting releases and fences proceed or delivering an imprecise PERMISSION. -/
  | writeAcknowledgement
  /-- HDM_DECODER_COMMIT (R118): The host commits an HDM decoder in BAR2; a decoder whose size exceeds its tier's limit fails to commit. -/
  | hdmDecoderCommit
  /-- REFERENCE_CLOCK_INPUT_CHANGE (R129): The module reference clock input appears or disappears, and the DTB master's 500 MHz tick source switches between it and the module oscillator. -/
  | referenceClockInputChange
  deriving DecidableEq, Repr

end Sys2Proof
end

