-- ==== Sys2Proof/WellFormed.lean ====
section
/-!
DEFINITION. The checks of R252 rows 3 to 5 that the fixed bits of an encoding do not make: reserved field values and
the forbidden combinations of R253. Each check has a name; an instruction is well formed when every check passes.
-/

namespace Sys2Proof

/-- Width in bits of an element of an integer-family type code (R245). -/
def intWidth (t : BitVec 3) : Nat :=
  match (t.extractLsb' 0 2).toNat with
  | 0 => 32
  | 1 => 16
  | 2 => 8
  | _ => 4

/-- Width in bits of the element position of a floating-point type code (R272, R273). -/
def floatWidth (t : BitVec 3) : Nat :=
  match t.toNat with
  | 0 => 32
  | 1 => 16
  | 2 => 16
  | 7 => 4
  | _ => 8

/-- Element width of a type code in family 0 (floating point) or 1 (integer), as CVT places it (R335). -/
def cvtWidth (family : BitVec 1) (t : BitVec 3) : Nat :=
  if family = 0#1 then floatWidth t else intWidth t

/-- A register group of r registers starts at a multiple of r (R320). -/
def groupAligned (n : BitVec 6) (r : Nat) : Bool :=
  n.toNat % r == 0

/-- A block format that R337's table names: Q[0] with TY. -/
def blockFormatNamed (aq : Bool) (t : BitVec 3) : Bool :=
  if aq then t.toNat < 4 else t != 1#3 && t != 2#3

/-- A block format whose codes take a 4-bit element position (R337). -/
def blockFormatNarrow (aq : Bool) (t : BitVec 3) : Bool :=
  if aq then t == 2#3 || t == 3#3 else t == 7#3

/-- The operations that SCAN and RED assign (R345). -/
def reductionOp (o : BitVec 6) : Bool :=
  o.toNat ≤ 2 || (8 ≤ o.toNat && o.toNat ≤ 13)

/-- SHAPE's panels lie within m0-m15 (R253, R386). -/
def shapeFits (d : BitVec 4) (h : BitVec 2) : Bool :=
  d.toNat + (match h.toNat with | 0 => 1 | 1 => 2 | 2 => 2 | _ => 4) ≤ 16

/-- A signed extension of an eight-byte access is forbidden (R253). -/
def extensionAllowed (z : BitVec 2) (x : BitVec 1) : Bool :=
  !(x == 1#1 && z == 3#2)

/-- The registers of a widened integer accumulator, by source type (R329): 0 where the type check decides instead. -/
def imadwGroup (t : BitVec 3) : Nat :=
  match intWidth t with
  | 16 => 2
  | 8 => 4
  | 32 => 2
  | _ => 1

/-- How many registers stand on CVT's wide side (R335). -/
def cvtRatio (src dst : Nat) : Nat :=
  if src < dst then dst / src else src / dst

/-- CVT's register groups are aligned: the destination's when it widens, the source's when it narrows (R335, R320). -/
def cvtGroupsAligned (d a : BitVec 6) (src dst : Nat) : Bool :=
  if src < dst then groupAligned d (cvtRatio src dst)
  else if dst < src then groupAligned a (cvtRatio src dst)
  else true

/-- Every check of R252 rows 3 to 5 that is left after the fixed bits of the encoding. -/
def wellFormed (i : Instr) : Bool :=
  match i with
  | .bc c _ _ => c.toNat ≤ 5
  | .loop _ _ e => e != 0#12
  | .loopi _ _ e => e != 0#12
  | .loopx _ _ e => e != 0#12
  | .loopSp _ _ st e => e != 0#12 && 1 ≤ st.toNat && st.toNat ≤ 8
  | .ld _ _ _ z x _ _ => extensionAllowed z x
  | .ldx _ _ z x _ => extensionAllowed z x
  | .ldxPeer _ _ _ z x _ => extensionAllowed z x
  | .pf _ _ _ l => l != 3#2
  | .fcmp _ q _ _ _ _ => q != 0#4
  | .icmp _ q _ _ _ _ => q != 0#4
  | .funSpecial _ _ o _ _ => o.toNat ≤ 7
  | .logic _ _ _ _ o => o.toNat ≤ 5
  | .imadw d _ _ _ t => groupAligned d (imadwGroup t)
  | .cvt d a s y f r t => r != 5#3 && r != 6#3 && cvtGroupsAligned d a (cvtWidth s y) (cvtWidth f t)
  | .qnt _ _ _ q t =>
      q.extractLsb' 2 2 != 3#2 && q.extractLsb' 1 1 == 0#1 && blockFormatNamed (q.extractLsb' 0 1 == 1#1) t
  | .dqn _ _ b q t =>
      let aq := q.extractLsb' 0 1 == 1#1
      blockFormatNamed aq t && (blockFormatNarrow aq t || q.toNat / 2 ≤ 3) &&
        (!(aq && t == 3#3) || groupAligned b 2)
  | .req _ a b q _ => q.extractLsb' 1 3 == 0#3 && groupAligned b 2 && (q == 0#4 || groupAligned a 2)
  | .unpk d _ _ _ => groupAligned d 2
  | .zip d _ _ _ _ => groupAligned d 2
  | .unzip d _ _ _ _ => groupAligned d 2
  | .scan _ _ o _ _ => reductionOp o
  | .red _ _ o _ _ => reductionOp o
  | .pset p _ _ => p != 0#4
  | .pand p _ _ => p != 0#4
  | .por p _ _ => p != 0#4
  | .pnot p _ => p != 0#4
  | .pmov p _ => p != 0#4
  | .voteAny q _ _ => q != 0#4
  | .voteAll q _ _ => q != 0#4
  | .voteBallot q _ _ => q != 0#4
  | .vbr _ _ r => r != 0#10
  | .vexit n => 1 ≤ n.toNat && n.toNat ≤ 62
  | .vrot n => n.toNat ≤ 31
  | .vld _ _ _ _ s _ _ => s != 3#2
  | .vst _ _ _ _ s _ _ => s != 3#2
  | .vlds _ _ _ _ s _ _ => s != 3#2
  | .vsts _ _ _ _ s _ _ => s != 3#2
  | .vgath _ _ _ _ s _ _ => s != 3#2
  | .vscat _ _ _ _ s _ _ => s != 3#2
  | .vatom _ _ _ o _ _ _ => o.toNat ≤ 9
  | .rayHit d _ _ _ => groupAligned d 4
  | .rayRes d _ _ _ => groupAligned d 4
  | .tex2d _ a _ _ => groupAligned a 2
  | .tex3d _ a _ _ => groupAligned a 4
  | .texFetch _ a _ _ => groupAligned a 4
  | .visLd d _ _ _ => groupAligned d 4
  | .visLdRel d _ _ _ => groupAligned d 4
  | .primEmit _ a b _ => groupAligned a 8 && groupAligned b 2
  | .gset _ _ f => f.toNat ≤ 13
  | .mloop d _ _ h _ _ => shapeFits d h
  | .mloopC d _ _ h _ _ => shapeFits d h
  | .mstep d _ _ h _ _ => shapeFits d h
  | .cpY _ _ _ _ o k => k != 3#2 && o != 0#6
  | .cpPf _ _ l => l != 3#2
  | _ => true

end Sys2Proof
end

