-- ==== Sys2Proof/Decode.lean ====
section
/-!
DEFINITION. Decoding (R238-R253): a 32-bit little-endian word to an instruction, by the half that the executing engine
owns, or a named rejection; after it the encoder, from the same encoding tables.
-/

namespace Sys2Proof

/-- The rows of the shared half, by major opcode (bits [31:25]) and then by their fixed bits. -/
def rowsShared (w : BitVec 32) : Option Instr :=
  let m := w.extractLsb' 25 7
  if m = 0x0#7 then
    if w.extractLsb' 0 25 == 0x1#25 then some (.nop)
    else if w.extractLsb' 0 25 == 0x3#25 then some (.bkpt)
    else if w.extractLsb' 0 25 == 0x4#25 then some (.exit)
    else if w.extractLsb' 0 25 == 0x5#25 then some (.yield)
    else if w.extractLsb' 0 25 == 0x8#25 then some (.meet)
    else if w.extractLsb' 0 25 == 0x9#25 then some (.snap)
    else if w.extractLsb' 19 6 == 0x0#6 && w.extractLsb' 0 13 == 0x2#13 then some (.trap (w.extractLsb' 13 6))
    else if w.extractLsb' 19 6 == 0x0#6 && w.extractLsb' 0 13 == 0x7#13 then some (.watch (w.extractLsb' 13 6))
    else if w.extractLsb' 0 13 == 0x6#13 then some (.sleep (w.extractLsb' 19 6) (w.extractLsb' 13 6))
    else if w.extractLsb' 0 13 == 0xa#13 then some (.mfs (w.extractLsb' 19 6) (w.extractLsb' 13 6))
    else if w.extractLsb' 19 6 == 0x0#6 && w.extractLsb' 0 7 == 0xb#7 then some (.mts (w.extractLsb' 13 6) (w.extractLsb' 7 6))
    else if w.extractLsb' 0 13 == 0xc#13 then some (.resume (w.extractLsb' 19 6) (w.extractLsb' 13 6))
    else if w.extractLsb' 0 13 == 0xd#13 then some (.kill (w.extractLsb' 19 6) (w.extractLsb' 13 6))
    else if w.extractLsb' 0 7 == 0xe#7 then some (.tlbi (w.extractLsb' 19 6) (w.extractLsb' 13 6) (w.extractLsb' 7 6))
    else none
  else if m = 0x1#7 then
    if w.extractLsb' 0 7 == 0x0#7 then some (.add (w.extractLsb' 19 6) (w.extractLsb' 13 6) (w.extractLsb' 7 6))
    else if w.extractLsb' 0 7 == 0x1#7 then some (.sub (w.extractLsb' 19 6) (w.extractLsb' 13 6) (w.extractLsb' 7 6))
    else if w.extractLsb' 0 7 == 0x2#7 then some (.mul (w.extractLsb' 19 6) (w.extractLsb' 13 6) (w.extractLsb' 7 6))
    else if w.extractLsb' 0 7 == 0x3#7 then some (.mulhs (w.extractLsb' 19 6) (w.extractLsb' 13 6) (w.extractLsb' 7 6))
    else if w.extractLsb' 0 7 == 0x4#7 then some (.mulhu (w.extractLsb' 19 6) (w.extractLsb' 13 6) (w.extractLsb' 7 6))
    else if w.extractLsb' 0 7 == 0x5#7 then some (.divs (w.extractLsb' 19 6) (w.extractLsb' 13 6) (w.extractLsb' 7 6))
    else if w.extractLsb' 0 7 == 0x6#7 then some (.divu (w.extractLsb' 19 6) (w.extractLsb' 13 6) (w.extractLsb' 7 6))
    else if w.extractLsb' 0 7 == 0x7#7 then some (.rems (w.extractLsb' 19 6) (w.extractLsb' 13 6) (w.extractLsb' 7 6))
    else if w.extractLsb' 0 7 == 0x8#7 then some (.remu (w.extractLsb' 19 6) (w.extractLsb' 13 6) (w.extractLsb' 7 6))
    else none
  else if m = 0x2#7 then
    if w.extractLsb' 0 7 == 0x0#7 then some (.and (w.extractLsb' 19 6) (w.extractLsb' 13 6) (w.extractLsb' 7 6))
    else if w.extractLsb' 0 7 == 0x1#7 then some (.or (w.extractLsb' 19 6) (w.extractLsb' 13 6) (w.extractLsb' 7 6))
    else if w.extractLsb' 0 7 == 0x2#7 then some (.xor (w.extractLsb' 19 6) (w.extractLsb' 13 6) (w.extractLsb' 7 6))
    else if w.extractLsb' 0 7 == 0x3#7 then some (.andn (w.extractLsb' 19 6) (w.extractLsb' 13 6) (w.extractLsb' 7 6))
    else if w.extractLsb' 0 7 == 0x4#7 then some (.shl (w.extractLsb' 19 6) (w.extractLsb' 13 6) (w.extractLsb' 7 6))
    else if w.extractLsb' 0 7 == 0x5#7 then some (.shr (w.extractLsb' 19 6) (w.extractLsb' 13 6) (w.extractLsb' 7 6))
    else if w.extractLsb' 0 7 == 0x6#7 then some (.sar (w.extractLsb' 19 6) (w.extractLsb' 13 6) (w.extractLsb' 7 6))
    else if w.extractLsb' 0 7 == 0x7#7 then some (.rol (w.extractLsb' 19 6) (w.extractLsb' 13 6) (w.extractLsb' 7 6))
    else none
  else if m = 0x3#7 then
    if w.extractLsb' 0 13 == 0x9#13 then some (.clz (w.extractLsb' 19 6) (w.extractLsb' 13 6))
    else if w.extractLsb' 0 13 == 0xa#13 then some (.ctz (w.extractLsb' 19 6) (w.extractLsb' 13 6))
    else if w.extractLsb' 0 13 == 0xb#13 then some (.popc (w.extractLsb' 19 6) (w.extractLsb' 13 6))
    else if w.extractLsb' 0 13 == 0xc#13 then some (.brev (w.extractLsb' 19 6) (w.extractLsb' 13 6))
    else if w.extractLsb' 0 7 == 0x0#7 then some (.min (w.extractLsb' 19 6) (w.extractLsb' 13 6) (w.extractLsb' 7 6))
    else if w.extractLsb' 0 7 == 0x1#7 then some (.max (w.extractLsb' 19 6) (w.extractLsb' 13 6) (w.extractLsb' 7 6))
    else if w.extractLsb' 0 7 == 0x2#7 then some (.minu (w.extractLsb' 19 6) (w.extractLsb' 13 6) (w.extractLsb' 7 6))
    else if w.extractLsb' 0 7 == 0x3#7 then some (.maxu (w.extractLsb' 19 6) (w.extractLsb' 13 6) (w.extractLsb' 7 6))
    else if w.extractLsb' 0 7 == 0x4#7 then some (.seq (w.extractLsb' 19 6) (w.extractLsb' 13 6) (w.extractLsb' 7 6))
    else if w.extractLsb' 0 7 == 0x5#7 then some (.sne (w.extractLsb' 19 6) (w.extractLsb' 13 6) (w.extractLsb' 7 6))
    else if w.extractLsb' 0 7 == 0x6#7 then some (.slt (w.extractLsb' 19 6) (w.extractLsb' 13 6) (w.extractLsb' 7 6))
    else if w.extractLsb' 0 7 == 0x7#7 then some (.sltu (w.extractLsb' 19 6) (w.extractLsb' 13 6) (w.extractLsb' 7 6))
    else if w.extractLsb' 0 7 == 0x8#7 then some (.sel (w.extractLsb' 19 6) (w.extractLsb' 13 6) (w.extractLsb' 7 6))
    else none
  else if m = 0x4#7 then
    some (.addi (w.extractLsb' 19 6) (w.extractLsb' 13 6) (w.extractLsb' 0 13))
  else if m = 0x5#7 then
    some (.andi (w.extractLsb' 19 6) (w.extractLsb' 13 6) (w.extractLsb' 0 13))
  else if m = 0x6#7 then
    some (.ori (w.extractLsb' 19 6) (w.extractLsb' 13 6) (w.extractLsb' 0 13))
  else if m = 0x7#7 then
    some (.xori (w.extractLsb' 19 6) (w.extractLsb' 13 6) (w.extractLsb' 0 13))
  else if m = 0x8#7 then
    if w.extractLsb' 6 7 == 0x0#7 then some (.shli (w.extractLsb' 19 6) (w.extractLsb' 13 6) (w.extractLsb' 0 6))
    else none
  else if m = 0x9#7 then
    if w.extractLsb' 6 7 == 0x0#7 then some (.shri (w.extractLsb' 19 6) (w.extractLsb' 13 6) (w.extractLsb' 0 6))
    else none
  else if m = 0xa#7 then
    if w.extractLsb' 6 7 == 0x0#7 then some (.sari (w.extractLsb' 19 6) (w.extractLsb' 13 6) (w.extractLsb' 0 6))
    else none
  else if m = 0xb#7 then
    some (.slti (w.extractLsb' 19 6) (w.extractLsb' 13 6) (w.extractLsb' 0 13))
  else if m = 0xc#7 then
    some (.sltui (w.extractLsb' 19 6) (w.extractLsb' 13 6) (w.extractLsb' 0 13))
  else if m = 0xd#7 then
    some (.muli (w.extractLsb' 19 6) (w.extractLsb' 13 6) (w.extractLsb' 0 13))
  else if m = 0xe#7 then
    some (.ahi (w.extractLsb' 19 6) (w.extractLsb' 0 19))
  else if m = 0xf#7 then
    if w.extractLsb' 3 4 == 0x0#4 then some (.lea (w.extractLsb' 19 6) (w.extractLsb' 13 6) (w.extractLsb' 7 6) (w.extractLsb' 0 3))
    else none
  else if m = 0x10#7 then
    if w.extractLsb' 0 7 == 0x0#7 then some (.step2 (w.extractLsb' 19 6) (w.extractLsb' 13 6) (w.extractLsb' 7 6))
    else none
  else if m = 0x11#7 then
    if w.extractLsb' 0 7 == 0x0#7 then some (.wrap (w.extractLsb' 19 6) (w.extractLsb' 13 6) (w.extractLsb' 7 6))
    else none
  else if m = 0x12#7 then
    some (.b (w.extractLsb' 0 25))
  else if m = 0x13#7 then
    some (.bl (w.extractLsb' 0 25))
  else if m = 0x14#7 then
    if w.extractLsb' 21 4 == 0x6#4 then some (.bcBset (w.extractLsb' 15 6) (w.extractLsb' 9 6) (w.extractLsb' 0 9))
    else if w.extractLsb' 21 4 == 0x7#4 then some (.bcBclr (w.extractLsb' 15 6) (w.extractLsb' 9 6) (w.extractLsb' 0 9))
    else some (.bc (w.extractLsb' 21 4) (w.extractLsb' 15 6) (w.extractLsb' 0 15))
  else if m = 0x15#7 then
    if w.extractLsb' 0 25 == 0x2#25 then some (.ret)
    else if w.extractLsb' 19 6 == 0x0#6 && w.extractLsb' 0 13 == 0x0#13 then some (.br (w.extractLsb' 13 6))
    else if w.extractLsb' 19 6 == 0x0#6 && w.extractLsb' 0 13 == 0x1#13 then some (.blr (w.extractLsb' 13 6))
    else none
  else if m = 0x16#7 then
    if w.extractLsb' 12 5 == 0x0#5 then some (.loop (w.extractLsb' 23 2) (w.extractLsb' 17 6) (w.extractLsb' 0 12))
    else none
  else if m = 0x17#7 then
    some (.loopi (w.extractLsb' 23 2) (w.extractLsb' 12 11) (w.extractLsb' 0 12))
  else if m = 0x18#7 then
    if w.extractLsb' 12 5 == 0x0#5 then some (.loopx (w.extractLsb' 23 2) (w.extractLsb' 17 6) (w.extractLsb' 0 12))
    else none
  else if m = 0x19#7 then
    some (.loopSp (w.extractLsb' 23 2) (w.extractLsb' 17 6) (w.extractLsb' 12 5) (w.extractLsb' 0 12))
  else if m = 0x1a#7 then
    if w.extractLsb' 10 15 == 0x0#15 && w.extractLsb' 0 7 == 0x0#7 then some (.tokGive (w.extractLsb' 7 3))
    else if w.extractLsb' 10 15 == 0x0#15 && w.extractLsb' 0 7 == 0x1#7 then some (.tokTake (w.extractLsb' 7 3))
    else if w.extractLsb' 10 15 == 0x0#15 && w.extractLsb' 0 7 == 0x3#7 then some (.tokZero (w.extractLsb' 7 3))
    else if w.extractLsb' 22 2 == 0x0#2 && w.extractLsb' 13 6 == 0x0#6 && w.extractLsb' 10 2 == 0x0#2 && w.extractLsb' 0 7 == 0x4#7 then some (.tokArm (w.extractLsb' 24 1) (w.extractLsb' 19 3) (w.extractLsb' 12 1) (w.extractLsb' 7 3))
    else if w.extractLsb' 10 9 == 0x0#9 && w.extractLsb' 0 7 == 0x2#7 then some (.tokPeek (w.extractLsb' 19 6) (w.extractLsb' 7 3))
    else none
  else if m = 0x1b#7 then
    if w.extractLsb' 0 13 == 0x0#13 then some (.crewJoin (w.extractLsb' 19 6) (w.extractLsb' 13 6))
    else if w.extractLsb' 0 13 == 0x1#13 then some (.crewLeave (w.extractLsb' 19 6) (w.extractLsb' 13 6))
    else if w.extractLsb' 0 7 == 0x2#7 then some (.crewInfo (w.extractLsb' 19 6) (w.extractLsb' 13 6) (w.extractLsb' 7 6))
    else none
  else if m = 0x1c#7 then
    if w.extractLsb' 0 7 == 0x0#7 then some (.barArr (w.extractLsb' 19 6) (w.extractLsb' 13 6) (w.extractLsb' 7 6))
    else if w.extractLsb' 0 7 == 0x1#7 then some (.barWait (w.extractLsb' 19 6) (w.extractLsb' 13 6) (w.extractLsb' 7 6))
    else if w.extractLsb' 0 7 == 0x2#7 then some (.barAw (w.extractLsb' 19 6) (w.extractLsb' 13 6) (w.extractLsb' 7 6))
    else none
  else none

/-- The rows of the control half, by major opcode (bits [31:25]) and then by their fixed bits. -/
def rowsControl (w : BitVec 32) : Option Instr :=
  let m := w.extractLsb' 25 7
  if m = 0x40#7 then
    some (.ld (w.extractLsb' 19 6) (w.extractLsb' 13 6) (w.extractLsb' 7 6) (w.extractLsb' 5 2) (w.extractLsb' 4 1) (w.extractLsb' 3 1) (w.extractLsb' 0 3))
  else if m = 0x41#7 then
    if w.extractLsb' 4 1 == 0x0#1 then some (.st (w.extractLsb' 19 6) (w.extractLsb' 13 6) (w.extractLsb' 7 6) (w.extractLsb' 5 2) (w.extractLsb' 3 1) (w.extractLsb' 0 3))
    else none
  else if m = 0x42#7 then
    if w.extractLsb' 6 7 == 0x0#7 && w.extractLsb' 0 2 == 0x0#2 then some (.ldx (w.extractLsb' 19 6) (w.extractLsb' 13 6) (w.extractLsb' 4 2) (w.extractLsb' 3 1) (w.extractLsb' 2 1))
    else if w.extractLsb' 6 1 == 0x1#1 && w.extractLsb' 0 2 == 0x0#2 then some (.ldxPeer (w.extractLsb' 19 6) (w.extractLsb' 13 6) (w.extractLsb' 7 6) (w.extractLsb' 4 2) (w.extractLsb' 3 1) (w.extractLsb' 2 1))
    else none
  else if m = 0x43#7 then
    if w.extractLsb' 6 7 == 0x0#7 && w.extractLsb' 3 1 == 0x0#1 && w.extractLsb' 0 2 == 0x0#2 then some (.stx (w.extractLsb' 19 6) (w.extractLsb' 13 6) (w.extractLsb' 4 2) (w.extractLsb' 2 1))
    else if w.extractLsb' 6 1 == 0x1#1 && w.extractLsb' 3 1 == 0x0#1 && w.extractLsb' 0 2 == 0x0#2 then some (.stxPeer (w.extractLsb' 19 6) (w.extractLsb' 13 6) (w.extractLsb' 7 6) (w.extractLsb' 4 2) (w.extractLsb' 2 1))
    else none
  else if m = 0x44#7 then
    some (.atomAdd (w.extractLsb' 19 6) (w.extractLsb' 13 6) (w.extractLsb' 7 6) (w.extractLsb' 5 2) (w.extractLsb' 2 3) (w.extractLsb' 1 1) (w.extractLsb' 0 1))
  else if m = 0x45#7 then
    some (.atomAnd (w.extractLsb' 19 6) (w.extractLsb' 13 6) (w.extractLsb' 7 6) (w.extractLsb' 5 2) (w.extractLsb' 2 3) (w.extractLsb' 1 1) (w.extractLsb' 0 1))
  else if m = 0x46#7 then
    some (.atomOr (w.extractLsb' 19 6) (w.extractLsb' 13 6) (w.extractLsb' 7 6) (w.extractLsb' 5 2) (w.extractLsb' 2 3) (w.extractLsb' 1 1) (w.extractLsb' 0 1))
  else if m = 0x47#7 then
    some (.atomXor (w.extractLsb' 19 6) (w.extractLsb' 13 6) (w.extractLsb' 7 6) (w.extractLsb' 5 2) (w.extractLsb' 2 3) (w.extractLsb' 1 1) (w.extractLsb' 0 1))
  else if m = 0x48#7 then
    some (.atomMin (w.extractLsb' 19 6) (w.extractLsb' 13 6) (w.extractLsb' 7 6) (w.extractLsb' 5 2) (w.extractLsb' 2 3) (w.extractLsb' 1 1) (w.extractLsb' 0 1))
  else if m = 0x49#7 then
    some (.atomMax (w.extractLsb' 19 6) (w.extractLsb' 13 6) (w.extractLsb' 7 6) (w.extractLsb' 5 2) (w.extractLsb' 2 3) (w.extractLsb' 1 1) (w.extractLsb' 0 1))
  else if m = 0x4a#7 then
    some (.atomSwap (w.extractLsb' 19 6) (w.extractLsb' 13 6) (w.extractLsb' 7 6) (w.extractLsb' 5 2) (w.extractLsb' 2 3) (w.extractLsb' 1 1) (w.extractLsb' 0 1))
  else if m = 0x4b#7 then
    some (.atomCas (w.extractLsb' 19 6) (w.extractLsb' 13 6) (w.extractLsb' 7 6) (w.extractLsb' 5 2) (w.extractLsb' 2 3) (w.extractLsb' 1 1) (w.extractLsb' 0 1))
  else if m = 0x4c#7 then
    if w.extractLsb' 0 1 == 0x0#1 then some (.atomFadd (w.extractLsb' 19 6) (w.extractLsb' 13 6) (w.extractLsb' 7 6) (w.extractLsb' 5 2) (w.extractLsb' 2 3) (w.extractLsb' 1 1))
    else none
  else if m = 0x55#7 then
    some (.atomMinu (w.extractLsb' 19 6) (w.extractLsb' 13 6) (w.extractLsb' 7 6) (w.extractLsb' 5 2) (w.extractLsb' 2 3) (w.extractLsb' 1 1) (w.extractLsb' 0 1))
  else if m = 0x56#7 then
    some (.atomMaxu (w.extractLsb' 19 6) (w.extractLsb' 13 6) (w.extractLsb' 7 6) (w.extractLsb' 5 2) (w.extractLsb' 2 3) (w.extractLsb' 1 1) (w.extractLsb' 0 1))
  else if m = 0x4d#7 then
    if w.extractLsb' 4 21 == 0x0#21 && w.extractLsb' 0 1 == 0x0#1 then some (.fence (w.extractLsb' 1 3))
    else if w.extractLsb' 4 21 == 0x1#21 && w.extractLsb' 0 1 == 0x0#1 then some (.fenceRel (w.extractLsb' 1 3))
    else if w.extractLsb' 4 21 == 0x2#21 && w.extractLsb' 0 1 == 0x0#1 then some (.fenceAcq (w.extractLsb' 1 3))
    else if w.extractLsb' 4 21 == 0x3#21 && w.extractLsb' 0 1 == 0x0#1 then some (.fenceOwn (w.extractLsb' 1 3))
    else if w.extractLsb' 19 6 == 0x0#6 && w.extractLsb' 4 9 == 0x4#9 && w.extractLsb' 0 1 == 0x0#1 then some (.fenceRem (w.extractLsb' 13 6) (w.extractLsb' 1 3))
    else none
  else if m = 0x4e#7 then
    if w.extractLsb' 0 7 == 0x0#7 then some (.launch (w.extractLsb' 19 6) (w.extractLsb' 13 6) (w.extractLsb' 7 6))
    else none
  else if m = 0x4f#7 then
    if w.extractLsb' 19 6 == 0x0#6 && w.extractLsb' 3 10 == 0x0#10 then some (.wqry (w.extractLsb' 13 6) (w.extractLsb' 0 3))
    else none
  else if m = 0x50#7 then
    if w.extractLsb' 13 12 == 0x0#12 && w.extractLsb' 0 7 == 0x1#7 then some (.govqMark (w.extractLsb' 7 6))
    else if w.extractLsb' 0 7 == 0x0#7 then some (.govqOpen (w.extractLsb' 19 6) (w.extractLsb' 13 6) (w.extractLsb' 7 6))
    else if w.extractLsb' 0 7 == 0x2#7 then some (.govqNext (w.extractLsb' 19 6) (w.extractLsb' 13 6) (w.extractLsb' 7 6))
    else none
  else if m = 0x51#7 then
    if w.extractLsb' 0 13 == 0x1#13 then some (.semWait (w.extractLsb' 19 6) (w.extractLsb' 13 6))
    else if w.extractLsb' 0 7 == 0x0#7 then some (.semAdd (w.extractLsb' 19 6) (w.extractLsb' 13 6) (w.extractLsb' 7 6))
    else if w.extractLsb' 0 7 == 0x2#7 then some (.semAddRing (w.extractLsb' 19 6) (w.extractLsb' 13 6) (w.extractLsb' 7 6))
    else none
  else if m = 0x52#7 then
    if w.extractLsb' 0 13 == 0x1#13 then some (.qbindIn (w.extractLsb' 19 6) (w.extractLsb' 13 6))
    else if w.extractLsb' 0 13 == 0x2#13 then some (.qbindUn (w.extractLsb' 19 6) (w.extractLsb' 13 6))
    else if w.extractLsb' 0 13 == 0x3#13 then some (.qbindQ (w.extractLsb' 19 6) (w.extractLsb' 13 6))
    else if w.extractLsb' 0 7 == 0x0#7 then some (.qbindOut (w.extractLsb' 19 6) (w.extractLsb' 13 6) (w.extractLsb' 7 6))
    else none
  else if m = 0x53#7 then
    if w.extractLsb' 19 6 == 0x0#6 && w.extractLsb' 4 3 == 0x0#3 && w.extractLsb' 0 1 == 0x0#1 then some (.cflush (w.extractLsb' 13 6) (w.extractLsb' 7 6) (w.extractLsb' 1 3))
    else none
  else if m = 0x54#7 then
    if w.extractLsb' 19 6 == 0x0#6 && w.extractLsb' 3 4 == 0x0#4 then some (.pf (w.extractLsb' 13 6) (w.extractLsb' 7 6) (w.extractLsb' 2 1) (w.extractLsb' 0 2))
    else none
  else none

/-- The rows of the vector half, by major opcode (bits [31:25]) and then by their fixed bits. -/
def rowsVector (w : BitVec 32) : Option Instr :=
  let m := w.extractLsb' 25 7
  if m = 0x40#7 then
    some (.fadd (w.extractLsb' 19 6) (w.extractLsb' 13 6) (w.extractLsb' 7 6) (w.extractLsb' 3 4) (w.extractLsb' 0 3))
  else if m = 0x41#7 then
    some (.fsub (w.extractLsb' 19 6) (w.extractLsb' 13 6) (w.extractLsb' 7 6) (w.extractLsb' 3 4) (w.extractLsb' 0 3))
  else if m = 0x42#7 then
    some (.fmul (w.extractLsb' 19 6) (w.extractLsb' 13 6) (w.extractLsb' 7 6) (w.extractLsb' 3 4) (w.extractLsb' 0 3))
  else if m = 0x43#7 then
    some (.ffma (w.extractLsb' 19 6) (w.extractLsb' 13 6) (w.extractLsb' 7 6) (w.extractLsb' 3 4) (w.extractLsb' 0 3))
  else if m = 0x44#7 then
    some (.ffms (w.extractLsb' 19 6) (w.extractLsb' 13 6) (w.extractLsb' 7 6) (w.extractLsb' 3 4) (w.extractLsb' 0 3))
  else if m = 0x45#7 then
    some (.fmin (w.extractLsb' 19 6) (w.extractLsb' 13 6) (w.extractLsb' 7 6) (w.extractLsb' 3 4) (w.extractLsb' 0 3))
  else if m = 0x46#7 then
    some (.fmax (w.extractLsb' 19 6) (w.extractLsb' 13 6) (w.extractLsb' 7 6) (w.extractLsb' 3 4) (w.extractLsb' 0 3))
  else if m = 0x47#7 then
    some (.fcmp (w.extractLsb' 23 2) (w.extractLsb' 19 4) (w.extractLsb' 13 6) (w.extractLsb' 7 6) (w.extractLsb' 3 4) (w.extractLsb' 0 3))
  else if m = 0x48#7 then
    some (.funSpecial (w.extractLsb' 19 6) (w.extractLsb' 13 6) (w.extractLsb' 7 6) (w.extractLsb' 3 4) (w.extractLsb' 0 3))
  else if m = 0x49#7 then
    if w.extractLsb' 3 1 == 0x0#1 then some (.fsgnCpy (w.extractLsb' 19 6) (w.extractLsb' 13 6) (w.extractLsb' 7 6) (w.extractLsb' 4 3) (w.extractLsb' 0 3))
    else if w.extractLsb' 3 1 == 0x1#1 then some (.fsgnXor (w.extractLsb' 19 6) (w.extractLsb' 13 6) (w.extractLsb' 7 6) (w.extractLsb' 4 3) (w.extractLsb' 0 3))
    else none
  else if m = 0x4a#7 then
    some (.iadd (w.extractLsb' 19 6) (w.extractLsb' 13 6) (w.extractLsb' 7 6) (w.extractLsb' 3 4) (w.extractLsb' 0 3))
  else if m = 0x4b#7 then
    some (.isub (w.extractLsb' 19 6) (w.extractLsb' 13 6) (w.extractLsb' 7 6) (w.extractLsb' 3 4) (w.extractLsb' 0 3))
  else if m = 0x4c#7 then
    some (.imul (w.extractLsb' 19 6) (w.extractLsb' 13 6) (w.extractLsb' 7 6) (w.extractLsb' 3 4) (w.extractLsb' 0 3))
  else if m = 0x4d#7 then
    some (.imad (w.extractLsb' 19 6) (w.extractLsb' 13 6) (w.extractLsb' 7 6) (w.extractLsb' 3 4) (w.extractLsb' 0 3))
  else if m = 0x4e#7 then
    some (.imadw (w.extractLsb' 19 6) (w.extractLsb' 13 6) (w.extractLsb' 7 6) (w.extractLsb' 3 4) (w.extractLsb' 0 3))
  else if m = 0x4f#7 then
    if w.extractLsb' 3 1 == 0x0#1 then some (.iadds (w.extractLsb' 19 6) (w.extractLsb' 13 6) (w.extractLsb' 7 6) (w.extractLsb' 4 3) (w.extractLsb' 0 3))
    else if w.extractLsb' 3 1 == 0x1#1 then some (.isubs (w.extractLsb' 19 6) (w.extractLsb' 13 6) (w.extractLsb' 7 6) (w.extractLsb' 4 3) (w.extractLsb' 0 3))
    else none
  else if m = 0x50#7 then
    if w.extractLsb' 3 1 == 0x0#1 then some (.imin (w.extractLsb' 19 6) (w.extractLsb' 13 6) (w.extractLsb' 7 6) (w.extractLsb' 4 3) (w.extractLsb' 0 3))
    else if w.extractLsb' 3 1 == 0x1#1 then some (.imax (w.extractLsb' 19 6) (w.extractLsb' 13 6) (w.extractLsb' 7 6) (w.extractLsb' 4 3) (w.extractLsb' 0 3))
    else none
  else if m = 0x51#7 then
    some (.icmp (w.extractLsb' 23 2) (w.extractLsb' 19 4) (w.extractLsb' 13 6) (w.extractLsb' 7 6) (w.extractLsb' 3 4) (w.extractLsb' 0 3))
  else if m = 0x52#7 then
    some (.logic (w.extractLsb' 19 6) (w.extractLsb' 13 6) (w.extractLsb' 7 6) (w.extractLsb' 3 4) (w.extractLsb' 0 3))
  else if m = 0x53#7 then
    some (.shift (w.extractLsb' 19 6) (w.extractLsb' 13 6) (w.extractLsb' 7 6) (w.extractLsb' 4 3) (w.extractLsb' 3 1) (w.extractLsb' 0 3))
  else if m = 0x54#7 then
    if w.extractLsb' 7 6 == 0x0#6 then some (.iabs (w.extractLsb' 19 6) (w.extractLsb' 13 6) (w.extractLsb' 3 4) (w.extractLsb' 0 3))
    else if w.extractLsb' 7 6 == 0x1#6 then some (.popcV (w.extractLsb' 19 6) (w.extractLsb' 13 6) (w.extractLsb' 3 4) (w.extractLsb' 0 3))
    else if w.extractLsb' 7 6 == 0x2#6 then some (.clzV (w.extractLsb' 19 6) (w.extractLsb' 13 6) (w.extractLsb' 3 4) (w.extractLsb' 0 3))
    else none
  else if m = 0x55#7 then
    if w.extractLsb' 3 2 == 0x0#2 then some (.cvt (w.extractLsb' 19 6) (w.extractLsb' 13 6) (w.extractLsb' 12 1) (w.extractLsb' 9 3) (w.extractLsb' 8 1) (w.extractLsb' 5 3) (w.extractLsb' 0 3))
    else none
  else if m = 0x56#7 then
    some (.qnt (w.extractLsb' 19 6) (w.extractLsb' 13 6) (w.extractLsb' 7 6) (w.extractLsb' 3 4) (w.extractLsb' 0 3))
  else if m = 0x57#7 then
    some (.dqn (w.extractLsb' 19 6) (w.extractLsb' 13 6) (w.extractLsb' 7 6) (w.extractLsb' 3 4) (w.extractLsb' 0 3))
  else if m = 0x58#7 then
    some (.req (w.extractLsb' 19 6) (w.extractLsb' 13 6) (w.extractLsb' 7 6) (w.extractLsb' 3 4) (w.extractLsb' 0 3))
  else if m = 0x59#7 then
    if w.extractLsb' 7 6 == 0x0#6 && w.extractLsb' 3 1 == 0x1#1 then some (.unpk (w.extractLsb' 19 6) (w.extractLsb' 13 6) (w.extractLsb' 4 3) (w.extractLsb' 0 3))
    else if w.extractLsb' 3 1 == 0x0#1 then some (.pack (w.extractLsb' 19 6) (w.extractLsb' 13 6) (w.extractLsb' 7 6) (w.extractLsb' 4 3) (w.extractLsb' 0 3))
    else none
  else if m = 0x5a#7 then
    some (.shuf (w.extractLsb' 19 6) (w.extractLsb' 13 6) (w.extractLsb' 7 6) (w.extractLsb' 3 4) (w.extractLsb' 0 3))
  else if m = 0x5b#7 then
    if w.extractLsb' 3 1 == 0x0#1 then some (.bcast (w.extractLsb' 19 6) (w.extractLsb' 13 6) (w.extractLsb' 7 6) (w.extractLsb' 4 3) (w.extractLsb' 0 3))
    else if w.extractLsb' 3 1 == 0x1#1 then some (.slide (w.extractLsb' 19 6) (w.extractLsb' 13 6) (w.extractLsb' 12 1) (w.extractLsb' 7 5) (w.extractLsb' 4 3) (w.extractLsb' 0 3))
    else none
  else if m = 0x5c#7 then
    if w.extractLsb' 3 1 == 0x0#1 then some (.zip (w.extractLsb' 19 6) (w.extractLsb' 13 6) (w.extractLsb' 7 6) (w.extractLsb' 4 3) (w.extractLsb' 0 3))
    else if w.extractLsb' 3 1 == 0x1#1 then some (.unzip (w.extractLsb' 19 6) (w.extractLsb' 13 6) (w.extractLsb' 7 6) (w.extractLsb' 4 3) (w.extractLsb' 0 3))
    else none
  else if m = 0x5d#7 then
    some (.scan (w.extractLsb' 19 6) (w.extractLsb' 13 6) (w.extractLsb' 7 6) (w.extractLsb' 3 4) (w.extractLsb' 0 3))
  else if m = 0x5e#7 then
    some (.red (w.extractLsb' 19 6) (w.extractLsb' 13 6) (w.extractLsb' 7 6) (w.extractLsb' 3 4) (w.extractLsb' 0 3))
  else if m = 0x5f#7 then
    if w.extractLsb' 22 3 == 0x3#3 && w.extractLsb' 16 2 == 0x0#2 && w.extractLsb' 0 12 == 0x0#12 then some (.pnot (w.extractLsb' 18 4) (w.extractLsb' 12 4))
    else if w.extractLsb' 22 3 == 0x4#3 && w.extractLsb' 16 2 == 0x0#2 && w.extractLsb' 0 12 == 0x0#12 then some (.pmov (w.extractLsb' 18 4) (w.extractLsb' 12 4))
    else if w.extractLsb' 22 3 == 0x1#3 && w.extractLsb' 16 2 == 0x0#2 && w.extractLsb' 10 2 == 0x0#2 && w.extractLsb' 0 6 == 0x0#6 then some (.pand (w.extractLsb' 18 4) (w.extractLsb' 12 4) (w.extractLsb' 6 4))
    else if w.extractLsb' 22 3 == 0x2#3 && w.extractLsb' 16 2 == 0x0#2 && w.extractLsb' 10 2 == 0x0#2 && w.extractLsb' 0 6 == 0x0#6 then some (.por (w.extractLsb' 18 4) (w.extractLsb' 12 4) (w.extractLsb' 6 4))
    else if w.extractLsb' 22 3 == 0x0#3 && w.extractLsb' 0 6 == 0x0#6 then some (.pset (w.extractLsb' 18 4) (w.extractLsb' 12 6) (w.extractLsb' 6 6))
    else none
  else if m = 0x60#7 then
    some (.vbr (w.extractLsb' 21 4) (w.extractLsb' 10 11) (w.extractLsb' 0 10))
  else if m = 0x61#7 then
    if w.extractLsb' 0 19 == 0x0#19 then some (.vexit (w.extractLsb' 19 6))
    else none
  else if m = 0x62#7 then
    if w.extractLsb' 0 25 == 0x0#25 then some (.whole)
    else none
  else if m = 0x63#7 then
    if w.extractLsb' 0 25 == 0x0#25 then some (.endwhole)
    else none
  else if m = 0x64#7 then
    if w.extractLsb' 23 2 == 0x0#2 && w.extractLsb' 17 2 == 0x0#2 && w.extractLsb' 7 6 == 0x0#6 && w.extractLsb' 0 3 == 0x0#3 then some (.voteAny (w.extractLsb' 19 4) (w.extractLsb' 13 4) (w.extractLsb' 3 4))
    else if w.extractLsb' 23 2 == 0x1#2 && w.extractLsb' 17 2 == 0x0#2 && w.extractLsb' 7 6 == 0x0#6 && w.extractLsb' 0 3 == 0x0#3 then some (.voteAll (w.extractLsb' 19 4) (w.extractLsb' 13 4) (w.extractLsb' 3 4))
    else if w.extractLsb' 23 2 == 0x2#2 && w.extractLsb' 17 2 == 0x0#2 && w.extractLsb' 7 6 == 0x0#6 && w.extractLsb' 0 3 == 0x0#3 then some (.voteBallot (w.extractLsb' 19 4) (w.extractLsb' 13 4) (w.extractLsb' 3 4))
    else none
  else if m = 0x65#7 then
    some (.part (w.extractLsb' 19 6) (w.extractLsb' 13 6) (w.extractLsb' 7 6) (w.extractLsb' 3 4) (w.extractLsb' 0 3))
  else if m = 0x66#7 then
    if w.extractLsb' 0 19 == 0x0#19 then some (.vrot (w.extractLsb' 19 6))
    else none
  else if m = 0x67#7 then
    if w.extractLsb' 7 6 == 0x0#6 && w.extractLsb' 0 4 == 0x0#4 then some (.vmov (w.extractLsb' 19 6) (w.extractLsb' 13 6) (w.extractLsb' 4 3))
    else if w.extractLsb' 7 6 == 0x0#6 && w.extractLsb' 3 1 == 0x1#1 then some (.vsplat (w.extractLsb' 19 6) (w.extractLsb' 13 6) (w.extractLsb' 4 3) (w.extractLsb' 0 3))
    else none
  else if m = 0x68#7 then
    some (.vld (w.extractLsb' 19 6) (w.extractLsb' 13 6) (w.extractLsb' 10 3) (w.extractLsb' 6 4) (w.extractLsb' 4 2) (w.extractLsb' 3 1) (w.extractLsb' 0 3))
  else if m = 0x69#7 then
    some (.vst (w.extractLsb' 19 6) (w.extractLsb' 13 6) (w.extractLsb' 10 3) (w.extractLsb' 6 4) (w.extractLsb' 4 2) (w.extractLsb' 3 1) (w.extractLsb' 0 3))
  else if m = 0x6a#7 then
    some (.vlds (w.extractLsb' 19 6) (w.extractLsb' 13 6) (w.extractLsb' 10 3) (w.extractLsb' 6 4) (w.extractLsb' 4 2) (w.extractLsb' 3 1) (w.extractLsb' 0 3))
  else if m = 0x6b#7 then
    some (.vsts (w.extractLsb' 19 6) (w.extractLsb' 13 6) (w.extractLsb' 10 3) (w.extractLsb' 6 4) (w.extractLsb' 4 2) (w.extractLsb' 3 1) (w.extractLsb' 0 3))
  else if m = 0x6c#7 then
    some (.vgath (w.extractLsb' 19 6) (w.extractLsb' 13 6) (w.extractLsb' 10 3) (w.extractLsb' 6 4) (w.extractLsb' 4 2) (w.extractLsb' 3 1) (w.extractLsb' 0 3))
  else if m = 0x6d#7 then
    some (.vscat (w.extractLsb' 19 6) (w.extractLsb' 13 6) (w.extractLsb' 10 3) (w.extractLsb' 6 4) (w.extractLsb' 4 2) (w.extractLsb' 3 1) (w.extractLsb' 0 3))
  else if m = 0x6e#7 then
    some (.vatom (w.extractLsb' 19 6) (w.extractLsb' 13 6) (w.extractLsb' 10 3) (w.extractLsb' 6 4) (w.extractLsb' 4 2) (w.extractLsb' 1 3) (w.extractLsb' 0 1))
  else if m = 0x6f#7 then
    if w.extractLsb' 19 1 == 0x0#1 && w.extractLsb' 6 4 == 0xa#4 then some (.vcas (w.extractLsb' 20 5) (w.extractLsb' 13 6) (w.extractLsb' 10 3) (w.extractLsb' 4 2) (w.extractLsb' 1 3) (w.extractLsb' 0 1))
    else none
  else if m = 0x70#7 then
    if w.extractLsb' 21 4 == 0x0#4 && w.extractLsb' 0 13 == 0x0#13 then some (.qsend (w.extractLsb' 19 2) (w.extractLsb' 13 6))
    else if w.extractLsb' 15 4 == 0x0#4 && w.extractLsb' 0 13 == 0x8#13 then some (.qrecv (w.extractLsb' 19 6) (w.extractLsb' 13 2))
    else none
  else if m = 0x71#7 then
    some (.vmx (w.extractLsb' 19 6) (w.extractLsb' 13 6) (w.extractLsb' 7 6) (w.extractLsb' 1 6) (w.extractLsb' 0 1))
  else if m = 0x72#7 then
    if w.extractLsb' 0 3 == 0x0#3 then some (.rayQ (w.extractLsb' 19 6) (w.extractLsb' 13 6) (w.extractLsb' 7 6) (w.extractLsb' 3 4))
    else if w.extractLsb' 0 3 == 0x1#3 then some (.rayHit (w.extractLsb' 19 6) (w.extractLsb' 13 6) (w.extractLsb' 7 6) (w.extractLsb' 3 4))
    else if w.extractLsb' 0 3 == 0x2#3 then some (.rayRes (w.extractLsb' 19 6) (w.extractLsb' 13 6) (w.extractLsb' 7 6) (w.extractLsb' 3 4))
    else none
  else if m = 0x73#7 then
    if w.extractLsb' 0 3 == 0x0#3 then some (.tex2d (w.extractLsb' 19 6) (w.extractLsb' 13 6) (w.extractLsb' 7 6) (w.extractLsb' 3 4))
    else if w.extractLsb' 0 3 == 0x1#3 then some (.tex3d (w.extractLsb' 19 6) (w.extractLsb' 13 6) (w.extractLsb' 7 6) (w.extractLsb' 3 4))
    else if w.extractLsb' 0 3 == 0x2#3 then some (.texFetch (w.extractLsb' 19 6) (w.extractLsb' 13 6) (w.extractLsb' 7 6) (w.extractLsb' 3 4))
    else none
  else if m = 0x74#7 then
    if w.extractLsb' 0 3 == 0x0#3 then some (.visLd (w.extractLsb' 19 6) (w.extractLsb' 13 6) (w.extractLsb' 7 6) (w.extractLsb' 3 4))
    else if w.extractLsb' 0 3 == 0x1#3 then some (.visLdRel (w.extractLsb' 19 6) (w.extractLsb' 13 6) (w.extractLsb' 7 6) (w.extractLsb' 3 4))
    else none
  else if m = 0x75#7 then
    if w.extractLsb' 0 25 == 0x2#25 then some (.primEnd)
    else if w.extractLsb' 13 12 == 0x0#12 && w.extractLsb' 0 7 == 0x0#7 then some (.primOpen (w.extractLsb' 7 6))
    else if w.extractLsb' 0 3 == 0x1#3 then some (.primEmit (w.extractLsb' 19 6) (w.extractLsb' 13 6) (w.extractLsb' 7 6) (w.extractLsb' 3 4))
    else none
  else if m = 0x76#7 then
    if w.extractLsb' 0 7 == 0x0#7 then some (.guideOut (w.extractLsb' 19 6) (w.extractLsb' 13 6) (w.extractLsb' 7 6))
    else none
  else none

/-- The rows of the matrix half, by major opcode (bits [31:25]) and then by their fixed bits. -/
def rowsMatrix (w : BitVec 32) : Option Instr :=
  let m := w.extractLsb' 25 7
  if m = 0x40#7 then
    if w.extractLsb' 4 11 == 0x0#11 then some (.gset (w.extractLsb' 21 4) (w.extractLsb' 15 6) (w.extractLsb' 0 4))
    else none
  else if m = 0x41#7 then
    if w.extractLsb' 4 5 == 0x0#5 then some (.gld (w.extractLsb' 21 4) (w.extractLsb' 15 6) (w.extractLsb' 9 6) (w.extractLsb' 1 3) (w.extractLsb' 0 1))
    else none
  else if m = 0x42#7 then
    if w.extractLsb' 4 5 == 0x0#5 then some (.gst (w.extractLsb' 21 4) (w.extractLsb' 15 6) (w.extractLsb' 9 6) (w.extractLsb' 1 3) (w.extractLsb' 0 1))
    else none
  else if m = 0x43#7 then
    if w.extractLsb' 0 9 == 0x0#9 then some (.gadv (w.extractLsb' 21 4) (w.extractLsb' 15 6) (w.extractLsb' 9 6))
    else none
  else if m = 0x44#7 then
    if w.extractLsb' 0 9 == 0x0#9 then some (.mzero (w.extractLsb' 9 16))
    else none
  else if m = 0x45#7 then
    some (.mloop (w.extractLsb' 21 4) (w.extractLsb' 17 4) (w.extractLsb' 13 4) (w.extractLsb' 11 2) (w.extractLsb' 10 1) (w.extractLsb' 0 10))
  else if m = 0x46#7 then
    some (.mloopC (w.extractLsb' 21 4) (w.extractLsb' 17 4) (w.extractLsb' 13 4) (w.extractLsb' 11 2) (w.extractLsb' 10 1) (w.extractLsb' 0 10))
  else if m = 0x47#7 then
    some (.mstep (w.extractLsb' 21 4) (w.extractLsb' 17 4) (w.extractLsb' 13 4) (w.extractLsb' 11 2) (w.extractLsb' 10 1) (w.extractLsb' 0 10))
  else if m = 0x48#7 then
    if w.extractLsb' 13 12 == 0x0#12 && w.extractLsb' 0 6 == 0x0#6 then some (.mbatch (w.extractLsb' 10 3) (w.extractLsb' 9 1) (w.extractLsb' 6 3))
    else none
  else if m = 0x49#7 then
    if w.extractLsb' 0 25 == 0x1#25 then some (.mwaitAll)
    else if w.extractLsb' 9 16 == 0x0#16 && w.extractLsb' 0 6 == 0x0#6 then some (.mwait (w.extractLsb' 6 3))
    else none
  else if m = 0x4a#7 then
    if w.extractLsb' 1 10 == 0x0#10 then some (.mdrain (w.extractLsb' 21 4) (w.extractLsb' 17 4) (w.extractLsb' 11 6) (w.extractLsb' 0 1))
    else none
  else if m = 0x4b#7 then
    if w.extractLsb' 0 11 == 0x0#11 then some (.mlda (w.extractLsb' 21 4) (w.extractLsb' 17 4) (w.extractLsb' 11 6))
    else none
  else if m = 0x4c#7 then
    if w.extractLsb' 17 4 == 0x0#4 && w.extractLsb' 0 11 == 0x0#11 then some (.mrescS (w.extractLsb' 21 4) (w.extractLsb' 11 6))
    else if w.extractLsb' 0 11 == 0x1#11 then some (.mrescRow (w.extractLsb' 21 4) (w.extractLsb' 17 4) (w.extractLsb' 11 6))
    else if w.extractLsb' 0 11 == 0x2#11 then some (.mrescCol (w.extractLsb' 21 4) (w.extractLsb' 17 4) (w.extractLsb' 11 6))
    else none
  else if m = 0x4d#7 then
    if w.extractLsb' 0 25 == 0x0#25 then some (.mmigOff)
    else if w.extractLsb' 0 25 == 0x80#25 then some (.mmigAny)
    else if w.extractLsb' 0 19 == 0x40#19 then some (.mmigWait (w.extractLsb' 19 6))
    else none
  else none

/-- The rows of the copy half, by major opcode (bits [31:25]) and then by their fixed bits. -/
def rowsCopy (w : BitVec 32) : Option Instr :=
  let m := w.extractLsb' 25 7
  if m = 0x40#7 then
    if w.extractLsb' 0 4 == 0x0#4 then some (.cp (w.extractLsb' 21 4) (w.extractLsb' 17 4) (w.extractLsb' 11 6) (w.extractLsb' 8 3) (w.extractLsb' 4 4))
    else none
  else if m = 0x41#7 then
    if w.extractLsb' 0 4 == 0x0#4 then some (.cp2d (w.extractLsb' 21 4) (w.extractLsb' 17 4) (w.extractLsb' 11 6) (w.extractLsb' 8 3) (w.extractLsb' 4 4))
    else none
  else if m = 0x42#7 then
    if w.extractLsb' 0 4 == 0x0#4 then some (.cp3d (w.extractLsb' 21 4) (w.extractLsb' 17 4) (w.extractLsb' 11 6) (w.extractLsb' 8 3) (w.extractLsb' 4 4))
    else none
  else if m = 0x43#7 then
    if w.extractLsb' 1 3 == 0x0#3 then some (.cpMc (w.extractLsb' 21 4) (w.extractLsb' 17 4) (w.extractLsb' 11 6) (w.extractLsb' 8 3) (w.extractLsb' 4 4) (w.extractLsb' 0 1))
    else none
  else if m = 0x44#7 then
    if w.extractLsb' 1 3 == 0x0#3 then some (.cpG (w.extractLsb' 21 4) (w.extractLsb' 17 4) (w.extractLsb' 11 6) (w.extractLsb' 8 3) (w.extractLsb' 4 4) (w.extractLsb' 0 1))
    else none
  else if m = 0x45#7 then
    some (.cpY (w.extractLsb' 21 4) (w.extractLsb' 17 4) (w.extractLsb' 11 6) (w.extractLsb' 8 3) (w.extractLsb' 2 6) (w.extractLsb' 0 2))
  else if m = 0x46#7 then
    if w.extractLsb' 8 17 == 0x0#17 && w.extractLsb' 0 3 == 0x0#3 then some (.cpWait (w.extractLsb' 4 4) (w.extractLsb' 3 1))
    else none
  else if m = 0x47#7 then
    if w.extractLsb' 0 4 == 0x0#4 then some (.cpFill (w.extractLsb' 21 4) (w.extractLsb' 17 4) (w.extractLsb' 11 6) (w.extractLsb' 8 3) (w.extractLsb' 4 4))
    else none
  else if m = 0x48#7 then
    if w.extractLsb' 17 4 == 0x0#4 && w.extractLsb' 8 3 == 0x0#3 && w.extractLsb' 0 3 == 0x0#3 then some (.cpSem (w.extractLsb' 21 4) (w.extractLsb' 11 6) (w.extractLsb' 4 4) (w.extractLsb' 3 1))
    else none
  else if m = 0x49#7 then
    if w.extractLsb' 21 4 == 0x0#4 && w.extractLsb' 2 9 == 0x0#9 then some (.cpPf (w.extractLsb' 17 4) (w.extractLsb' 11 6) (w.extractLsb' 0 2))
    else none
  else none

/-- The word of an instruction (R243-R251): the fixed bits of its row with its fields in their places; an event has
no word. -/
def encode (i : Instr) : Option (BitVec 32) :=
  match i with
  | .nop => some (0x0#7 ++ 0x1#25 : BitVec 32)
  | .trap a => some (0x0#7 ++ 0x0#6 ++ a ++ 0x2#13 : BitVec 32)
  | .bkpt => some (0x0#7 ++ 0x3#25 : BitVec 32)
  | .exit => some (0x0#7 ++ 0x4#25 : BitVec 32)
  | .yield => some (0x0#7 ++ 0x5#25 : BitVec 32)
  | .sleep d a => some (0x0#7 ++ d ++ a ++ 0x6#13 : BitVec 32)
  | .watch a => some (0x0#7 ++ 0x0#6 ++ a ++ 0x7#13 : BitVec 32)
  | .meet => some (0x0#7 ++ 0x8#25 : BitVec 32)
  | .snap => some (0x0#7 ++ 0x9#25 : BitVec 32)
  | .mfs d n => some (0x0#7 ++ d ++ n ++ 0xa#13 : BitVec 32)
  | .mts n b => some (0x0#7 ++ 0x0#6 ++ n ++ b ++ 0xb#7 : BitVec 32)
  | .resume d a => some (0x0#7 ++ d ++ a ++ 0xc#13 : BitVec 32)
  | .kill d a => some (0x0#7 ++ d ++ a ++ 0xd#13 : BitVec 32)
  | .tlbi d a b => some (0x0#7 ++ d ++ a ++ b ++ 0xe#7 : BitVec 32)
  | .add d a b => some (0x1#7 ++ d ++ a ++ b ++ 0x0#7 : BitVec 32)
  | .sub d a b => some (0x1#7 ++ d ++ a ++ b ++ 0x1#7 : BitVec 32)
  | .mul d a b => some (0x1#7 ++ d ++ a ++ b ++ 0x2#7 : BitVec 32)
  | .mulhs d a b => some (0x1#7 ++ d ++ a ++ b ++ 0x3#7 : BitVec 32)
  | .mulhu d a b => some (0x1#7 ++ d ++ a ++ b ++ 0x4#7 : BitVec 32)
  | .divs d a b => some (0x1#7 ++ d ++ a ++ b ++ 0x5#7 : BitVec 32)
  | .divu d a b => some (0x1#7 ++ d ++ a ++ b ++ 0x6#7 : BitVec 32)
  | .rems d a b => some (0x1#7 ++ d ++ a ++ b ++ 0x7#7 : BitVec 32)
  | .remu d a b => some (0x1#7 ++ d ++ a ++ b ++ 0x8#7 : BitVec 32)
  | .and d a b => some (0x2#7 ++ d ++ a ++ b ++ 0x0#7 : BitVec 32)
  | .or d a b => some (0x2#7 ++ d ++ a ++ b ++ 0x1#7 : BitVec 32)
  | .xor d a b => some (0x2#7 ++ d ++ a ++ b ++ 0x2#7 : BitVec 32)
  | .andn d a b => some (0x2#7 ++ d ++ a ++ b ++ 0x3#7 : BitVec 32)
  | .shl d a b => some (0x2#7 ++ d ++ a ++ b ++ 0x4#7 : BitVec 32)
  | .shr d a b => some (0x2#7 ++ d ++ a ++ b ++ 0x5#7 : BitVec 32)
  | .sar d a b => some (0x2#7 ++ d ++ a ++ b ++ 0x6#7 : BitVec 32)
  | .rol d a b => some (0x2#7 ++ d ++ a ++ b ++ 0x7#7 : BitVec 32)
  | .min d a b => some (0x3#7 ++ d ++ a ++ b ++ 0x0#7 : BitVec 32)
  | .max d a b => some (0x3#7 ++ d ++ a ++ b ++ 0x1#7 : BitVec 32)
  | .minu d a b => some (0x3#7 ++ d ++ a ++ b ++ 0x2#7 : BitVec 32)
  | .maxu d a b => some (0x3#7 ++ d ++ a ++ b ++ 0x3#7 : BitVec 32)
  | .seq d a b => some (0x3#7 ++ d ++ a ++ b ++ 0x4#7 : BitVec 32)
  | .sne d a b => some (0x3#7 ++ d ++ a ++ b ++ 0x5#7 : BitVec 32)
  | .slt d a b => some (0x3#7 ++ d ++ a ++ b ++ 0x6#7 : BitVec 32)
  | .sltu d a b => some (0x3#7 ++ d ++ a ++ b ++ 0x7#7 : BitVec 32)
  | .sel d a b => some (0x3#7 ++ d ++ a ++ b ++ 0x8#7 : BitVec 32)
  | .clz d a => some (0x3#7 ++ d ++ a ++ 0x9#13 : BitVec 32)
  | .ctz d a => some (0x3#7 ++ d ++ a ++ 0xa#13 : BitVec 32)
  | .popc d a => some (0x3#7 ++ d ++ a ++ 0xb#13 : BitVec 32)
  | .brev d a => some (0x3#7 ++ d ++ a ++ 0xc#13 : BitVec 32)
  | .addi d a i => some (0x4#7 ++ d ++ a ++ i : BitVec 32)
  | .andi d a i => some (0x5#7 ++ d ++ a ++ i : BitVec 32)
  | .ori d a i => some (0x6#7 ++ d ++ a ++ i : BitVec 32)
  | .xori d a i => some (0x7#7 ++ d ++ a ++ i : BitVec 32)
  | .shli d a i => some (0x8#7 ++ d ++ a ++ 0x0#7 ++ i : BitVec 32)
  | .shri d a i => some (0x9#7 ++ d ++ a ++ 0x0#7 ++ i : BitVec 32)
  | .sari d a i => some (0xa#7 ++ d ++ a ++ 0x0#7 ++ i : BitVec 32)
  | .slti d a i => some (0xb#7 ++ d ++ a ++ i : BitVec 32)
  | .sltui d a i => some (0xc#7 ++ d ++ a ++ i : BitVec 32)
  | .muli d a i => some (0xd#7 ++ d ++ a ++ i : BitVec 32)
  | .ahi d i => some (0xe#7 ++ d ++ i : BitVec 32)
  | .lea d a b s => some (0xf#7 ++ d ++ a ++ b ++ 0x0#4 ++ s : BitVec 32)
  | .step2 d a b => some (0x10#7 ++ d ++ a ++ b ++ 0x0#7 : BitVec 32)
  | .wrap d a b => some (0x11#7 ++ d ++ a ++ b ++ 0x0#7 : BitVec 32)
  | .b o => some (0x12#7 ++ o : BitVec 32)
  | .bl o => some (0x13#7 ++ o : BitVec 32)
  | .bc c a o => some (0x14#7 ++ c ++ a ++ o : BitVec 32)
  | .bcBset a n o => some (0x14#7 ++ 0x6#4 ++ a ++ n ++ o : BitVec 32)
  | .bcBclr a n o => some (0x14#7 ++ 0x7#4 ++ a ++ n ++ o : BitVec 32)
  | .br a => some (0x15#7 ++ 0x0#6 ++ a ++ 0x0#13 : BitVec 32)
  | .blr a => some (0x15#7 ++ 0x0#6 ++ a ++ 0x1#13 : BitVec 32)
  | .ret => some (0x15#7 ++ 0x2#25 : BitVec 32)
  | .loop l n e => some (0x16#7 ++ l ++ n ++ 0x0#5 ++ e : BitVec 32)
  | .loopi l c e => some (0x17#7 ++ l ++ c ++ e : BitVec 32)
  | .loopx l n e => some (0x18#7 ++ l ++ n ++ 0x0#5 ++ e : BitVec 32)
  | .loopSp l n s e => some (0x19#7 ++ l ++ n ++ s ++ e : BitVec 32)
  | .tokGive k => some (0x1a#7 ++ 0x0#15 ++ k ++ 0x0#7 : BitVec 32)
  | .tokTake k => some (0x1a#7 ++ 0x0#15 ++ k ++ 0x1#7 : BitVec 32)
  | .tokPeek d k => some (0x1a#7 ++ d ++ 0x0#9 ++ k ++ 0x2#7 : BitVec 32)
  | .tokZero k => some (0x1a#7 ++ 0x0#15 ++ k ++ 0x3#7 : BitVec 32)
  | .tokArm e t g k => some (0x1a#7 ++ e ++ 0x0#2 ++ t ++ 0x0#6 ++ g ++ 0x0#2 ++ k ++ 0x4#7 : BitVec 32)
  | .crewJoin d a => some (0x1b#7 ++ d ++ a ++ 0x0#13 : BitVec 32)
  | .crewLeave d a => some (0x1b#7 ++ d ++ a ++ 0x1#13 : BitVec 32)
  | .crewInfo d a b => some (0x1b#7 ++ d ++ a ++ b ++ 0x2#7 : BitVec 32)
  | .barArr d a b => some (0x1c#7 ++ d ++ a ++ b ++ 0x0#7 : BitVec 32)
  | .barWait d a b => some (0x1c#7 ++ d ++ a ++ b ++ 0x1#7 : BitVec 32)
  | .barAw d a b => some (0x1c#7 ++ d ++ a ++ b ++ 0x2#7 : BitVec 32)
  | .ld d a i z x o s => some (0x40#7 ++ d ++ a ++ i ++ z ++ x ++ o ++ s : BitVec 32)
  | .st d a i z o s => some (0x41#7 ++ d ++ a ++ i ++ z ++ 0x0#1 ++ o ++ s : BitVec 32)
  | .ldx d a z x o => some (0x42#7 ++ d ++ a ++ 0x0#7 ++ z ++ x ++ o ++ 0x0#2 : BitVec 32)
  | .ldxPeer d a b z x o => some (0x42#7 ++ d ++ a ++ b ++ 0x1#1 ++ z ++ x ++ o ++ 0x0#2 : BitVec 32)
  | .stx d a z o => some (0x43#7 ++ d ++ a ++ 0x0#7 ++ z ++ 0x0#1 ++ o ++ 0x0#2 : BitVec 32)
  | .stxPeer d a b z o => some (0x43#7 ++ d ++ a ++ b ++ 0x1#1 ++ z ++ 0x0#1 ++ o ++ 0x0#2 : BitVec 32)
  | .atomAdd d a b o s n w => some (0x44#7 ++ d ++ a ++ b ++ o ++ s ++ n ++ w : BitVec 32)
  | .atomAnd d a b o s n w => some (0x45#7 ++ d ++ a ++ b ++ o ++ s ++ n ++ w : BitVec 32)
  | .atomOr d a b o s n w => some (0x46#7 ++ d ++ a ++ b ++ o ++ s ++ n ++ w : BitVec 32)
  | .atomXor d a b o s n w => some (0x47#7 ++ d ++ a ++ b ++ o ++ s ++ n ++ w : BitVec 32)
  | .atomMin d a b o s n w => some (0x48#7 ++ d ++ a ++ b ++ o ++ s ++ n ++ w : BitVec 32)
  | .atomMax d a b o s n w => some (0x49#7 ++ d ++ a ++ b ++ o ++ s ++ n ++ w : BitVec 32)
  | .atomSwap d a b o s n w => some (0x4a#7 ++ d ++ a ++ b ++ o ++ s ++ n ++ w : BitVec 32)
  | .atomCas d a b o s n w => some (0x4b#7 ++ d ++ a ++ b ++ o ++ s ++ n ++ w : BitVec 32)
  | .atomFadd d a b o s n => some (0x4c#7 ++ d ++ a ++ b ++ o ++ s ++ n ++ 0x0#1 : BitVec 32)
  | .atomMinu d a b o s n w => some (0x55#7 ++ d ++ a ++ b ++ o ++ s ++ n ++ w : BitVec 32)
  | .atomMaxu d a b o s n w => some (0x56#7 ++ d ++ a ++ b ++ o ++ s ++ n ++ w : BitVec 32)
  | .fence s => some (0x4d#7 ++ 0x0#21 ++ s ++ 0x0#1 : BitVec 32)
  | .fenceRel s => some (0x4d#7 ++ 0x1#21 ++ s ++ 0x0#1 : BitVec 32)
  | .fenceAcq s => some (0x4d#7 ++ 0x2#21 ++ s ++ 0x0#1 : BitVec 32)
  | .fenceOwn s => some (0x4d#7 ++ 0x3#21 ++ s ++ 0x0#1 : BitVec 32)
  | .fenceRem a s => some (0x4d#7 ++ 0x0#6 ++ a ++ 0x4#9 ++ s ++ 0x0#1 : BitVec 32)
  | .launch d a b => some (0x4e#7 ++ d ++ a ++ b ++ 0x0#7 : BitVec 32)
  | .wqry a k => some (0x4f#7 ++ 0x0#6 ++ a ++ 0x0#10 ++ k : BitVec 32)
  | .govqOpen d a b => some (0x50#7 ++ d ++ a ++ b ++ 0x0#7 : BitVec 32)
  | .govqMark b => some (0x50#7 ++ 0x0#12 ++ b ++ 0x1#7 : BitVec 32)
  | .govqNext d a b => some (0x50#7 ++ d ++ a ++ b ++ 0x2#7 : BitVec 32)
  | .semAdd d a b => some (0x51#7 ++ d ++ a ++ b ++ 0x0#7 : BitVec 32)
  | .semWait d a => some (0x51#7 ++ d ++ a ++ 0x1#13 : BitVec 32)
  | .semAddRing d a b => some (0x51#7 ++ d ++ a ++ b ++ 0x2#7 : BitVec 32)
  | .qbindOut d a b => some (0x52#7 ++ d ++ a ++ b ++ 0x0#7 : BitVec 32)
  | .qbindIn d a => some (0x52#7 ++ d ++ a ++ 0x1#13 : BitVec 32)
  | .qbindUn d a => some (0x52#7 ++ d ++ a ++ 0x2#13 : BitVec 32)
  | .qbindQ d a => some (0x52#7 ++ d ++ a ++ 0x3#13 : BitVec 32)
  | .cflush a b s => some (0x53#7 ++ 0x0#6 ++ a ++ b ++ 0x0#3 ++ s ++ 0x0#1 : BitVec 32)
  | .pf a b w l => some (0x54#7 ++ 0x0#6 ++ a ++ b ++ 0x0#4 ++ w ++ l : BitVec 32)
  | .fadd d a b p t => some (0x40#7 ++ d ++ a ++ b ++ p ++ t : BitVec 32)
  | .fsub d a b p t => some (0x41#7 ++ d ++ a ++ b ++ p ++ t : BitVec 32)
  | .fmul d a b p t => some (0x42#7 ++ d ++ a ++ b ++ p ++ t : BitVec 32)
  | .ffma d a b p t => some (0x43#7 ++ d ++ a ++ b ++ p ++ t : BitVec 32)
  | .ffms d a b p t => some (0x44#7 ++ d ++ a ++ b ++ p ++ t : BitVec 32)
  | .fmin d a b p t => some (0x45#7 ++ d ++ a ++ b ++ p ++ t : BitVec 32)
  | .fmax d a b p t => some (0x46#7 ++ d ++ a ++ b ++ p ++ t : BitVec 32)
  | .fcmp c q a b p t => some (0x47#7 ++ c ++ q ++ a ++ b ++ p ++ t : BitVec 32)
  | .funSpecial d a o p t => some (0x48#7 ++ d ++ a ++ o ++ p ++ t : BitVec 32)
  | .fsgnCpy d a b x t => some (0x49#7 ++ d ++ a ++ b ++ x ++ 0x0#1 ++ t : BitVec 32)
  | .fsgnXor d a b x t => some (0x49#7 ++ d ++ a ++ b ++ x ++ 0x1#1 ++ t : BitVec 32)
  | .iadd d a b p t => some (0x4a#7 ++ d ++ a ++ b ++ p ++ t : BitVec 32)
  | .isub d a b p t => some (0x4b#7 ++ d ++ a ++ b ++ p ++ t : BitVec 32)
  | .imul d a b p t => some (0x4c#7 ++ d ++ a ++ b ++ p ++ t : BitVec 32)
  | .imad d a b p t => some (0x4d#7 ++ d ++ a ++ b ++ p ++ t : BitVec 32)
  | .imadw d a b p t => some (0x4e#7 ++ d ++ a ++ b ++ p ++ t : BitVec 32)
  | .iadds d a b x t => some (0x4f#7 ++ d ++ a ++ b ++ x ++ 0x0#1 ++ t : BitVec 32)
  | .isubs d a b x t => some (0x4f#7 ++ d ++ a ++ b ++ x ++ 0x1#1 ++ t : BitVec 32)
  | .imin d a b x t => some (0x50#7 ++ d ++ a ++ b ++ x ++ 0x0#1 ++ t : BitVec 32)
  | .imax d a b x t => some (0x50#7 ++ d ++ a ++ b ++ x ++ 0x1#1 ++ t : BitVec 32)
  | .icmp c q a b p t => some (0x51#7 ++ c ++ q ++ a ++ b ++ p ++ t : BitVec 32)
  | .logic d a b p o => some (0x52#7 ++ d ++ a ++ b ++ p ++ o : BitVec 32)
  | .shift d a b x f t => some (0x53#7 ++ d ++ a ++ b ++ x ++ f ++ t : BitVec 32)
  | .iabs d a p t => some (0x54#7 ++ d ++ a ++ 0x0#6 ++ p ++ t : BitVec 32)
  | .popcV d a p t => some (0x54#7 ++ d ++ a ++ 0x1#6 ++ p ++ t : BitVec 32)
  | .clzV d a p t => some (0x54#7 ++ d ++ a ++ 0x2#6 ++ p ++ t : BitVec 32)
  | .cvt d a s y f r t => some (0x55#7 ++ d ++ a ++ s ++ y ++ f ++ r ++ 0x0#2 ++ t : BitVec 32)
  | .qnt d a b q t => some (0x56#7 ++ d ++ a ++ b ++ q ++ t : BitVec 32)
  | .dqn d a b q t => some (0x57#7 ++ d ++ a ++ b ++ q ++ t : BitVec 32)
  | .req d a b q t => some (0x58#7 ++ d ++ a ++ b ++ q ++ t : BitVec 32)
  | .pack d a b x t => some (0x59#7 ++ d ++ a ++ b ++ x ++ 0x0#1 ++ t : BitVec 32)
  | .unpk d a x t => some (0x59#7 ++ d ++ a ++ 0x0#6 ++ x ++ 0x1#1 ++ t : BitVec 32)
  | .shuf d a b p t => some (0x5a#7 ++ d ++ a ++ b ++ p ++ t : BitVec 32)
  | .bcast d a b x t => some (0x5b#7 ++ d ++ a ++ b ++ x ++ 0x0#1 ++ t : BitVec 32)
  | .slide d a u k x t => some (0x5b#7 ++ d ++ a ++ u ++ k ++ x ++ 0x1#1 ++ t : BitVec 32)
  | .zip d a b x t => some (0x5c#7 ++ d ++ a ++ b ++ x ++ 0x0#1 ++ t : BitVec 32)
  | .unzip d a b x t => some (0x5c#7 ++ d ++ a ++ b ++ x ++ 0x1#1 ++ t : BitVec 32)
  | .scan d a o p t => some (0x5d#7 ++ d ++ a ++ o ++ p ++ t : BitVec 32)
  | .red d a o p t => some (0x5e#7 ++ d ++ a ++ o ++ p ++ t : BitVec 32)
  | .pset p x y => some (0x5f#7 ++ 0x0#3 ++ p ++ x ++ y ++ 0x0#6 : BitVec 32)
  | .pand p x y => some (0x5f#7 ++ 0x1#3 ++ p ++ 0x0#2 ++ x ++ 0x0#2 ++ y ++ 0x0#6 : BitVec 32)
  | .por p x y => some (0x5f#7 ++ 0x2#3 ++ p ++ 0x0#2 ++ x ++ 0x0#2 ++ y ++ 0x0#6 : BitVec 32)
  | .pnot p x => some (0x5f#7 ++ 0x3#3 ++ p ++ 0x0#2 ++ x ++ 0x0#12 : BitVec 32)
  | .pmov p x => some (0x5f#7 ++ 0x4#3 ++ p ++ 0x0#2 ++ x ++ 0x0#12 : BitVec 32)
  | .vbr p t r => some (0x60#7 ++ p ++ t ++ r : BitVec 32)
  | .vexit n => some (0x61#7 ++ n ++ 0x0#19 : BitVec 32)
  | .whole => some (0x62#7 ++ 0x0#25 : BitVec 32)
  | .endwhole => some (0x63#7 ++ 0x0#25 : BitVec 32)
  | .voteAny q s p => some (0x64#7 ++ 0x0#2 ++ q ++ 0x0#2 ++ s ++ 0x0#6 ++ p ++ 0x0#3 : BitVec 32)
  | .voteAll q s p => some (0x64#7 ++ 0x1#2 ++ q ++ 0x0#2 ++ s ++ 0x0#6 ++ p ++ 0x0#3 : BitVec 32)
  | .voteBallot q s p => some (0x64#7 ++ 0x2#2 ++ q ++ 0x0#2 ++ s ++ 0x0#6 ++ p ++ 0x0#3 : BitVec 32)
  | .part d a b p t => some (0x65#7 ++ d ++ a ++ b ++ p ++ t : BitVec 32)
  | .vrot n => some (0x66#7 ++ n ++ 0x0#19 : BitVec 32)
  | .vmov d a x => some (0x67#7 ++ d ++ a ++ 0x0#6 ++ x ++ 0x0#4 : BitVec 32)
  | .vsplat d a x t => some (0x67#7 ++ d ++ a ++ 0x0#6 ++ x ++ 0x1#1 ++ t : BitVec 32)
  | .vld d b a p s o c => some (0x68#7 ++ d ++ b ++ a ++ p ++ s ++ o ++ c : BitVec 32)
  | .vst d b a p s o c => some (0x69#7 ++ d ++ b ++ a ++ p ++ s ++ o ++ c : BitVec 32)
  | .vlds d b a p s o c => some (0x6a#7 ++ d ++ b ++ a ++ p ++ s ++ o ++ c : BitVec 32)
  | .vsts d b a p s o c => some (0x6b#7 ++ d ++ b ++ a ++ p ++ s ++ o ++ c : BitVec 32)
  | .vgath d b a p s o c => some (0x6c#7 ++ d ++ b ++ a ++ p ++ s ++ o ++ c : BitVec 32)
  | .vscat d b a p s o c => some (0x6d#7 ++ d ++ b ++ a ++ p ++ s ++ o ++ c : BitVec 32)
  | .vatom d b a o r s n => some (0x6e#7 ++ d ++ b ++ a ++ o ++ r ++ s ++ n : BitVec 32)
  | .vcas d b a r s n => some (0x6f#7 ++ d ++ 0x0#1 ++ b ++ a ++ 0xa#4 ++ r ++ s ++ n : BitVec 32)
  | .qsend q a => some (0x70#7 ++ 0x0#4 ++ q ++ a ++ 0x0#13 : BitVec 32)
  | .qrecv d q => some (0x70#7 ++ d ++ 0x0#4 ++ q ++ 0x8#13 : BitVec 32)
  | .vmx d a b s t => some (0x71#7 ++ d ++ a ++ b ++ s ++ t : BitVec 32)
  | .rayQ d a b p => some (0x72#7 ++ d ++ a ++ b ++ p ++ 0x0#3 : BitVec 32)
  | .rayHit d a b p => some (0x72#7 ++ d ++ a ++ b ++ p ++ 0x1#3 : BitVec 32)
  | .rayRes d a b p => some (0x72#7 ++ d ++ a ++ b ++ p ++ 0x2#3 : BitVec 32)
  | .tex2d d a b p => some (0x73#7 ++ d ++ a ++ b ++ p ++ 0x0#3 : BitVec 32)
  | .tex3d d a b p => some (0x73#7 ++ d ++ a ++ b ++ p ++ 0x1#3 : BitVec 32)
  | .texFetch d a b p => some (0x73#7 ++ d ++ a ++ b ++ p ++ 0x2#3 : BitVec 32)
  | .visLd d a b p => some (0x74#7 ++ d ++ a ++ b ++ p ++ 0x0#3 : BitVec 32)
  | .visLdRel d a b p => some (0x74#7 ++ d ++ a ++ b ++ p ++ 0x1#3 : BitVec 32)
  | .primOpen b => some (0x75#7 ++ 0x0#12 ++ b ++ 0x0#7 : BitVec 32)
  | .primEmit d a b p => some (0x75#7 ++ d ++ a ++ b ++ p ++ 0x1#3 : BitVec 32)
  | .primEnd => some (0x75#7 ++ 0x2#25 : BitVec 32)
  | .guideOut d a b => some (0x76#7 ++ d ++ a ++ b ++ 0x0#7 : BitVec 32)
  | .gset g a f => some (0x40#7 ++ g ++ a ++ 0x0#11 ++ f : BitVec 32)
  | .gld g a b s x => some (0x41#7 ++ g ++ a ++ b ++ 0x0#5 ++ s ++ x : BitVec 32)
  | .gst g a b s x => some (0x42#7 ++ g ++ a ++ b ++ 0x0#5 ++ s ++ x : BitVec 32)
  | .gadv g a b => some (0x43#7 ++ g ++ a ++ b ++ 0x0#9 : BitVec 32)
  | .mzero m => some (0x44#7 ++ m ++ 0x0#9 : BitVec 32)
  | .mloop d a b h c k => some (0x45#7 ++ d ++ a ++ b ++ h ++ c ++ k : BitVec 32)
  | .mloopC d a b h c k => some (0x46#7 ++ d ++ a ++ b ++ h ++ c ++ k : BitVec 32)
  | .mstep d a b h c k => some (0x47#7 ++ d ++ a ++ b ++ h ++ c ++ k : BitVec 32)
  | .mbatch k g b => some (0x48#7 ++ 0x0#12 ++ k ++ g ++ b ++ 0x0#6 : BitVec 32)
  | .mwait b => some (0x49#7 ++ 0x0#16 ++ b ++ 0x0#6 : BitVec 32)
  | .mwaitAll => some (0x49#7 ++ 0x1#25 : BitVec 32)
  | .mdrain d g s z => some (0x4a#7 ++ d ++ g ++ s ++ 0x0#10 ++ z : BitVec 32)
  | .mlda d g s => some (0x4b#7 ++ d ++ g ++ s ++ 0x0#11 : BitVec 32)
  | .mrescS d s => some (0x4c#7 ++ d ++ 0x0#4 ++ s ++ 0x0#11 : BitVec 32)
  | .mrescRow d g s => some (0x4c#7 ++ d ++ g ++ s ++ 0x1#11 : BitVec 32)
  | .mrescCol d g s => some (0x4c#7 ++ d ++ g ++ s ++ 0x2#11 : BitVec 32)
  | .mmigOff => some (0x4d#7 ++ 0x0#25 : BitVec 32)
  | .mmigWait a => some (0x4d#7 ++ a ++ 0x40#19 : BitVec 32)
  | .mmigAny => some (0x4d#7 ++ 0x80#25 : BitVec 32)
  | .cp d g s c t => some (0x40#7 ++ d ++ g ++ s ++ c ++ t ++ 0x0#4 : BitVec 32)
  | .cp2d d g s c t => some (0x41#7 ++ d ++ g ++ s ++ c ++ t ++ 0x0#4 : BitVec 32)
  | .cp3d d g s c t => some (0x42#7 ++ d ++ g ++ s ++ c ++ t ++ 0x0#4 : BitVec 32)
  | .cpMc d g s c t m => some (0x43#7 ++ d ++ g ++ s ++ c ++ t ++ 0x0#3 ++ m : BitVec 32)
  | .cpG d g s c t x => some (0x44#7 ++ d ++ g ++ s ++ c ++ t ++ 0x0#3 ++ x : BitVec 32)
  | .cpY d g s c o k => some (0x45#7 ++ d ++ g ++ s ++ c ++ o ++ k : BitVec 32)
  | .cpWait t a => some (0x46#7 ++ 0x0#17 ++ t ++ a ++ 0x0#3 : BitVec 32)
  | .cpFill d g s c t => some (0x47#7 ++ d ++ g ++ s ++ c ++ t ++ 0x0#4 : BitVec 32)
  | .cpSem d s t a => some (0x48#7 ++ d ++ 0x0#4 ++ s ++ 0x0#3 ++ t ++ a ++ 0x0#3 : BitVec 32)
  | .cpPf g s l => some (0x49#7 ++ 0x0#4 ++ g ++ s ++ 0x0#9 ++ l : BitVec 32)
  | .powerOn => none
  | .moduleReset => none
  | .hostReset => none
  | .powerLoss => none
  | .zeroingTimeout => none
  | .bootGood => none
  | .bootGoodTimeout => none
  | .bootRestart => none
  | .bootClrcnt => none
  | .quoteRequest => none
  | .quoteDone => none
  | .flashEraseB => none
  | .flashProgram => none
  | .flashVerifyB => none
  | .flashOpDone => none
  | .powerCapWrite => none
  | .powerWindowEnd => none
  | .clockStep => none
  | .thermalThrottle => none
  | .thermalShutdown => none
  | .currentLimit => none
  | .droopDetect => none
  | .droopRecover => none
  | .registerWrite => none
  | .pageWalkDone => none
  | .dirtyUpdate => none
  | .tlbiAck => none
  | .hotDecay => none
  | .hotSweepEnd => none
  | .sliceRequest => none
  | .dramReadDone => none
  | .lpWritebackResume => none
  | .lpFreeMerge => none
  | .lpCommit => none
  | .lpDecommit => none
  | .lpCmdDone => none
  | .parityDelta => none
  | .deltaAck => none
  | .reconstructionRequest => none
  | .reconstructionAnswer => none
  | .reconstructionComplete => none
  | .channelLoss => none
  | .phyTrainingFail => none
  | .parDeclareChannelLost => none
  | .parDeclareMemberLost => none
  | .parScrubStripe => none
  | .degradedEntryDone => none
  | .scrubLine => none
  | .groupWindowClose => none
  | .rowSwap => none
  | .refresh => none
  | .alertBackoff => none
  | .packetInject => none
  | .packetEject => none
  | .linkForward => none
  | .linkCrcError => none
  | .hopCrcError => none
  | .hopSpare => none
  | .qlinkData => none
  | .qlinkCredit => none
  | .fetchOpArrival => none
  | .fetchOpPerform => none
  | .waitBufferReply => none
  | .flitReceive => none
  | .portDown => none
  | .laneTrainingFail => none
  | .fabricMessageSend => none
  | .tsRecordPop => none
  | .hostMemRead => none
  | .hostMemWrite => none
  | .hostSnoop => none
  | .biResponse => none
  | .biasSet => none
  | .biasClear => none
  | .biasCmdDone => none
  | .cxlLinkDown => none
  | .dtbStep => none
  | .dtbNsRead => none
  | .ptmRequest => none
  | .ptmResponse => none
  | .ptmTimeout => none
  | .launchStartTime => none
  | .schedDispatch => none
  | .launchPatchCheck => none
  | .jobAdmit => none
  | .jobDone => none
  | .migrationAdvert => none
  | .migrationReceive => none
  | .softPreemptTimeout => none
  | .hardPreemptDone => none
  | .canaryExpiry => none
  | .matrixOperandFault => none
  | .faultRecordPost => none
  | .chuteQuery => none
  | .prtQuiesce => none
  | .quiesceReached => none
  | .quiesceTimeout => none
  | .prtRelease => none
  | .snapArm => none
  | .triggerPinEdge => none
  | .snapDtbMatch => none
  | .snapshotLatch => none
  | .snapshotDone => none
  | .loadReply => none
  | .atomicReply => none
  | .registerFillDone => none
  | .registerSpillDone => none
  | .splitTableSpillFill => none
  | .wcDrain => none
  | .sleepDeadline => none
  | .copyStart => none
  | .copyTransferFault => none
  | .copyComplete => none
  | .matrixCommandStart => none
  | .matrixCommandDone => none
  | .coopDescriptor => none
  | .coopCombine => none
  | .commandMigrate => none
  | .commandRecall => none
  | .primitiveArrival => none
  | .binResolve => none
  | .guideBinLanded => none
  | .rayTraversalStop => none
  | .rayPark => none
  | .currentBelowLimit => none
  | .fabricPortUp => none
  | .cxlLinkUp => none
  | .writeAcknowledgement => none
  | .hdmDecoderCommit => none
  | .referenceClockInputChange => none
/-- Why a word is no instruction on the engine that issues it (R252 rows 1 to 5, in that order). -/
inductive Reject where
  /-- row 1: 0x0000_0000 or 0xFFFF_FFFF -/
  | blankWord
  /-- row 2: the word belongs to a unit that the core lacks (R193) -/
  | absentUnit
  /-- rows 3 and 4: a reserved major or value, or a non-zero field that must be zero -/
  | unassigned
  /-- rows 3 to 5: a reserved field value or a forbidden combination (R253) -/
  | forbidden
  deriving DecidableEq, Repr

/-- What decoding answers: an instruction, or why there is none. -/
inductive Decoded where
  | instr (i : Instr)
  | reject (r : Reject)
  deriving DecidableEq, Repr

/-- The guide-core majors 0x32-0x36 of the vector half (R193). -/
def guideMajor (w : BitVec 32) : Bool :=
  w.extractLsb' 31 1 == 1#1 && 0x32 ≤ (w.extractLsb' 25 6).toNat && (w.extractLsb' 25 6).toNat ≤ 0x36

/-- The rows that an engine decodes: the shared half for H = 0, its own private half for H = 1 (R239). -/
def rowsOf (e : Engine) (w : BitVec 32) : Option Instr :=
  if w.extractLsb' 31 1 == 0#1 then rowsShared w
  else match e with
    | .control => rowsControl w
    | .vector => rowsVector w
    | .matrix => rowsMatrix w
    | .copy => rowsCopy w

/-- Decoding of one word by one engine of one kind of core, in the order of R252. -/
def decode (k : CoreKind) (e : Engine) (w : BitVec 32) : Decoded :=
  if w == 0#32 || w == 0xFFFFFFFF#32 then .reject .blankWord
  else if e == .vector && k == .tile && guideMajor w then .reject .absentUnit
  else match rowsOf e w with
    | none => .reject .unassigned
    | some i => if wellFormed i then .instr i else .reject .forbidden

/-- The word at the head of a byte list, little-endian (R12, R238). -/
def wordOfBytes (b0 b1 b2 b3 : BitVec 8) : BitVec 32 := b3 ++ b2 ++ b1 ++ b0

/-- Decoding of the bytes at a program counter; fewer than four bytes are no instruction. -/
def decodeBytes (k : CoreKind) (e : Engine) (bytes : List (BitVec 8)) : Decoded :=
  match bytes with
  | b0 :: b1 :: b2 :: b3 :: _ => decode k e (wordOfBytes b0 b1 b2 b3)
  | _ => .reject .unassigned

/-- The engines in the order in which a word of the table is tried: the table's words do not name their engine. -/
def tableEngines : List Engine := [.matrix, .copy, .control, .vector]

/-- The kind of core on which a table word is tried: guide cores have every unit of the vector half (R193). -/
def tableKind (e : Engine) : CoreKind :=
  match e with
  | .vector => .guide
  | .copy => .guide
  | _ => .tile

/-- The first engine of a list that decodes a word, with the instruction. -/
def firstDecoding (es : List Engine) (w : BitVec 32) : Option (Engine × Instr) :=
  match es with
  | [] => none
  | e :: rest =>
    match decode (tableKind e) e w with
    | .instr i => some (e, i)
    | .reject _ => firstDecoding rest w

/-- The bytes of a table word as the hardware stores them: little-endian, lowest address first. -/
def tableBytes (w : Nat) : List (BitVec 8) :=
  [BitVec.ofNat 8 w, BitVec.ofNat 8 (w / 0x100), BitVec.ofNat 8 (w / 0x10000), BitVec.ofNat 8 (w / 0x1000000)]

/-- The 32-bit word that the bytes of a table word spell. -/
def tableWord (w : Nat) : BitVec 32 :=
  wordOfBytes (BitVec.ofNat 8 w) (BitVec.ofNat 8 (w / 0x100)) (BitVec.ofNat 8 (w / 0x10000))
    (BitVec.ofNat 8 (w / 0x1000000))

/-- The instruction that the decoder reads from a word of the opcode table (bits above nbits are zero). -/
def decodeTableWord (nbits w : Nat) : Option Instr :=
  (firstDecoding tableEngines (tableWord (w % 2 ^ nbits))).map (·.2)

end Sys2Proof
end

