-- ==== Sys2Proof/Machine/State.lean ====
section
/-!
DEFINITION. The state of the AZ-TW9-M as plain data: every register, memory, table and queue that the manual names,
and what must be held of an operation under way; the reasons a step can stop; the state right after reset.
-/

namespace Sys2Proof.Machine

/-- What stops the machine as a whole. Every trap and fault that the manual describes (R211) is a next state. -/
inductive Fault where
  /-- raised by step when the module has no power and nothing stands on the agenda: nothing comes about until power is
  applied from outside (R135; safe: the machine stops) -/
  | unpowered
  deriving DecidableEq, Repr

/-- What has no meaning in the model. -/
inductive Refusal where
  /-- raised by an arm of exec whose instruction has no meaning yet (safe: the machine stops) -/
  | notModelled (mnemonic : String)
  deriving DecidableEq, Repr

/-! ### Streams -/

/-- Registers that the scoreboard tracks (R205). -/
inductive RegName where
  | s (n : Nat) | v (n : Nat) | p (n : Nat) | lc (n : Nat) | m (n : Nat) | g (n : Nat)
  deriving DecidableEq, Repr

/-- How a loop slot is evaluated at its end word (R299). -/
inductive LoopKind where
  /-- LOOPI and LOOP: the counter falls to zero -/
  | counted
  /-- LOOPX: repeat while the named register is not zero -/
  | conditional (n : BitVec 6)
  /-- LOOP.SP: as counted, then the rotation of R301 for so many items, with so many iterations completed -/
  | pipelined (items : Word) (completed : Nat)
  deriving DecidableEq, Repr

/-- An active loop slot (R298). -/
structure LoopSlot where
  lc    : Nat
  start : Word
  last  : Word
  kind  : LoopKind
  deriving DecidableEq, Repr

/-- The pending arm TOKARM (R303, R312). -/
structure Arm where
  te   : Bool
  ttok : BitVec 3
  ge   : Bool
  gtok : BitVec 3
  /-- ticket at which the instruction that takes the arm began to wait (R302) -/
  since : Option Nat
  deriving DecidableEq, Repr

/-- A give that waits (R302, R303): an armed one, or the TOK.GIVE of a fragment of a stream. -/
structure LateGive where
  tok : BitVec 3
  by_ : Option (Nat × Nat)
  deriving DecidableEq, Repr

/-- A page: its address and the power of two that is its size. -/
structure PageRef where
  base : Nat
  bits : Nat
  deriving DecidableEq, Repr

/-- What a fragment or stream waits for; a ticket orders those that wait for one thing. -/
inductive Wait where
  /-- not waiting -/
  | running
  /-- the instruction is offered again until it can go on (full queues, R164 stalls, pages with MIG = 1 under R43) -/
  | stalled (ticket : Nat)
  | take (tok : Nat) (ticket : Nat)
  | give (tok : Nat) (ticket : Nat)
  | meet
  | sleep (deadline : Word) (dst : BitVec 6)
  /-- SEM.WAIT on a scratchpad count of the job's own pool -/
  | semaphore (offset : Nat) (ticket : Nat)
  /-- BAR.AW after its arrival, or BAR.WAIT: the generation that must change -/
  | barrier (generation : BitVec 16) (at_ : JobId)
  | whole (ticket : Nat)
  /-- CP.Y: the copy operation and the continuation address (R208) -/
  | copy (op : Nat) (continuation : Word)
  /-- an access to a job that is not resident (R164) -/
  | peer (target : JobId) (ticket : Nat)
  /-- a page with MIG = 1: parked in the die's walker pool under the page's address (R43) -/
  | migrating (page : PageRef) (ticket : Nat)
  /-- the end word of a LOOPX slot has completed, and the register that decides has a pending write (R299) -/
  | loopEnd
  /-- the acknowledgements of its TLBI, while no fragment of the stream issues (R315) -/
  | shootdown (ticket : Nat)
  deriving DecidableEq, Repr

/-- A parked item (R211): how it continues (0 at its instruction, 1 after it, 3 at the point where a failed reply parked
it, R436), the TIME of its record, the record's KIND, whether RESUME has been given while the job is suspended, and the
number by which its record finds it. -/
structure Park where
  disp    : Nat
  time    : Word
  kind    : Nat
  resumed : Bool
  no      : Nat
  deriving DecidableEq, Repr

/-- A fragment of a vector stream, or the one thread of any other stream (R201). -/
structure Frag where
  id     : Nat
  mask   : LaneMask
  pc     : Word
  depth  : Nat
  wait   : Wait
  parked : Option Park
  /-- parks of further failed replies that came while it was parked (R436) -/
  behind : List Park
  /-- slot of the split-table area that its entry was spilled to; none while it stands on the core (R203) -/
  slot   : Option Nat
  /-- instructions issued in a row (R206) -/
  run    : Nat
  /-- when its entry was last used, in issues of its stream (R203) -/
  used   : Nat
  /-- it waits no longer: its instruction would complete if it were issued (R206) -/
  woken  : Bool
  /-- lanes whose rays its RAY.Q has submitted while it stalls for the others (R415) -/
  rayLanes : LaneMask := 0#128
  deriving DecidableEq, Repr

/-- A region entry of a split table (R201). -/
structure Region where
  reconv  : Word
  depth   : Nat
  waiting : LaneMask
  arrived : LaneMask
  /-- as a fragment's -/
  slot    : Option Nat
  used    : Nat
  deriving DecidableEq, Repr

/-- What WHOLE saves (R204): the fragments and regions that stand while the bracket runs. -/
structure Bracket where
  frags   : List Frag
  regions : List Region
  deriving DecidableEq, Repr

/-- A line monitor (R311): the location line it watches and its age. -/
structure Watch where
  line   : Nat
  ticket : Nat
  deriving DecidableEq, Repr

/-- One stream with its own scalar state (R240) and, for a vector stream, its vector state. -/
structure Stream where
  id      : StreamId
  engine  : Engine
  sregs   : Table Word
  lcs     : Table Word
  loops   : List LoopSlot
  fpctl   : BitVec 4
  arm     : Arm
  watch   : Option Watch
  fired   : Bool
  dtbFrac : BitVec 24
  frag    : Frag
  frags   : List Frag
  regions : List Region
  bracket : Option Bracket
  rrb     : BitVec 5
  qstat   : BitVec 35
  srgen   : BitVec 32
  preds   : Table LaneMask
  vregs   : Table VReg
  /-- registers whose value stands in the backing store (R198) -/
  spilled : List Nat
  /-- registers with a pending write (R205) -/
  pending : List RegName
  /-- split transactions of the stream that have not been answered -/
  flights : List Nat
  /-- age under GTO: a ticket taken at YIELD; 0 before (R206) -/
  age     : Nat
  /-- issues so far, by which the use of split-table entries is dated (R203) -/
  uses    : Nat
  ended   : Bool
  deriving DecidableEq, Repr

/-! ### Stream registers, engine operations, links -/

/-- A stream register g0-g15 (R376). -/
structure StreamReg where
  base       : Word
  sclBase    : Word
  sideBase   : Word
  rstride    : BitVec 32
  sstride    : BitVec 32
  sideStride : BitVec 32
  exti       : BitVec 32
  extk       : BitVec 32
  curi       : BitVec 32
  curk       : BitVec 32
  kcount     : BitVec 32
  fmt        : BitVec 8
  ctl        : BitVec 8
  coop       : BitVec 8
  rsv        : BitVec 40
  deriving DecidableEq, Repr

/-- The matrix commands (R382). -/
inductive MatrixOp where
  | zero (mask : BitVec 16)
  | step
  | loop
  | coop
  | drain (z : Bool)
  | lda
  | resc (source : Nat)
  deriving DecidableEq, Repr

/-- A block of an operand as read: elements (none where absent), scale byte or record (127 where the format has none),
and the side-list entries of its escapes in ascending order. -/
structure Block where
  elems : List (Option Nat)
  rc    : Nat
  side  : List Nat
  deriving DecidableEq, Repr

/-- A queued or running matrix command with its captured images (R382). -/
structure MatrixCmd where
  id      : Nat
  op      : MatrixOp
  md      : Nat
  shape   : Nat
  acc     : Bool
  a       : StreamReg
  b       : StreamReg
  count   : Nat
  scalar  : Word
  segment : Nat
  /-- migration policy: none, after so many cycles, or any time (R397) -/
  policy  : Option Nat
  queued  : Nat
  started : Bool
  /-- units of work done so far: K-steps of a product (R388, R389), rows or columns of a panel (R393 to R395) -/
  steps   : Nat
  /-- the operand blocks of the K block that a product is in, of A and of B, each element read once for all panels (R388) -/
  fetched : List (Option Block) × List (Option Block)
  /-- the crew that ranks name: the current one at issue -/
  crew    : Option Nat
  /-- MLOOP.C (R390 to R392): the tile and the part p of this member, the parts that a tile origin has accepted, the origin
  that accepted a member, and the die on which the part was finished -/
  tile    : Nat
  part    : Nat
  accepted : List Nat
  origin  : Option (JobId × Nat)
  finished : Option Nat
  /-- core that a migrated command runs on (R398) -/
  helper  : Option Nat
  pc      : Word
  deriving DecidableEq, Repr

/-- An MLOOP.C descriptor that a member has sent to its tile origin (R391), and the origin's answer. -/
structure CoopAsk where
  origin : JobId
  crew   : Nat
  tile   : Nat
  part   : Nat
  shape  : Nat
  count  : Nat
  coop   : BitVec 8
  fmtA   : BitVec 8
  fmtB   : BitVec 8
  /-- none while it waits; then the origin's command, or nothing where the descriptors differ -/
  answer : Option (Option Nat)
  deriving DecidableEq, Repr

/-- A segment of the matrix stream (R383). -/
structure Segment where
  no     : Nat
  batch  : Nat
  give   : Option (BitVec 3)
  closed : Bool
  scope  : Nat
  deriving DecidableEq, Repr

/-- The copy operations (R406-R409). -/
inductive CopyOp where
  | linear
  | plane
  | volume
  | fill (value : Word)
  | indexed (scatter : Bool)
  | multicast (sem : Bool)
  | sem (add : BitVec 32) (awaited : List Nat)
  deriving DecidableEq, Repr

/-- A destination of a multicast (R407): its rank, the bytes moved to it, and whether it is done, semaphore included. -/
structure McTarget where
  rank  : Nat
  moved : Nat
  done  : Bool
  deriving DecidableEq, Repr

/-- A queued or running copy operation with its captured views (R404). -/
structure CopyCmd where
  id      : Nat
  op      : CopyOp
  dst     : StreamReg
  src     : StreamReg
  planes  : Nat
  rows    : Nat
  rowBytes : Nat
  scope   : Nat
  /-- 0 to 15; 16 where the operation carries no tag (CP.Y) -/
  tag     : Nat
  give    : Option (BitVec 3)
  /-- the crew that ranks name: the current one at issue -/
  crew    : Option Nat
  started : Bool
  /-- bytes performed so far, in ascending (p, r, b) order -/
  moved   : Nat
  /-- row indices of CP.G, once read (R406) -/
  index   : Option (List Nat)
  targets : List McTarget
  parked  : Option Park
  pc      : Word
  deriving DecidableEq, Repr

/-- The three address spaces that range locks and faults name (R209, R213). -/
inductive Space where
  | global
  | scratch
  | peer (rank : Nat)
  deriving DecidableEq, Repr

/-- A range-lock entry of a core's table (R209): whose operation it guards and the interval [lo, hi); none for the core
while the entry is saved with its job (R163, R400). -/
structure RangeLock where
  core  : Option Nat
  job   : JobId
  op    : Nat
  space : Space
  lo    : Nat
  hi    : Nat
  write : Bool
  deriving DecidableEq, Repr

/-- An outbound queue-link port (R371). -/
structure OutPort where
  port     : Nat
  peer     : JobId
  peerPort : Nat
  credits  : Nat
  /-- the number of the link -/
  link     : Nat
  deriving DecidableEq, Repr

/-- An inbound queue-link port with the 128-byte entries it holds, oldest first (R371). -/
structure InPort where
  port    : Nat
  depth   : Nat
  save    : Nat
  sender  : Option (JobId × Nat)
  link    : Nat
  /-- the other side has ended the link: no entry comes any more (R373) -/
  ended   : Bool
  entries : List (BitVec 1024)
  deriving DecidableEq, Repr

/-- A crew held by a job (R304). -/
structure CrewHold where
  crew : Nat
  rank : Nat
  deriving DecidableEq, Repr

/-- The states of R150's table. -/
inductive JobState where
  | queued | held | waiting | ready | distributed | resident | suspended | done | terminated
  deriving DecidableEq, Repr

/-- A query at the Chute (R375): where its answer goes. -/
structure CellQuery where
  job    : JobId
  offset : Nat
  tok    : BitVec 3
  order  : Nat
  deriving DecidableEq, Repr

/-- A code section in an engine's instruction store (R194): its place in the kernel image and its bytes. -/
structure Section where
  engine : Engine
  base   : Word
  size   : Nat
  entry  : Nat
  bytes  : List Host.Cell
  deriving DecidableEq, Repr

/-- A job that has left the launch pool: dispatched, resident, suspended or ended (R150). -/
structure Job where
  id        : JobId
  state     : JobState
  core      : Option Nat
  slot      : Nat
  die       : Nat
  order     : Nat
  since     : Nat
  migrating : Bool
  /-- quarters that a job in migration comes from (R142) -/
  leaving   : List Nat
  priority  : Nat
  softMark  : Option Nat
  hardStop  : Bool
  ext       : Bool
  relaunches : Nat
  canary    : Nat
  budget    : Nat
  guide     : Bool
  sup       : Bool
  ctx       : BitVec 12
  tag       : Word
  kimage    : Word
  ctxBase   : Word
  param     : Word
  nvec      : Nat
  pword     : BitVec 32
  rr        : Bool
  tokens    : Table Nat
  /-- gives that found a count at 16 and wait, oldest first (R302, R303) -/
  lateGives : List LateGive
  crews     : List CrewHold
  current   : Option Nat
  gregs     : Table StreamReg
  panels    : Table (BitVec 32)
  scratch   : List Host.Cell
  /-- resident vector registers (stream, register), most recently used first, with a dirty bit (R198) -/
  resident  : List (Nat × Nat × Bool)
  sections  : List Section
  mcmds     : List MatrixCmd
  segments  : List Segment
  mpolicy   : Option Nat
  /-- widest scope of the segments completed and not yet acquired by an MWAIT, by batch (R385) -/
  mdone     : Table Nat
  coopAsk   : Option CoopAsk
  copies    : List CopyCmd
  /-- widest scope of the copies completed and not yet acquired by a CP.WAIT, by tag (R409) -/
  cdone     : Table Nat
  outPorts  : List OutPort
  inPorts   : List InPort
  queries   : Nat
  /-- KILL given while suspended (R211) -/
  killWanted : Bool
  /-- a pre-emption that parked on a fault of the context area (R214) -/
  savePark : Option Park
  /-- hard pre-emption has been asked for (R161, R163) -/
  preempt : Bool
  deriving DecidableEq, Repr

/-! ### Launches and scheduling -/

/-- A region entry of a task record (R128). -/
structure RegionEntry where
  base      : Word
  rows      : Nat
  acc       : BitVec 2
  rowBytes  : Nat
  rowStride : Int
  jobStride : Int
  deriving DecidableEq, Repr

/-- The DKI header's fields that the part reads (R260). -/
structure KernelHeader where
  nvec     : Nat
  matrix   : Bool
  copy     : Bool
  sections : List (Nat × Nat × Nat)
  npatch   : Nat
  patchOff : Nat
  ncrew    : Nat
  crewOff  : Nat
  dataOff  : Nat
  paramSize : Nat
  deriving DecidableEq, Repr

/-- Where the admission checks of R153 stand for a launch. -/
inductive PatchState where
  | unchecked
  | passed
  | held (time : Word)
  | failed
  deriving DecidableEq, Repr

/-- A field that a patch entry overlays (R262, R263): engine section, word, kind and value. -/
structure Patch where
  engine : Nat
  word   : Nat
  kind   : Nat
  value  : Nat
  deriving DecidableEq, Repr

/-- An accepted launch (R126, R147). -/
structure Launch where
  part    : Nat
  acc     : Nat
  queue   : Nat
  ctx     : BitVec 12
  flags   : BitVec 16
  kimage  : Word
  param   : Word
  ctxArea : Word
  jobs    : Nat
  pword   : BitVec 32
  budget  : Nat
  start   : Word
  cells   : Nat × Nat × Nat
  msix    : Nat
  doneAt  : Word
  tag     : Word
  header  : KernelHeader
  regions : List RegionEntry
  overflowed : Bool
  released : Bool
  patch   : PatchState
  patches : List Patch
  cursor  : Nat
  /-- the lowest job that has not been dispatched yet -/
  fresh   : Nat
  /-- jobs at or above fresh are terminated (cancel, PATCH_RANGE, DATA_LOST) -/
  cancelled : Bool
  /-- jobs terminated before they were dispatched, one by one (KILL) -/
  killed  : List Nat
  finished : Nat
  anyTerminated : Bool
  lastDie : Option Nat
  deriving DecidableEq, Repr

/-- A fault record (R213). -/
structure FaultRecord where
  cause   : Nat
  disp    : Nat
  engine  : Nat
  kind    : Nat
  strmid  : Nat
  space   : Nat
  akind   : Nat
  job     : Nat
  launch  : Nat
  coreid  : Nat
  ctx     : Nat
  regno   : Nat
  relaunches : Nat
  pc      : Word
  addr    : Word
  tag     : Word
  time    : Word
  mask    : LaneMask
  cycles  : Nat
  ctxBase : Word
  nfrag   : Nat
  deriving DecidableEq, Repr

/-- What is parked under a record, for RESUME to find (R313). -/
inductive ParkedItem where
  | nothing
  | frag (s : StreamId) (id no : Nat)
  | copy (j : JobId) (op : Nat)
  /-- a pre-emption that met a fault while it wrote the context area (R214) -/
  | save (j : JobId)
  | launch (part acc : Nat)
  deriving DecidableEq, Repr

/-- A record waiting to be posted, and what its posting releases (R170). -/
structure PendingRecord where
  part   : Nat
  record : FaultRecord
  item   : ParkedItem
  /-- the job that keeps its slot until the record stands -/
  ends   : Option JobId
  /-- the launch whose completion goes on once the record stands (R125) -/
  completes : Option Nat
  deriving DecidableEq, Repr

/-- The scheduler of a partition (R147-R165). -/
structure Sched where
  nextAcc   : Nat
  /-- queue served last at each priority level -/
  lastQueue : Table Nat
  /-- free slots that the partition's dies advertised last: at 8 times the die that was told, plus the die that told it (R160) -/
  adverts   : Table Nat
  /-- outstanding soft requests: the waiting candidate and the job asked to give way (R162) -/
  soft      : List (JobId × JobId)
  deriving DecidableEq, Repr

/-- The frame governor of a partition (R188-R191). -/
structure Governor where
  opened  : Bool
  owner   : Option Nat
  deadline : Word
  tail    : BitVec 32
  est     : BitVec 32
  nsteps  : Nat
  minEff  : Nat
  ranks   : List Nat
  cur     : Nat
  nb      : Nat
  dropped : List Nat
  ran     : List Nat
  answers : List Word
  mark    : Word
  marks   : Nat
  stepTime : BitVec 32
  deriving DecidableEq, Repr

/-! ### Guide half -/

/-- What PRIM.EMIT or PRIM.END sends to the binning unit (R412): a triangle with x, y and z of its three vertices, or an
end form. -/
structure Primitive where
  part  : Nat
  ends  : Bool
  ident : BitVec 32
  xs    : List (BitVec 32)
  inst  : BitVec 32
  deriving DecidableEq, Repr

/-- An open or closed pass of a partition on a guide die (R172, R173). -/
structure Pass where
  id       : Nat
  part     : Nat
  gd       : Nat
  seq      : BitVec 32
  desc     : Word
  ctx      : BitVec 12
  user     : Bool
  width    : Nat
  height   : Nat
  emitters : Nat
  ended    : Nat
  buf      : Word
  size     : Nat
  drawTab  : List (BitVec 8)
  used     : Nat
  full     : Bool
  closed   : Bool
  /-- STATUS has been written and the bins are with the resolvers (R173) -/
  told     : Bool
  /-- recorded primitives, in arrival order -/
  prims    : List Primitive
  /-- the next bin to go to a store, in row-major order (R174) -/
  nextBin  : Nat
  deriving DecidableEq, Repr

/-- A primitive-identifier store of a resolver that holds a bin of a pass (R174). -/
structure VisStore where
  gd       : Nat
  resolver : Nat
  slot     : Nat
  pass     : Nat
  bin      : Nat
  /-- identifier, depth, u and v of a pixel, for the pixels that something covers -/
  entries  : Table (BitVec 96)
  deriving DecidableEq, Repr

/-- A guide bin on its way over an Adit (R179). -/
structure RingSend where
  id      : Nat
  src     : JobId
  dst     : JobId
  ringOff : Nat
  tagOff  : Nat
  fullOff : Nat
  srcOff  : Nat
  slot    : Nat
  tag     : Word
  deriving DecidableEq, Repr

/-- An entry of a partition's version table (R182). -/
structure VersionEntry where
  part    : Nat
  idx     : Nat
  ctx     : BitVec 12
  desc    : Word
  version : BitVec 32
  pins    : Nat
  deriving DecidableEq, Repr

/-- Where a ray stands between events (R185, R416): the candidate's t, triangle, u, v and hit group, its primitive
identifier, and whether RAY.HIT has presented it. -/
inductive RayPhase where
  | traversing
  | candidate (t tri u v : BitVec 32) (group : BitVec 8) (prim : BitVec 32) (shown : Bool)
  /-- its state waits to be written to its record -/
  | parking
  | parked
  deriving DecidableEq, Repr

/-- What a traversal has still to visit: a node at a depth below the root, or the triangle run of a node from its first
triangle, the next one to test, and the end. -/
inductive RayItem where
  | node (index depth : Nat)
  | run (node first next stop : Nat)
  deriving DecidableEq, Repr

/-- A ray in its core's unit or parked in its record (R185). -/
structure Ray where
  id      : Nat
  job     : JobId
  strm    : Nat
  lane    : Nat
  ctx     : BitVec 12
  record  : Word
  desc    : Word
  version : BitVec 32
  nodes   : Word
  tris    : Word
  origin  : List (BitVec 32)
  dir     : List (BitVec 32)
  tmin    : BitVec 32
  tmax    : BitVec 32
  /-- t, primitive identifier, u, v -/
  best    : Option (BitVec 32 × BitVec 32 × BitVec 32 × BitVec 32)
  /-- nearest first -/
  stack   : List RayItem
  phase   : RayPhase
  deriving DecidableEq, Repr

/-! ### Memory system -/

/-- A byte held in a core's write-combining buffer (R215, R225). -/
structure WcByte where
  core  : Nat
  strm  : StreamId
  loc   : Nat
  byte  : Byte
  scope : Nat
  cycle : Nat
  /-- CMP of the leaf that the store went through (R48), and its core's ready-stream count at issue (R83) -/
  cmp   : Bool
  slack : Nat
  deriving DecidableEq, Repr

/-- A leaf held by a core or cluster TLB (R37). -/
structure TlbEntry where
  place : TlbPlace
  part  : Nat
  ctx   : Nat
  page  : Nat
  bits  : Nat
  leaf  : BitVec 64
  window : BitVec 64
  deriving DecidableEq, Repr

/-- A leaf found by a walk: where its entry lies, the entry, its page size and its fabric window entry (R34). -/
structure Leaf where
  at_    : Nat
  entry  : Nat
  bits   : Nat
  window : Nat
  deriving DecidableEq, Repr

/-- A miss that waits for a walk of its die's pool (R37, R39), and the outcome once the walk has ended: the leaf, or none where
there is none. -/
structure Miss where
  die   : Nat
  /-- a core, or 1,000 and the die of a unit without TLBs -/
  who   : Nat
  part  : Nat
  ctx   : Nat
  va    : Nat
  user  : Bool
  kind  : AccessKind
  ended : Option (Option Leaf)
  since : Nat
  deriving DecidableEq, Repr

/-- An operation of an engine or a unit that is parked on a page with MIG = 1 (R43): its stream and number. -/
structure PageWait where
  strm : StreamId
  op   : Nat
  part : Nat
  ctx  : Nat
  die  : Nat
  page : PageRef
  deriving DecidableEq, Repr

/-- A non-leaf entry held by a die's walk cache (R37). -/
structure WalkEntry where
  die   : Nat
  part  : Nat
  ctx   : Nat
  level : Nat
  page  : Nat
  table : Nat
  /-- where the entry lies -/
  at_   : Nat
  deriving DecidableEq, Repr

/-- A delta on its way to, or held at, a parity agent (R59, R60). -/
structure Delta where
  line    : StripeLine
  member  : Nat
  old     : List Byte
  new     : List Byte
  applied : Bool
  held    : Bool
  deriving DecidableEq, Repr

/-- A reconstruction under way at a parity agent (R60 rule 3, R61). -/
structure Recon where
  line      : StripeLine
  requester : Nat
  answers   : List (Nat × List Byte)
  deriving DecidableEq, Repr

/-- A parity line in its agent's cache (R55, R59). -/
structure ParityLine where
  line  : StripeLine
  bytes : List Byte
  deriving DecidableEq, Repr

/-- A read that waits at a DRAM channel (R70, R71): its group tag, SECT, its own sectors there, the line that it fills, and the
tick at which it came. -/
structure ChannelRequest where
  chan  : Nat
  tag   : Nat
  sect  : Nat
  own   : Nat
  pa    : Nat
  since : Nat
  deriving DecidableEq, Repr

/-- The free-space manager of one I/O die (R49): sectors never allocated yet, and freed runs (start, length). -/
structure FreeSpace where
  next : Nat
  stop : Nat
  runs : List (Nat × Nat)
  deriving DecidableEq, Repr

/-- A bank of a channel: activation counts of rows, its indirection table in order of installation (R72) and its refresh
debt (R73). -/
structure Bank where
  chan   : Nat
  bank   : Nat
  counts : Table Nat
  swaps  : List (Nat × Nat)
  debt   : Nat
  /-- refreshes that have fallen due in this refresh window (R72) -/
  fallen : Nat
  deriving DecidableEq, Repr

/-- The group that a channel serves (R71). -/
structure GroupWindow where
  chan : Nat
  tag  : Nat
  left : Nat
  /-- tick at which its first sector was served -/
  since : Nat
  deriving DecidableEq, Repr

/-- What an event acts on: the operands of the event turn being performed (the opcode table gives events no fields).
A meaning reads the components that its event has; the others keep their defaults. -/
structure EventArg where
  a      : Nat := 0
  b      : Nat := 0
  c      : Nat := 0
  flag   : Bool := false
  v      : Word := 0#64
  job    : JobId := ⟨0, 0, 0⟩
  strm   : StreamId := ⟨.mgmt 0, 0⟩
  bytes  : List Byte := []
  boot   : BootInput := ⟨false, [], false, []⟩
  walk   : WalkRequest := ⟨0, 0, 0, 0#64, .read⟩
  place  : TlbPlace := .core 0
  slice  : SliceRequest := .read 0 0
  line   : StripeLine := ⟨false, 0, 0⟩
  flit   : Flit := ⟨0#12, 0#12, 0#2, 0#6, 0#32, []⟩
  deriving DecidableEq, Repr

/-! ### Network -/

/-- A combining point (R98). -/
inductive CombinePoint where
  | stop (die stop : Nat)
  | port (port : Nat)
  deriving DecidableEq, Repr

/-- The class-specific content of a packet (R81, R102). -/
inductive PacketBody where
  | fetchOp (operand operand2 : BitVec 64) (nmem : Nat) (aop : Nat) (w : Bool) (order scope : Nat) (nc cmb : Bool)
  | fetchReply (status : Nat) (value : BitVec 64) (cmb : Bool)
  | queueData (src dst : JobId) (port link : Nat) (data : BitVec 1024)
  | queueCredit (dst : JobId) (port link : Nat) (count : Nat)
  /-- a message on its way to the stop of a fabric port, and a request of another module on its way to its slice -/
  | fabricOut (port : Nat) (m : FabricMessage)
  | fabricIn (port : Nat) (m : FabricMessage)
  /-- control traffic, whose arrival brings an event about (class 11) -/
  | control (i : Instr) (a : EventArg)
  /-- another module's answer on its way to the core that asked -/
  | answer (status : Nat) (value : BitVec 64) (bytes : List Byte)
  /-- content that the operation itself holds -/
  | other
  deriving DecidableEq, Repr

/-- Where a packet stands (R82, R84). -/
inductive PacketPlace where
  | injection (die stop : Nat)
  | travelling (die loopNo stop : Nat)
  | ejected (die stop loopNo : Nat)
  | link (die stop : Nat)
  | slice (die stop : Nat)
  /-- the ingress queue of a fabric port (R98) -/
  | ingress (port : Nat)
  deriving DecidableEq, Repr

/-- A packet (R80). -/
structure Packet where
  id      : Nat
  cls     : Nat
  pa      : Nat
  txn     : Nat
  sect    : Nat
  gtag    : Nat
  lap     : Bool
  slack   : Nat
  len     : Nat
  srcDie  : Nat
  srcStop : Nat
  dstDie  : Nat
  dstStop : Nat
  /-- reserved bits of its header, in order -/
  rsv     : Nat
  body    : PacketBody
  place   : PacketPlace
  inPort  : Nat
  /-- cycle of its die's clock at which it came to its place -/
  since   : Nat
  /-- hops left to its stop on the loop, and the number of its first refusal there, 0 for none (R82) -/
  hops    : Nat
  refused : Nat
  /-- streams whose requests it stands for -/
  strms   : List StreamId
  /-- CMP of the leaf that an atomic went through (R48) -/
  cmp     : Option Bool
  /-- the request of another module that it serves or answers, by its number in the ingress queue's records (R112) -/
  via     : Option Nat
  deriving DecidableEq, Repr

/-- A packet that is about to enter the network for an access whose effect is had apart from it (log entry 18). -/
structure Parcel where
  cls   : Nat
  pa    : Nat
  len   : Nat
  slack : Nat
  gtag  : Nat
  sect  : Nat
  src   : Nat × Nat
  dst   : Nat × Nat
  port  : Nat
  strms : List StreamId
  deriving DecidableEq, Repr

/-- The return identity of a member of a combined request (R101). -/
structure ReturnId where
  die  : Nat
  stop : Nat
  txn  : Nat
  cmb  : Bool
  /-- as a packet's -/
  via  : Option Nat := none
  deriving DecidableEq, Repr

/-- A wait-buffer entry (R103). -/
structure WaitEntry where
  point  : CombinePoint
  idx    : Nat
  e      : BitVec 64
  aop    : Nat
  w      : Bool
  first  : ReturnId
  second : ReturnId
  sent   : Bool
  /-- at a fabric port: the module and the address that the request names -/
  modl   : Nat
  pa     : Nat
  deriving DecidableEq, Repr

/-- What a split transaction's reply does at the core (R205, R364, R436). -/
inductive TxnKind where
  | load (dst : BitVec 6) (size : Nat) (sx : Bool)
  /-- GLD: the stream register -/
  | image (dst : Nat)
  /-- a store, with the number of the instruction that made it -/
  | store (group : Nat)
  /-- bytes of an armed store that are still in the core's write-combining buffer (R230) -/
  | buffered (group : Nat)
  | atomic (dst : BitVec 6) (wide : Bool)
  /-- the completion add of a launch (R125) -/
  | completion (part acc : Nat)
  /-- a read or write of an engine or a unit (R396, R403) -/
  | asked
  /-- an aggregated vector request: destination, active lanes with their operands, AOP -/
  | lanes (dst : BitVec 6) (lanes : List (Nat × BitVec 32)) (aop : Nat) (group : Nat)
  | vload (dst : BitVec 6) (lane : Nat) (group : Nat)
  deriving DecidableEq, Repr

/-- A split transaction (R80 TXN, R90 TXN). -/
structure Txn where
  id    : Nat
  strm  : StreamId
  frag  : Nat
  mask  : LaneMask
  pc    : Word
  va    : Word
  kind  : TxnKind
  /-- the give armed on the access (R230) -/
  give  : Option (BitVec 3)
  /-- an acquire: no later access of the stream performs before the reply (R221); the scope it covers -/
  acq   : Option Nat
  /-- the location that the access acts on, where one was checked: accesses of its stream there come after it (R218, R228) -/
  loc   : Option Nat
  deriving DecidableEq, Repr

/-- A fabric port (R87-R92). -/
structure Port where
  no      : Nat
  up      : Bool
  lanes   : BitVec 2
  /-- next SEQ to send, next SEQ expected -/
  txSeq   : BitVec 12
  rxSeq   : BitVec 12
  /-- flits sent and not acknowledged, oldest first -/
  replay  : List Flit
  replays : Nat
  credits : List Nat
  queue   : List FabricMessage
  /-- the trunk that its queued messages go by (R97) -/
  trunk   : Nat
  /-- slots of a message that goes on in the next flit, sent and received -/
  tx      : List (BitVec 128)
  rx      : List (BitVec 128)
  /-- messages sent, each with the flit that holds its last slot, until that is acknowledged -/
  sent    : List (BitVec 12 × FabricMessage)
  /-- slots freed and not yet returned, by virtual channel -/
  freed   : List Nat
  /-- flits put on the wire, the module's output -/
  wire    : List Flit
  deriving DecidableEq, Repr

/-- A fetch-and-operate request that came in at a fabric port and has not been answered (R112): who is to be answered, a
sender on the fabric or a wait-buffer entry of the port. -/
structure Ingress where
  id     : Nat
  port   : Nat
  sender : Nat
  txn    : Nat
  pa     : Nat
  entry  : Option Nat
  deriving DecidableEq, Repr

/-- What an operation of an engine or a unit has asked of another module: its stream and number, the range, and the answer's
status and data, which stands until the operation has gone on. -/
structure Asked where
  strm   : StreamId
  op     : Nat
  write  : Bool
  modl   : Nat
  pa     : Nat
  n      : Nat
  txn    : Nat
  answer : Option (Nat × List Byte)
  deriving DecidableEq, Repr

/-- A record of the timestamp queue (R95, R97). -/
structure Stamp where
  egress : Bool
  port   : Nat
  seqid  : BitVec 16
  mtype  : BitVec 4
  ns     : Word
  deriving DecidableEq, Repr

/-! ### Start-up, flash, power, partitions, snapshots -/

/-- The module flash (R15, R134). The manual gives firmware's append to the retirement list no register, command or layout: the list
is an input of a start, and its entries have this form (log entry 173). -/
structure Flash where
  record   : List Host.Cell
  /-- field retirement list: die, cluster, position and tag of each entry (R26) -/
  retired  : List (Nat × Nat × Nat × BitVec 64)
  slotA    : List Host.Cell
  slotB    : List Host.Cell
  attempts : BitVec 8
  fail     : BitVec 8
  stop     : BitVec 8
  deriving DecidableEq, Repr

/-- Where the start stands (R134). -/
inductive BootStage where
  /-- power is off, or the ROM has not begun -/
  | off
  /-- firmware runs and has not written GOOD; the DTB time when it was started -/
  | awaitGood (since : Nat)
  /-- the start succeeded -/
  | good
  | minimal
  deriving DecidableEq, Repr

/-- A quiesce handshake (R142): its mask, when it began, what was captured at step 3. -/
structure Quiesce where
  mask     : BitVec 4
  since    : Nat
  captured : Option (Table (BitVec 64))
  deriving DecidableEq, Repr

/-- A snapshot trigger under way (R144). -/
structure Snapshot where
  src   : Nat
  latchAt : Word
  latched : Bool
  /-- core records that have not been written -/
  pending : List (Nat × List Byte)
  deriving DecidableEq, Repr

/-- Which way the power cap moves the clock at each 100 µs step (R19). -/
inductive CapMove where
  | hold | down | up
  deriving DecidableEq, Repr

/-- Clock and thermal state (R19-R22). -/
structure Power where
  /-- steps down of each quarter for temperature and for the cap: 0 is 2.7 GHz, 3 is 1.8 GHz -/
  thermal : Table Nat
  capped  : Nat
  move    : CapMove
  /-- dies at or above 105 degrees, and dies that have been there and are not below 100 yet (R22) -/
  hot     : List Nat
  warm    : List Nat
  /-- dies stretched by droop, and the module-wide stretch of the current limit -/
  droop   : List Nat
  limited : Bool
  compute : Bool
  deriving DecidableEq, Repr

/-- Time (R20, R129, R130). -/
structure Time where
  /-- reference ticks since module reset -/
  ticks   : Nat
  ns      : Word
  frac    : BitVec 24
  step    : Option Word
  /-- how far each die's copy stands behind the master, 0-4 ns -/
  lag     : Table Nat
  /-- CYCLE by clock (a tile die's, a guide die half's, the management complex's), and tenths of a cycle not yet counted -/
  cycles  : Table Nat
  tenths  : Table Nat
  external : Bool
  deriving DecidableEq, Repr

/-- The CXL side (R115-R120). -/
structure Cxl where
  up      : Bool
  hdm     : Table (Nat × Nat)
  /-- host-held lines, oldest first (R119) -/
  snoop   : List Nat
  /-- lines whose snoop the host has not answered, and whether it invalidates (BISnpInv) or asks for the data (BISnpData) -/
  pendingBi : List (Nat × Bool)
  msix    : List Nat
  /-- a PTM exchange under way: the tick it began -/
  ptm     : Option Nat
  /-- lines of host memory that a core holds through CXL.cache -/
  shared  : List (Nat × Nat)
  /-- the running bias command: whether it clears, and the page's bit (R120) -/
  bias    : Option (Bool × Nat)
  /-- what the last host read of the tiers returned, and whether it carried poison (R118) -/
  answer  : Option (List Byte × Bool)
  deriving DecidableEq, Repr

/-- One turn of the machine: a stream issues, or a whole step of the part comes about. -/
inductive Turn where
  | issue (s : StreamId) (frag : Nat)
  | event (i : Instr) (arg : EventArg)
  deriving DecidableEq, Repr

/-- The schedulers, queues and governors (R147-R171, R188-R191), by partition. -/
structure Scheduling where
  launches : List Launch
  records  : List PendingRecord
  scheds   : Table Sched
  govs     : Table Governor
  queries  : List CellQuery
  deriving DecidableEq, Repr

/-- The units of the guide half (R172-R185). -/
structure GuideHalf where
  passes   : List Pass
  arrivals : List Primitive
  stores   : List VisStore
  sends    : List RingSend
  versions : List VersionEntry
  rays     : List Ray
  deriving DecidableEq, Repr

/-- Memory as the slices and the host hold it, the levels between it and the cores, and translation. -/
structure MemSys where
  /-- both device tiers as the L2 slices hold them, by physical address (R27) -/
  mem      : List Host.Cell
  /-- host memory behind APT 2 and 3, by host physical address -/
  hostMem  : List Host.Cell
  /-- physical lines whose slice copy is newer than DRAM -/
  dirty    : List Nat
  /-- physical lines that the slices hold since a read, oldest first (R54) -/
  l2       : List Nat
  /-- poisoned physical lines (R66, R434) -/
  poison   : List Nat
  /-- LPDDR blocks whose last write carried CMP = 0 (R48) -/
  plainBlocks : List Nat
  /-- write-combining buffers, oldest byte first -/
  wcb      : List WcByte
  /-- clean L1 bytes by core, clean and dirty cluster-cache bytes by cluster -/
  l1Clean  : Table Byte
  cluClean : Table Byte
  cluDirty : Table Byte
  /-- bytes that a cluster cache holds dirty from an atomic (R227), and its dirty lines last written with CMP = 0 (R48) -/
  cluAtomic : List Nat
  cluPlain : List Nat
  tlb      : List TlbEntry
  walks    : List WalkEntry
  /-- misses in arrival order: the walks of the first 256 pages of a die are in flight -/
  misses   : List Miss
  pageWaits : List PageWait
  /-- structures that have yet to acknowledge a TLBI: place, partition, context (4,096 for all), range -/
  tlbi     : List (TlbPlace × Nat × Nat × Nat × Nat)
  /-- pages of entries that a structure has dropped while it has a TLBI to acknowledge (R40) -/
  tlbiPages : List (TlbPlace × PageRef)
  deriving DecidableEq, Repr

/-- What lies beneath the slices: DRAM, parity, compression, channels (R41-R76, R434). -/
structure DramSys where
  /-- data units of both groups: by HBM physical address, and by sector-space address -/
  dataH    : List Host.Cell
  dataL    : List Host.Cell
  /-- parity units by stripe and offset: address 512 n + offset -/
  parityH  : List Host.Cell
  parityL  : List Host.Cell
  /-- parity lines that their agents cache, newest first (R55, R59) -/
  parLines : List ParityLine
  deltas   : List Delta
  recons   : List Recon
  /-- lines whose unit errs until it is repaired, and lines reconstructed for a fill under way, as (group, address line) -/
  erring   : List (Bool × Nat)
  rebuilt  : List (Bool × Nat)
  /-- blocks whose entries the slices' map caches hold, newest first (R47) -/
  mapCache : List Nat
  /-- units that erred, as (member, channel, unit, tick) -/
  erred    : List (Nat × Nat × Nat × Nat)
  /-- unrecoverable sector lines, and lost channels whose entry runs -/
  lostSectorLines : List Nat
  entering : List (Nat × Nat)
  free     : Table FreeSpace
  stalled  : List Nat
  fills    : Table Nat
  /-- hotness counters whose increments wait for the host to give back their lines (R41, R119) -/
  hotWaits : List Nat
  command  : Option (Nat × Nat × Nat)
  /-- line within the stripe that each group's scrub visits next (R69) -/
  scrub    : Table Nat
  banks    : List Bank
  windows  : List GroupWindow
  /-- reads that wait at the channels, in arrival order (R71) -/
  queue    : List ChannelRequest
  deriving DecidableEq, Repr

/-- The loops, the combining points and the fabric (R77-R114). -/
structure Net where
  packets  : List Packet
  /-- packets that enter the network at the next tick -/
  outbox   : List Parcel
  waits    : List WaitEntry
  txns     : List Txn
  asked    : List Asked
  /-- lane results returned for a vector access that waits for more: group, lane, value (none: not written) -/
  lanesBack : List (Nat × Nat × Option (BitVec 32))
  /-- consecutive failures of a hop, and hops on their spare wire: die, loop, stop -/
  hopFails : List (Nat × Nat × Nat × Nat)
  spares   : List (Nat × Nat × Nat)
  /-- places of ejection buffers kept for a refused packet: die, stop, loop, source stop (R82) -/
  reserved : List (Nat × Nat × Nat × Nat)
  ingress  : List Ingress
  ports    : List Port
  stamps   : List Stamp
  /-- IEEE 1588 messages received and not yet read by firmware, with their ports (R95) -/
  received : List (Nat × FabricMessage)
  deriving DecidableEq, Repr

/-- Start-up, flash, partitions, snapshots, power and the host link. -/
structure System where
  /-- shadow registers of the last snapshot (R145) -/
  shadows  : Table (BitVec 64)
  flash    : Flash
  boot     : BootStage
  /-- the firmware image that runs (R134 step 8) -/
  firmware : List Host.Cell
  /-- physical tile of each logical tile, plus one; 0 absent (R25) -/
  tiles    : Table Nat
  /-- a quote under way: its address (R137) -/
  quote    : Option Word
  /-- a flash operation under way: OP and the RESULT it will have; the page buffer BOOT_FLDATA -/
  flashOp  : Option (Nat × Nat)
  flashBuf : List Host.Cell
  quiesce  : Option Quiesce
  /-- a LAUNCH has been accepted since reset (R146) -/
  launched : Bool
  snapshot : Option Snapshot
  /-- the trigger pin is driven until this time (R144) -/
  pulse    : Option Word
  /-- management cores parked on a fault (R435) -/
  mgmtPark : List (Nat × Park)
  power    : Power
  /-- the cause of this run's stop is recorded and stays (R22, R85, R136) -/
  stopped  : Bool
  /-- partitions stopped by a hop that failed with its spare in use (R85) -/
  halted   : List Nat
  cxl      : Cxl
  deriving DecidableEq, Repr

/-- The state of the module. -/
structure State where
  /-- the turns to be performed next, first one first -/
  agenda   : List Turn
  /-- the operands of the event being performed -/
  arg      : EventArg
  /-- counters: of free values drawn, and of tickets and identities given -/
  draw     : Nat
  ticket   : Nat
  /-- the stream that issues now, the job it belongs to, and every other stream and job -/
  me       : Stream
  myJob    : Job
  streams  : List Stream
  jobs     : List Job
  locks    : List RangeLock
  /-- the vector stream that issued last on each core, and YIELD's effect, by core (R206) -/
  lastIssue : Table Nat
  time     : Time
  /-- the registers of BAR0 that differ from their reset value, by offset (R116) -/
  regs     : Table (BitVec 64)
  sch      : Scheduling
  guide    : GuideHalf
  mm       : MemSys
  dram     : DramSys
  net      : Net
  sys      : System
  deriving DecidableEq, Repr

/-! ### Reset -/

/-- A new fragment, running at a program counter, on the core. -/
def Frag.make (id : Nat) (mask : LaneMask) (pc : Word) (depth : Nat) : Frag :=
  { id := id, mask := mask, pc := pc, depth := depth, wait := .running, parked := none, behind := [], slot := none, run := 0,
    used := 0, woken := false }

/-- A fragment of every lane at a program counter, running. -/
def Frag.start (mask : LaneMask) (pc : Word) : Frag := Frag.make 0 mask pc 0

/-- A stream right after a reset or an admission that gives it no register value (R241). -/
def Stream.start (id : StreamId) (e : Engine) (mask : LaneMask) (pc : Word) : Stream :=
  { id := id, engine := e, sregs := [], lcs := [], loops := [], fpctl := 0#4, arm := ⟨false, 0#3, false, 0#3, none⟩,
    watch := none, fired := false, dtbFrac := 0#24, frag := Frag.start mask pc, frags := [], regions := [],
    bracket := none, rrb := 0#5, qstat := 0#35, srgen := 0x2545F491#32, preds := [], vregs := [], spilled := [],
    pending := [], flights := [], age := 0, uses := 0, ended := false }

/-- No job: what stands where a management core issues. -/
def Job.none : Job :=
  { id := ⟨0, 0, 0⟩, state := .done, core := Option.none, slot := 0, die := 0, order := 0, since := 0,
    migrating := false, leaving := [], priority := 0, softMark := Option.none, hardStop := false, ext := false, relaunches := 0,
    canary := 0, budget := 0, guide := false, sup := false, ctx := 0#12, tag := 0#64, kimage := 0#64, ctxBase := 0#64,
    param := 0#64, nvec := 0, pword := 0#32, rr := false, tokens := [], lateGives := [], crews := [],
    current := Option.none, gregs := [], panels := [], scratch := [], resident := [], sections := [], mcmds := [],
    segments := [], mpolicy := Option.none, mdone := [], coopAsk := Option.none, copies := [], cdone := [],
    outPorts := [], inPorts := [], queries := 0,
    killWanted := false, savePark := Option.none, preempt := false }

/-- A blank module flash (the manual gives no content). -/
def Flash.blank : Flash := ⟨[], [], [], [], 0#8, 0#8, 0#8⟩

/-- The module right after reset: management core 0 is about to run the boot ROM (R134), nothing is resident, both
tiers and every register stand at their reset values. -/
def State.reset : State :=
  { agenda := [.event .moduleReset {}], arg := {}, draw := 0, ticket := 0,
    me := Stream.start ⟨.mgmt 0, 0⟩ .control 0#128 0#64, myJob := Job.none,
    streams := [Stream.start ⟨.mgmt 1, 0⟩ .control 0#128 0#64, Stream.start ⟨.mgmt 2, 0⟩ .control 0#128 0#64,
      Stream.start ⟨.mgmt 3, 0⟩ .control 0#128 0#64],
    jobs := [], locks := [], lastIssue := [],
    time :=
      { ticks := 0, ns := 0#64, frac := 0#24, step := none, lag := [], cycles := [], tenths := [], external := false },
    regs := [],
    sch := { launches := [], records := [], scheds := [], govs := [], queries := [] },
    guide := { passes := [], arrivals := [], stores := [], sends := [], versions := [], rays := [] },
    mm :=
      { mem := [], hostMem := [], dirty := [], l2 := [], poison := [], plainBlocks := [], wcb := [], l1Clean := [],
        cluClean := [], cluDirty := [], cluAtomic := [], cluPlain := [], tlb := [], walks := [], misses := [], pageWaits := [], tlbi := [],
        tlbiPages := [] },
    dram :=
      { dataH := [], dataL := [], parityH := [], parityL := [], parLines := [], deltas := [], recons := [], erring := [], rebuilt := [], mapCache := [], erred := [],
        lostSectorLines := [], entering := [],
        free := [(0, ⟨0x1E00000, 0xF0000000, []⟩), (1, ⟨0xF0000000, 0x1E0000000, []⟩)],
        stalled := [], fills := [], hotWaits := [], command := none, scrub := [], banks := [], windows := [],
        queue := [] },
    net :=
      { packets := [], outbox := [], waits := [], txns := [], asked := [], lanesBack := [], hopFails := [], spares := [], reserved := [], ingress := [], ports := [],
        stamps := [], received := [] },
    sys :=
      { shadows := [], flash := Flash.blank, boot := .off, firmware := [], tiles := [], quote := none, flashOp := none, flashBuf := [],
        quiesce := none, launched := false, snapshot := none, pulse := none, mgmtPark := [],
        power :=
          { thermal := [], capped := 0, move := .hold, hot := [], warm := [], droop := [], limited := false,
            compute := true },
        stopped := false, halted := [],
        cxl :=
          { up := false, hdm := [], snoop := [], pendingBi := [], msix := [], ptm := none, shared := [], bias := none,
            answer := none } } }

end Sys2Proof.Machine
end

