-- ==== Sys2Proof/Machine/Bits.lean ====
section
/-!
DEFINITION. Tables in canonical form, bytes and little-endian words, and the canonical form of a memory.
-/

namespace Sys2Proof.Machine

/-! ### Tables -/

/-- The entry of a key, if the table lists one. -/
def tableFind {α : Type} (t : Table α) (k : Nat) : Option α :=
  match t with
  | [] => none
  | (j, v) :: rest => if k = j then some v else tableFind rest k

/-- The entry of a key, or the table's default. -/
def tableGet {α : Type} (t : Table α) (k : Nat) (d : α) : α :=
  (tableFind t k).getD d

/-- The table without a key. -/
def tableErase {α : Type} (t : Table α) (k : Nat) : Table α :=
  match t with
  | [] => []
  | (j, v) :: rest => if k = j then tableErase rest k else (j, v) :: tableErase rest k

/-- The table with a key listed, in ascending order of keys. -/
def tablePut {α : Type} (t : Table α) (k : Nat) (v : α) : Table α :=
  match t with
  | [] => [(k, v)]
  | (j, w) :: rest =>
    if k < j then (k, v) :: (j, w) :: rest
    else if k = j then (k, v) :: rest
    else (j, w) :: tablePut rest k v

/-- The table with a key's value set; the default value is not listed. -/
def tableSet {α : Type} [DecidableEq α] (t : Table α) (k : Nat) (v d : α) : Table α :=
  if v = d then tableErase t k else tablePut t k v

/-- Keys strictly rising from a bound, and no entry equal to the default. -/
def tableFormFrom {α : Type} [DecidableEq α] (t : Table α) (low : Nat) (d : α) : Bool :=
  match t with
  | [] => true
  | (j, v) :: rest => decide (low ≤ j) && !decide (v = d) && tableFormFrom rest (j + 1) d

/-- The canonical form of a table with a default. -/
def tableForm {α : Type} [DecidableEq α] (t : Table α) (d : α) : Bool :=
  tableFormFrom t 0 d

/-! ### Bytes and words -/

/-- Little-endian value of a byte list (R12). -/
def leNat (bs : List Byte) : Nat :=
  match bs with
  | [] => 0
  | b :: rest => b.toNat + 256 * leNat rest

/-- The n low bytes of a number, least significant first (R12). -/
def leBytes (n v : Nat) : List Byte :=
  match n with
  | 0 => []
  | n + 1 => BitVec.ofNat 8 v :: leBytes n (v / 256)

/-- What a byte of memory that nothing has written reads as: both tiers are zeroed at start-up (R58). -/
def blankByte : Byte := 0#8

/-- One byte of a memory. -/
def cellGet (m : List Host.Cell) (a : Nat) : Byte :=
  tableGet m a blankByte

/-- A memory with one byte written, in canonical form. -/
def cellSet (m : List Host.Cell) (a : Nat) (b : Byte) : List Host.Cell :=
  tableSet m a b blankByte

/-- n bytes of a memory from an address. -/
def cellsGet (m : List Host.Cell) (a n : Nat) : List Byte :=
  match n with
  | 0 => []
  | n + 1 => cellGet m a :: cellsGet m (a + 1) n

/-- A memory with bytes written from an address. -/
def cellsSet (m : List Host.Cell) (a : Nat) (bs : List Byte) : List Host.Cell :=
  match bs with
  | [] => m
  | b :: rest => cellsSet (cellSet m a b) (a + 1) rest

/-- A memory with n zero bytes written from an address. -/
def cellsClear (m : List Host.Cell) (a n : Nat) : List Host.Cell :=
  m.filter fun c => decide (c.1 < a) || decide (a + n ≤ c.1)

/-- Little-endian value of n bytes of a memory. -/
def cellsNat (m : List Host.Cell) (a n : Nat) : Nat :=
  leNat (cellsGet m a n)

/-- The canonical form of a memory: addresses strictly rising, no byte equal to what an unlisted one reads as. -/
def Memory.wf (m : List Host.Cell) : Bool :=
  tableForm m blankByte

/-- Bits hi..lo of a number. -/
def natBits (v hi lo : Nat) : Nat :=
  v / 2 ^ lo % 2 ^ (hi + 1 - lo)

/-- Bits hi..lo of a 64-bit word, as a number. -/
def bitsOf (v : Word) (hi lo : Nat) : Nat :=
  natBits v.toNat hi lo

/-- A word with its bits hi..lo replaced. -/
def withBits (v : Word) (hi lo x : Nat) : Word :=
  let mask : Word := BitVec.ofNat 64 ((2 ^ (hi + 1 - lo) - 1) * 2 ^ lo)
  (v &&& ~~~mask) ||| (BitVec.ofNat 64 (x * 2 ^ lo) &&& mask)

/-- A single bit as a truth value. -/
def bitOf (v : Word) (n : Nat) : Bool :=
  v.getLsbD n

/-- 1 or 0. -/
def natOfBool (b : Bool) : Nat := if b then 1 else 0

/-- The first number from a bound, within a fuel, that a predicate accepts. -/
def firstFrom (fuel n : Nat) (p : Nat → Bool) : Option Nat :=
  match fuel with
  | 0 => none
  | fuel + 1 => if p n then some n else firstFrom fuel (n + 1) p

/-- The least number below a bound that a predicate accepts. -/
def firstBelow (n : Nat) (p : Nat → Bool) : Option Nat :=
  firstFrom n 0 p

/-- A number rounded up to a multiple. -/
def roundUp (n k : Nat) : Nat := (n + k - 1) / k * k

/-- The element of a list that comes first in an order; of equals, the earlier. -/
def firstBy {α : Type} (le : α → α → Bool) (xs : List α) : Option α :=
  match xs with
  | [] => none
  | x :: rest =>
    match firstBy le rest with
    | none => some x
    | some y => if le x y then some x else some y

/-- Sorted insertion. -/
def insertBy {α : Type} (le : α → α → Bool) (x : α) (xs : List α) : List α :=
  match xs with
  | [] => [x]
  | y :: rest => if le x y then x :: y :: rest else y :: insertBy le x rest

/-- A stable sort. -/
def sortBy {α : Type} (le : α → α → Bool) (xs : List α) : List α :=
  xs.foldr (insertBy le) []

end Sys2Proof.Machine
end

