-- ==== Sys2Proof/Machine/Regs.lean ====
section
/-!
DEFINITION. The register space behind BAR0 (R116): for every offset its reset value and which bits are RW or W1C
(R13), the reading of a stored register, and the bits that a plain write changes. Registers whose value is another
piece of state, and the commands behind WO fields, are in Machine/Bus.lean.
-/

namespace Sys2Proof.Machine

/-- A register's table (R13): reset value, RW bits, W1C bits, and RO bits that are stored. -/
structure RegInfo where
  reset : BitVec 64
  rw    : BitVec 64
  w1c   : BitVec 64
  ro    : BitVec 64
  deriving DecidableEq, Repr

/-- Bits hi..lo as a mask. -/
def fieldMask (hi lo : Nat) : BitVec 64 :=
  BitVec.ofNat 64 ((2 ^ (hi + 1 - lo) - 1) * 2 ^ lo)

def infoRw (hi lo : Nat) (reset : Nat) : RegInfo := ⟨BitVec.ofNat 64 reset, fieldMask hi lo, 0#64, 0#64⟩
def infoW1c (hi lo : Nat) : RegInfo := ⟨0#64, 0#64, fieldMask hi lo, 0#64⟩
def infoRo (reset : Nat) : RegInfo := ⟨BitVec.ofNat 64 reset, 0#64, 0#64, fieldMask 63 0⟩

/-- A WO register reads zero; what is written is kept only where the machine reads it later (R13). -/
def infoWo : RegInfo := ⟨0#64, 0#64, 0#64, 0#64⟩

/-- Byte offset of a register's index in an array, when the offset falls on it. -/
def arrayIndex (o base stride count : Nat) : Option Nat :=
  if base ≤ o && (o - base) % stride == 0 && decide ((o - base) / stride < count) then some ((o - base) / stride)
  else none

/-- HIF_ registers (R133). -/
def hifInfo (o : Nat) : Option RegInfo :=
  match o with
  | 0x000 => some (infoRo 0x0009000100000000)
  | 0x008 => some (infoW1c 5 0)
  | 0x010 => some (infoRw 0 0 0)
  | 0x018 => some (infoRw 51 16 0)
  | 0x020 => some (infoRo 0)
  | 0x028 => some (infoW1c 47 0)
  | 0x030 => some ⟨0#64, 0x103#64, 0#64, 0#64⟩
  | 0x038 => some (infoRo 0)
  | 0x040 => some (infoRo 0)
  | 0x048 => some (infoRw 39 0 0x02000000)
  | 0x050 => some infoWo
  | 0x058 => some (infoRw 0 0 0)
  | 0x060 => some (infoRo 0)
  | 0x068 => some (infoRo 0)
  | 0x070 => some (infoRo 0)
  | 0x078 => some (infoRo 0)
  | _ => none

/-- MEM_ registers (R53, R76). -/
def memInfo (o : Nat) : Option RegInfo :=
  match o with
  | 0x000 => some ⟨0x2#64, 0x3#64, 0#64, 0x4#64⟩
  | 0x008 => some infoWo
  | 0x010 => some (infoRo 0x1DE200000)
  | 0x018 => some (infoRw 33 0 0)
  | 0x020 => some (infoRw 33 0 0)
  | 0x028 => some (infoRw 29 0 0)
  | 0x030 => some (infoRo 0)
  | 0x038 => some (infoW1c 6 0)
  | 0x040 => some (infoRo 0)
  | 0x048 => some ⟨0#64, 0x1#64, 0#64, 0x4#64⟩
  | 0x050 => some (infoRw 51 16 0)
  | 0x058 => some (infoRw 51 16 0)
  | 0x200 => some (infoRw 15 0 0x0800)
  | 0x208 => some (infoRw 7 0 0xC0)
  | _ =>
    if (arrayIndex o 0x100 8 8).isSome then some (infoRw 51 12 0)
    else if (arrayIndex o 0x1000 8 448).isSome then some (infoW1c 47 0)
    else if (arrayIndex o 0x2000 8 448).isSome then some (infoW1c 31 0)
    else none

/-- PAR_ registers (R75). -/
def parInfo (o : Nat) : Option RegInfo :=
  match o with
  | 0x000 => some infoWo
  | 0x008 => some (infoW1c 5 0)
  | 0x010 => some (infoRo 0)
  | 0x018 => some (infoRw 32 0 0x0800)
  | 0x020 => some (infoRo 0)
  | 0x028 => some (infoRo 0)
  | 0x030 => some (infoW1c 47 0)
  | 0x038 => some (infoW1c 47 0)
  | 0x040 => some (infoW1c 47 0)
  | 0x048 => some (infoW1c 47 0)
  | _ => if (arrayIndex o 0x100 8 28).isSome then some (infoRo 0) else none

/-- LOP_ registers of one die (R96, R113). -/
def lopDieInfo (o : Nat) : Option RegInfo :=
  match o with
  | 0x00 => some (infoRw 6 0 0x60)
  | 0x08 => some (infoW1c 2 0)
  | 0x10 => some (infoRo 0)
  | 0x18 => some (infoW1c 47 0)
  | 0x20 => some (infoW1c 47 0)
  | 0x28 => some (infoRw 0 0 1)
  | 0x30 => some (infoW1c 47 0)
  | 0x38 => some (infoW1c 47 0)
  | _ => none

/-- FAB_ registers (R97, R114). -/
def fabInfo (o : Nat) : Option RegInfo :=
  match o with
  | 0x000 => some (infoRw 15 0 0xFFFF)
  | 0x008 => some (infoRw 3 0 0)
  | 0x010 => some (infoRw 51 16 0)
  | 0x018 => some (infoW1c 4 0)
  | 0x020 => some (infoRw 8 0 0)
  | 0x028 => some (infoRw 1 0 3)
  | 0x030 => some (infoW1c 47 0)
  | 0x038 => some (infoW1c 47 0)
  | 0x080 => some (infoRo 0)
  | 0x088 => some (infoRo 0)
  | _ =>
    if (arrayIndex o 0x100 8 16).isSome then some (infoRw 16 0 0)
    else if (arrayIndex o 0x1000 8 144).isSome then some (infoRw 8 2 0)
    else if (arrayIndex o 0x1800 8 144).isSome then some ⟨0#64, 0#64, fieldMask 63 32, 0x3#64⟩
    else none

/-- SCH_ registers of one quarter (R171). -/
def schInfo (o : Nat) : Option RegInfo :=
  match o with
  | 0x000 => some ⟨0x3#64, 0x3F03#64, 0#64, 0#64⟩
  | 0x008 => some (infoRw 47 0 0x40000000)
  | 0x010 => some (infoRw 31 0 0x64)
  | 0x018 => some (infoRw 51 12 0)
  | 0x020 => some (infoRw 15 0 0)
  | 0x028 => some (infoW1c 3 0)
  | 0x030 => some ⟨0#64, 0#64, fieldMask 28 16, fieldMask 12 0⟩
  | 0x038 => some (infoRw 8 0 0x104)
  | 0x040 => some (infoRw 3 0 3)
  | 0x048 => some (infoW1c 47 0)
  | 0x050 => some (infoW1c 47 0)
  | 0x058 => some (infoW1c 47 0)
  | _ =>
    if (arrayIndex o 0x100 8 64).isSome then some (infoRw 2 0 4)
    else if (arrayIndex o 0x300 8 64).isSome then some (infoRo 0)
    else none

/-- GOV_ registers of one quarter (R192). -/
def govInfo (o : Nat) : Option RegInfo :=
  match o with
  | 0x000 => some ⟨0x101#64, 0xF01#64, 0#64, 0#64⟩
  | 0x008 => some (infoRw 23 0 0x07A120)
  | 0x048 => some (infoW1c 4 0)
  | 0x050 => some (infoW1c 47 0)
  | _ =>
    if (arrayIndex o 0x010 8 7).isSome then some (infoRo 0)
    else if (arrayIndex o 0x100 8 16).isSome then some (infoRo 0)
    else if (arrayIndex o 0x200 32 16).isSome then some (infoRo 0)
    else if (arrayIndex o 0x208 32 16).isSome then some (infoRo 0)
    else if (arrayIndex o 0x210 32 16).isSome then some (infoRo 0)
    else none

/-- PRT_ registers (R146). -/
def prtInfo (o : Nat) : Option RegInfo :=
  match o with
  | 0x000 => some (infoRw 7 0 0xE4)
  | 0x008 => some infoWo
  | 0x010 => some (infoRo 0)
  | 0x018 => some (infoRw 31 0 0x186A0)
  | 0x020 => some (infoRw 5 0 0)
  | 0x028 => some (infoW1c 47 0)
  | 0x040 => some (infoRw 15 0 0x0071)
  | 0x048 => some (infoRw 15 0 0x0382)
  | 0x050 => some (infoRw 15 0 0x1C04)
  | 0x058 => some (infoRw 15 0 0xE008)
  | _ => if (arrayIndex o 0x080 8 8).isSome then some (infoRw 63 0 0) else none

/-- SNP_ registers without the shadows (R146). -/
def snpInfo (o : Nat) : Option RegInfo :=
  match o with
  | 0x000 => some ⟨0#64, 0x13F#64, 0#64, 0#64⟩
  | 0x008 => some (infoRw 63 0 0)
  | 0x010 => some (infoRw 63 0 0)
  | 0x018 => some ⟨0#64, 0#64, fieldMask 47 32, ~~~ fieldMask 47 32⟩
  | 0x020 => some (infoRo 0)
  | 0x028 => some (infoRw 51 16 0)
  | _ => none

/-- BOOT_ registers (R146); the public key and the page buffer are answered by the bus. -/
def bootInfo (o : Nat) : Option RegInfo :=
  match o with
  | 0x000 => some (infoRo 0)
  | 0x008 => some (infoRo 0)
  | 0x010 => some (infoRw 47 32 (30 * 2 ^ 32))
  | 0x018 => some (infoRw 11 0 0)
  | 0x020 => some (infoRo 0)
  | 0x048 => some (infoRo 0)
  | 0x050 => some ⟨0x0C80#64, 0xFFFF#64, 0#64, fieldMask 63 63⟩
  | 0x058 => some ⟨0#64, fieldMask 51 9, 0#64, 0xF#64⟩
  | _ =>
    if (arrayIndex o 0x028 8 4).isSome then some infoWo
    else if (arrayIndex o 0x1000 8 512).isSome then some infoWo
    else if (arrayIndex o 0x2000 8 256).isSome then some (infoRo 0)
    else none

/-- A shadow's place in the SNP_ block (R145): the offset it shadows. -/
def shadowOf (o : Nat) : Option Nat :=
  if 0x81000 ≤ o && o < 0x82000 then some (o - 0x81000)
  else if 0x90000 ≤ o && o < 0x100000 then some (o - 0x80000)
  else none

/-- The register that lies at an 8-byte aligned BAR0 offset, if any does (R116). -/
def regInfo (o : Nat) : Option RegInfo :=
  if o < 0x10000 then hifInfo o
  else if o < 0x20000 then memInfo (o - 0x10000)
  else if o < 0x30000 then parInfo (o - 0x20000)
  else if o < 0x40000 then (if o < 0x30200 then lopDieInfo ((o - 0x30000) % 0x40) else none)
  else if o < 0x50000 then fabInfo (o - 0x40000)
  else if o < 0x60000 then (if o < 0x54000 then schInfo ((o - 0x50000) % 0x1000) else none)
  else if o < 0x70000 then (if o < 0x64000 then govInfo ((o - 0x60000) % 0x1000) else none)
  else if o < 0x80000 then prtInfo (o - 0x70000)
  else if o < 0x81000 then snpInfo (o - 0x80000)
  else if o < 0x100000 then
    match shadowOf o with
    | some p =>
      if p < 0x10000 then (hifInfo p).map fun _ => infoRo 0
      else if p < 0x20000 then (memInfo (p - 0x10000)).map fun _ => infoRo 0
      else if p < 0x30000 then (parInfo (p - 0x20000)).map fun _ => infoRo 0
      else if p < 0x40000 then (if p < 0x30200 then (lopDieInfo ((p - 0x30000) % 0x40)).map fun _ => infoRo 0 else none)
      else if p < 0x50000 then (fabInfo (p - 0x40000)).map fun _ => infoRo 0
      else if p < 0x60000 then (if p < 0x54000 then (schInfo ((p - 0x50000) % 0x1000)).map fun _ => infoRo 0 else none)
      else if p < 0x70000 then (if p < 0x64000 then (govInfo ((p - 0x60000) % 0x1000)).map fun _ => infoRo 0 else none)
      else if p < 0x80000 then (prtInfo (p - 0x70000)).map fun _ => infoRo 0
      else none
    | none => none
  else if o < 0x110000 then bootInfo (o - 0x100000)
  else none

/-- Reset value of a register. -/
def regReset (o : Nat) : BitVec 64 :=
  match regInfo o with
  | some i => i.reset
  | none => 0#64

/-- The stored value of a register: its reset value until something changes it. -/
def State.reg (s : State) (o : Nat) : BitVec 64 :=
  tableGet s.regs o (regReset o)

/-- The state with a register's stored value set by the part itself. -/
def State.setReg (s : State) (o : Nat) (v : BitVec 64) : State :=
  { s with regs := tableSet s.regs o v (regReset o) }

/-- A field of a stored register. -/
def State.field (s : State) (o hi lo : Nat) : Nat :=
  bitsOf (s.reg o) hi lo

/-- The state with a field of a stored register set by the part itself. -/
def State.setField (s : State) (o hi lo x : Nat) : State :=
  s.setReg o (withBits (s.reg o) hi lo x)

/-- One bit of an event register set (the W1C registers _EVT of every block). -/
def State.raise (s : State) (o n : Nat) : State :=
  s.setField o n n 1

/-- A counter register raised by n, within its width: the manual does not say what a full counter does, and the model's
wraps to zero (log entry 153). -/
def State.count (s : State) (o width n : Nat) : State :=
  s.setField o (width - 1) 0 (s.field o (width - 1) 0 + n)

/-! Offsets that other files name. -/

def hifEvt : Nat := 0x008
def memEvt : Nat := 0x10038
def parEvt : Nat := 0x20008
def parState (i : Nat) : Nat := 0x20100 + 8 * i
def lopReg (die o : Nat) : Nat := 0x30000 + 0x40 * die + o
def fabReg (o : Nat) : Nat := 0x40000 + o
def schReg (q o : Nat) : Nat := 0x50000 + 0x1000 * q + o
def govReg (q o : Nat) : Nat := 0x60000 + 0x1000 * q + o
def prtReg (o : Nat) : Nat := 0x70000 + o
def snpReg (o : Nat) : Nat := 0x80000 + o
def bootReg (o : Nat) : Nat := 0x100000 + o
def memReg (o : Nat) : Nat := 0x10000 + o
def parReg (o : Nat) : Nat := 0x20000 + o

end Sys2Proof.Machine
end

