-- ==== Sys2Proof/Machine/Ops.lean ====
section
/-!
DEFINITION. The named operations that meanings are built from: the registers and the program counter of the issuing
stream, hardware loops and reconvergence, waiting, the streams and jobs of the module, and taking an exception with the
return from it (R211, R213, R313, R435).
-/

namespace Sys2Proof.Machine

/-- The outcome of every meaning that the manual describes: a next state. -/
abbrev Result := Host.Outcome State Fault Refusal

/-! ### Cores, dies, partitions -/

/-- Die of a core, coded as SRCDIE (R80): tiles, then guide cores, then the management cores on XD0 (R145). -/
def coreDie (core : Nat) : Nat :=
  if core < 448 then core / 112 else if core < 544 then 4 + (core - 448) / 48 else 6

/-- Kind of a core (R193). -/
def coreKind (core : Nat) : CoreKind :=
  if core < 448 then .tile else if core < 544 then .guide else .management

/-- Cluster of a core, numbered over the module: 56 tile clusters, 12 guide clusters, the management complex. -/
def coreCluster (core : Nat) : Nat :=
  if core < 544 then core / 8 else 68

/-- Logical cluster on the die, 15 for management cores (R312). -/
def coreClu (core : Nat) : Nat :=
  if core < 448 then core % 112 / 8 else if core < 544 then (core - 448) % 48 / 8 else 15

/-- Position in the cluster, or management core number (R312). -/
def corePos (core : Nat) : Nat :=
  if core < 544 then core % 8 else core - 544

/-- COREID (R312). -/
def coreIdWord (core : Nat) : Nat :=
  coreDie core * 512 + coreClu core * 32 + corePos core

/-- Quarter that holds a core (R139); management cores belong to none and are given quarter 0 here. -/
def coreQuarter (core : Nat) : Nat :=
  if core < 448 then core / 112
  else if core < 544 then 2 * ((core - 448) / 48) + (if (core - 448) % 48 / 8 < 3 then 0 else 1)
  else 0

/-- PRT_OWNER of the configuration in force (R142, R315): while quiesced, the captured one, whatever firmware has rewritten
since. -/
def State.ownerWord (s : State) : BitVec 64 :=
  if s.field (prtReg 0x010) 59 59 = 1 then
    match s.sys.quiesce.bind fun q => q.captured with
    | some t => tableGet t (prtReg 0x000) (regReset (prtReg 0x000))
    | none => s.reg (prtReg 0x000)
  else s.reg (prtReg 0x000)

/-- Partition of a quarter in an owner word. -/
def ownerIn (w : BitVec 64) (q : Nat) : Nat := bitsOf w (2 * q + 1) (2 * q)

/-- Lowest quarter of the partition that a quarter belongs to (R140). -/
def State.ownerOf (s : State) (q : Nat) : Nat := ownerIn s.ownerWord q

/-- Partition of a core. -/
def State.corePart (s : State) (core : Nat) : Nat :=
  s.ownerOf (coreQuarter core)

/-- Core of a stream's owner: the job's core, or the management core. -/
def ownerCore (o : Owner) (j : Job) : Nat :=
  match o with
  | .mgmt n => 544 + n
  | .job _ => j.core.getD 0

/-- The issuing core. -/
def State.core (s : State) : Nat := ownerCore s.me.id.owner s.myJob

/-- A management core issues. -/
def State.isMgmt (s : State) : Bool :=
  match s.me.id.owner with
  | .mgmt _ => true
  | .job _ => false

/-- Privilege level (R312): 0 user, 1 supervisor, 2 firmware. -/
def State.priv (s : State) : Nat :=
  if s.isMgmt then 2 else if s.myJob.sup then 1 else 0

/-- Partition of the issuing stream's job. -/
def State.part (s : State) : Nat := s.myJob.id.part

/-! ### Registers of the issuing stream -/

/-- A scalar register: s0 reads as zero (R240). -/
def State.sreg (s : State) (n : BitVec 6) : Word :=
  if n = 0#6 then 0#64 else tableGet s.me.sregs n.toNat 0#64

/-- A stream with a scalar register written: a write to s0 is discarded (R240). -/
def Stream.setS (st : Stream) (n : BitVec 6) (v : Word) : Stream :=
  if n = 0#6 then st else { st with sregs := tableSet st.sregs n.toNat v 0#64 }

/-- The state with a scalar register of the issuing stream written. -/
def State.setS (s : State) (n : BitVec 6) (v : Word) : State :=
  { s with me := s.me.setS n v }

/-- The program counter of the issuing fragment or stream. -/
def State.pc (s : State) : Word := s.me.frag.pc

/-- A loop counter (R298). -/
def Stream.lc (st : Stream) (n : Nat) : Word := tableGet st.lcs n 0#64

def Stream.setLc (st : Stream) (n : Nat) (v : Word) : Stream :=
  { st with lcs := tableSet st.lcs n v 0#64 }

/-- A predicate register: p0 reads all ones (R242). -/
def Stream.pred (st : Stream) (n : Nat) : LaneMask :=
  if n = 0 then BitVec.allOnes 128 else tableGet st.preds n 0#128

def Stream.setPred (st : Stream) (n : Nat) (v : LaneMask) : Stream :=
  if n = 0 then st else { st with preds := tableSet st.preds n v 0#128 }

/-- The register that an architectural number names after rotation (R242). -/
def Stream.rotate (st : Stream) (n : Nat) : Nat :=
  if n < 32 then n else 32 + (n - 32 + st.rrb.toNat) % 32

/-- A vector register by its architectural number; a zero register reads zeros (R198). -/
def Stream.vreg (st : Stream) (n : Nat) : VReg :=
  tableGet st.vregs (st.rotate n) 0#4096

def Stream.setV (st : Stream) (n : Nat) (v : VReg) : Stream :=
  { st with vregs := tableSet st.vregs (st.rotate n) v 0#4096 }

/-- A register by its number after rotation, which a result under way keeps (R198, R205). -/
def Stream.vregAfter (st : Stream) (n : Nat) : VReg := tableGet st.vregs n 0#4096

def Stream.setVAfter (st : Stream) (n : Nat) (v : VReg) : Stream :=
  { st with vregs := tableSet st.vregs n v 0#4096 }

/-- The number after rotation of a register operand, as a six-bit field. -/
def State.after (s : State) (n : BitVec 6) : BitVec 6 := BitVec.ofNat 6 (s.me.rotate n.toNat)

def State.vreg (s : State) (n : BitVec 6) : VReg := s.me.vreg n.toNat

/-- The vector register j places after n (R320). -/
def State.vregAt (s : State) (n : BitVec 6) (j : Nat) : VReg := s.me.vreg (n.toNat + j)

def State.setV (s : State) (n : BitVec 6) (v : VReg) : State :=
  { s with me := s.me.setV n.toNat v }

def State.setVAt (s : State) (n : BitVec 6) (j : Nat) (v : VReg) : State :=
  { s with me := s.me.setV (n.toNat + j) v }

/-- The stream is a vector stream. -/
def Stream.isVector (st : Stream) : Bool := st.engine == .vector

/-- A stream that holds one fragment at depth 0 and no region is undiverged (R201). -/
def Stream.undiverged (st : Stream) : Bool :=
  st.frags.isEmpty && st.regions.isEmpty && st.frag.depth == 0

/-- Undiverged, or inside a bracket (R204). -/
def Stream.whole (st : Stream) : Bool :=
  st.bracket.isSome || st.undiverged

/-- FPCTL.RMODE with the codes 5 to 7 acting as 0 (R274). -/
def Stream.rmode (st : Stream) : Nat :=
  let r := (st.fpctl.extractLsb' 0 3).toNat
  if r ≤ 4 then r else 0

/-- FPCTL.FTZ (R271). -/
def Stream.ftz (st : Stream) : Bool := st.fpctl.getLsbD 3

/-! ### Reconvergence (R202) -/

/-- The one region of a depth that still waits for the lanes of a mask. -/
def regionFor (rs : List Region) (depth : Nat) (mask : LaneMask) : Option Region :=
  rs.find? fun r => r.depth == depth && (r.waiting &&& mask) != 0#128

/-- The regions with one of them replaced. -/
def setRegion (rs : List Region) (old new : Region) : List Region :=
  rs.map fun r => if r = old then new else r

/-- The stream whose current fragment is gone: another live fragment stands in its place, with no claim to stay current
(R206); with none left the stream has ended (R196). -/
def Stream.dropFrag (st : Stream) : Stream :=
  match st.frags with
  | [] => { st with ended := true }
  | f :: rest => { st with frag := { f with run := 64 }, frags := rest }

/-- The identity that a new fragment takes: above every live one. -/
def Stream.newFragId (st : Stream) : Nat :=
  st.frags.foldl (fun n f => max n (f.id + 1)) (st.frag.id + 1)

/-- The stream with one more fragment, which becomes current. -/
def Stream.pushFrag (st : Stream) (gone : Bool) (f : Frag) : Stream :=
  if gone then { st with frag := f } else { st with frag := f, frags := st.frags ++ [st.frag] }

/-- Lanes leave a region's WAIT, and join its ARR when they arrive: the stream's regions afterwards, and the fragment that
goes on when the region empties (R202 rules 2 to 4); that one has no claim to be the current fragment (R206). -/
def leaveRegion (st : Stream) (r : Region) (lanes : LaneMask) (arrive : Bool) : List Region × Option Frag :=
  let w := r.waiting &&& ~~~lanes
  let a := if arrive then r.arrived ||| lanes else r.arrived
  if w = 0#128 then
    (st.regions.filter (fun q => q ≠ r),
      if a = 0#128 then none
      else some { Frag.make st.newFragId a r.reconv (r.depth - 1) with run := 64, used := st.uses })
  else (setRegion st.regions r { r with waiting := w, arrived := a, used := st.uses }, none)

/-- Arrival of the current fragment at its region's reconvergence address, with the fusions that follow (R202 rules 2
and 3): a fused fragment may itself stand at the reconvergence address of the region around it. A region whose entry is
spilled is first filled (R203): until then the fragment stands before it. -/
def arriveWith (fuel : Nat) (st : Stream) : Stream :=
  match fuel with
  | 0 => st
  | fuel + 1 =>
    match regionFor st.regions st.frag.depth st.frag.mask with
    | none => st
    | some r =>
      if r.reconv = st.frag.pc && r.slot.isNone then
        match leaveRegion st r st.frag.mask true with
        | (rs, some f) => arriveWith fuel { st with regions := rs, frag := f }
        | (rs, none) => { st with regions := rs }.dropFrag
      else st

/-- At most 63 regions nest (R201). -/
def Stream.settle (st : Stream) : Stream :=
  if st.isVector && st.bracket.isNone then arriveWith 64 st else st

/-! ### Completion of an instruction -/

/-- The rotation of LOOP.SP at an end word (R301). -/
def Stream.rotateStages (st : Stream) (more : Bool) : Stream :=
  let shifted := (List.range 7).foldl (fun (t : Stream) k => t.setPred (15 - k) (st.pred (14 - k)))
    { st with rrb := st.rrb - 1#5 }
  shifted.setPred 8 (if more then BitVec.allOnes 128 else 0#128)

/-- Evaluation of the active slots that end at the program counter, the most recently started first (R298, R299): a
slot that repeats sends execution to its start and ends the evaluation; one that finishes becomes inactive. -/
def evalLoops (slots kept : List LoopSlot) (st : Stream) : Stream :=
  match slots with
  | [] => { st with loops := kept, frag := { st.frag with pc := st.frag.pc + 4#64 } }
  | l :: rest =>
    if l.last = st.frag.pc then
      match l.kind with
      | .counted =>
        let n := st.lc l.lc - 1#64
        if n = 0#64 then evalLoops rest kept (st.setLc l.lc n)
        else { st.setLc l.lc n with loops := kept ++ l :: rest, frag := { st.frag with pc := l.start } }
      | .conditional r =>
        let t := st.setLc l.lc (st.lc l.lc + 1#64)
        let v := if r = 0#6 then 0#64 else tableGet st.sregs r.toNat 0#64
        if v = 0#64 then evalLoops rest kept t
        else { t with loops := kept ++ l :: rest, frag := { st.frag with pc := l.start } }
      | .pipelined items done =>
        let n := st.lc l.lc - 1#64
        let t := (st.setLc l.lc n)
        let t := if st.isVector then t.rotateStages (decide (done + 1 < items.toNat)) else t
        if n = 0#64 then evalLoops rest kept t
        else
          { t with
            loops := kept ++ { l with kind := .pipelined items (done + 1) } :: rest,
            frag := { st.frag with pc := l.start } }
    else evalLoops rest (kept ++ [l]) st

/-- A LOOPX slot ends at the program counter, and the register that decides whether it repeats has a pending write. -/
def Stream.loopPending (st : Stream) : Bool :=
  st.loops.any fun l => decide (l.last = st.frag.pc) && match l.kind with
    | .conditional r => st.pending.contains (.s r.toNat)
    | _ => false

/-- The loop slots that end at the completed word are evaluated (R298), then the fragment arrives where it reconverges (R202). -/
def Stream.goOn (st : Stream) : Stream :=
  (evalLoops st.loops [] { st with frag := { st.frag with wait := .running } }).settle

/-- The stream whose current instruction has completed without transferring control: it goes on, at once or when the register that
a LOOPX slot ending here reads is ready (R299). -/
def Stream.finish (st : Stream) : Stream :=
  if st.loopPending then { st with frag := { st.frag with wait := .loopEnd } } else st.goOn

/-- The stream sent to an address by its current instruction (R297). -/
def Stream.jump (st : Stream) (target : Word) : Stream :=
  { st with frag := { st.frag with pc := target, wait := .running } }.settle

/-- The state after the issuing instruction has completed without transferring control. -/
def State.advance (s : State) : State := { s with me := s.me.finish }

/-- The state after the issuing instruction has sent its fragment or stream to an address. -/
def State.goto (s : State) (target : Word) : State := { s with me := s.me.jump target }

/-- An active slot ends at the program counter, and the stream is diverged: a fragment may not complete such a word by
fall-through (R300). -/
def State.forbiddenLoopEnd (s : State) : Bool :=
  s.me.isVector && !s.me.whole && s.me.loops.any (fun l => l.last = s.me.frag.pc)

/-! ### Waiting -/

/-- A new ticket. -/
def State.nextTicket (s : State) : State := { s with ticket := s.ticket + 1 }

/-- The issuing fragment waits, and is no longer the one that goes on issuing (R206); the instruction is offered again. -/
def State.waitFor (s : State) (w : Wait) : State :=
  { s with me := { s.me with frag := { s.me.frag with wait := w, run := 64 } } }

/-- The issuing instruction cannot go on yet and is offered again; one that waits to give keeps its place. -/
def State.stall (s : State) : State :=
  match s.me.frag.wait with
  | .stalled _ => s
  | .give _ _ => s
  | _ => (s.waitFor (.stalled s.ticket)).nextTicket

/-- The turn is added behind those already on the agenda. -/
def State.later (s : State) (t : Turn) : State := { s with agenda := s.agenda ++ [t] }

/-- A whole step of the part is added to the agenda. -/
def State.event (s : State) (i : Instr) (a : EventArg) : State := s.later (.event i a)

/-! ### Streams and jobs of the module -/

/-- A stream by its identity. -/
def State.stream (s : State) (id : StreamId) : Option Stream :=
  if s.me.id = id then some s.me else s.streams.find? fun st => st.id = id

/-- The state with a stream changed, wherever it stands. -/
def State.modStream (s : State) (id : StreamId) (f : Stream → Stream) : State :=
  if s.me.id = id then { s with me := f s.me }
  else { s with streams := s.streams.map fun st => if st.id = id then f st else st }

/-- Every stream changed that a predicate picks. -/
def State.mapStreams (s : State) (p : Stream → Bool) (f : Stream → Stream) : State :=
  { s with
    me := if p s.me then f s.me else s.me,
    streams := s.streams.map fun st => if p st then f st else st }

/-- The stream belongs to the job. -/
def Stream.ofJob (j : JobId) (st : Stream) : Bool := st.id.owner == .job j

/-- Every stream of a job. -/
def State.streamsOf (s : State) (j : JobId) : List Stream :=
  (s.me :: s.streams).filter fun st => st.ofJob j

/-- A job by its identity. -/
def State.job (s : State) (j : JobId) : Option Job :=
  if s.myJob.id = j && s.myJob.state != .done then some s.myJob else s.jobs.find? fun x => x.id = j

/-- The state with a job changed, wherever it stands. -/
def State.modJob (s : State) (j : JobId) (f : Job → Job) : State :=
  if s.myJob.id = j && s.myJob.state != .done then { s with myJob := f s.myJob }
  else { s with jobs := s.jobs.map fun x => if x.id = j then f x else x }

/-- Every job that has left the pool and has not ended. -/
def State.allJobs (s : State) : List Job :=
  if s.myJob.state = .done then s.jobs else s.myJob :: s.jobs

/-- The issuing job changed. -/
def State.setJob (s : State) (f : Job → Job) : State := { s with myJob := f s.myJob }

/-- A launch by partition and acceptance number. -/
def State.launch (s : State) (part acc : Nat) : Option Launch :=
  s.sch.launches.find? fun l => l.part == part && l.acc == acc

def State.modLaunch (s : State) (part acc : Nat) (f : Launch → Launch) : State :=
  let ls := s.sch.launches.map (fun l => if l.part == part && l.acc == acc then f l else l)
  { s with sch := { s.sch with launches := ls } }

/-- A stream becomes the issuing one: it changes places with the stream that issued before. -/
def State.swapStream (s : State) (id : StreamId) : State :=
  if s.me.id = id then s
  else match s.streams.find? fun st => st.id = id with
    | none => s
    | some st => { s with me := st, streams := s.me :: s.streams.filter fun x => x.id ≠ id }

/-- The job of a stream becomes the issuing job. -/
def State.swapJob (s : State) (o : Owner) : State :=
  let put := if s.myJob.state = .done then s.jobs else s.myJob :: s.jobs
  match o with
  | .mgmt _ => { s with myJob := Job.none, jobs := put }
  | .job j =>
    if s.myJob.id = j && s.myJob.state != .done then s
    else match put.find? fun x => x.id = j with
      | none => { s with myJob := Job.none, jobs := put }
      | some x => { s with myJob := x, jobs := put.filter fun y => y.id ≠ j }

/-- A fragment of the stream becomes its current one. -/
def Stream.swapFrag (st : Stream) (id : Nat) : Stream :=
  if st.frag.id = id then st
  else match st.frags.find? fun f => f.id = id with
    | none => st
    | some f => { st with frag := f, frags := st.frag :: st.frags.filter fun g => g.id ≠ id }

/-- The stream and fragment that issue. -/
def State.select (s : State) (id : StreamId) (frag : Nat) : State :=
  let s := (s.swapStream id).swapJob id.owner
  { s with me := s.me.swapFrag frag }

/-- A fragment of any stream changed. -/
def State.modFrag (s : State) (id : StreamId) (frag : Nat) (f : Frag → Frag) : State :=
  s.modStream id fun st =>
    { st with
      frag := if st.frag.id = frag then f st.frag else st.frag,
      frags := st.frags.map fun g => if g.id = frag then f g else g }

/-! ### Time -/

/-- A die's copy of the DTB (R129): the master, less the die's lag. -/
def State.dtb (s : State) (die : Nat) : Word :=
  s.time.ns - BitVec.ofNat 64 (tableGet s.time.lag die 0)

/-- The clock that a core runs on (R20, R22, R139): a tile die's, a half guide die's, or the management complex's. -/
def clockOf (core : Nat) : Nat :=
  if core < 448 then core / 112 else if core < 544 then 4 + coreQuarter core else 8

/-- CYCLE of a core (R20). -/
def State.cycleOf (s : State) (core : Nat) : Nat := tableGet s.time.cycles (clockOf core) 0

/-! ### Snapshot trigger (R144) -/

/-- Trigger source number of R146's SNP_STAT.SRC, and the SRCEN bit of a source. A trigger of a second arming replaces a snapshot that
has not latched or set DONE (log entry 192). -/
def snapTrigger (s : State) (src : Nat) : State :=
  if s.field (snpReg 0x000) src src = 0 then s
  else if s.field (snpReg 0x000) 8 8 = 1 then
    let s := s.setField (snpReg 0x000) 8 8 0
    let s := s.setReg (snpReg 0x018)
      (withBits (withBits (withBits (s.reg (snpReg 0x018)) 63 63 1) 61 60 src) 59 59 0)
    { s with sys := { s.sys with
      snapshot := some ⟨src, s.time.ns + 64#64, false, []⟩,
      pulse := if s.field (snpReg 0x000) 4 4 = 1 then some (s.time.ns + 1000#64) else s.sys.pulse } }
  else
    let n := s.field (snpReg 0x018) 47 32
    s.setField (snpReg 0x018) 47 32 (n + 1)

/-! ### The cause of a stop (R136) -/

/-- The cause of the stop under way for the next start's record (R136); that of a thermal shutdown or of a failed hop stays
(R22, R85). -/
def recordStop (s : State) (code : BitVec 8) : State :=
  if s.sys.stopped then s else { s with sys := { s.sys with flash := { s.sys.flash with stop := code } } }

/-- A stop of the compute dies, or of a partition, whose cause the next start's record shows. -/
def stopWith (s : State) (code : BitVec 8) : State :=
  { s with sys := { s.sys with stopped := true, flash := { s.sys.flash with stop := code } } }

/-! ### Taking an exception (R211, R213) -/

/-- Cause codes (R211). -/
def causeKilled : Nat := 0
def causeIllegalInstruction : Nat := 1
def causeIllegalType : Nat := 2
def causeIllegalUnit : Nat := 3
def causeTranslation : Nat := 4
def causePermission : Nat := 5
def causeRangeConflict : Nat := 6
def causeAlignment : Nat := 7
def causeVmxOperand : Nat := 8
def causeMcastPartition : Nat := 9
def causeQuantRange : Nat := 10
def causeDataLost : Nat := 11
def causePatchRange : Nat := 12
def causeWatchdog : Nat := 13
def causeTrap : Nat := 14
def causeBkpt : Nat := 15

/-- What a fault says of itself: the fields of R213 that the faulting step supplies. -/
structure FaultInfo where
  cause : Nat
  kind  : Nat := 0
  space : Nat := 0
  akind : Nat := 3
  addr  : Word := 0#64
  regno : Nat := 0xFFFF
  /-- offending lanes in place of the fragment's mask (R355, R407) -/
  lanes : Option LaneMask := none
  engine : Option Nat := none
  /-- program counter of the access that failed, where it is not the current one (R212, R436) -/
  pc     : Option Word := none
  deriving DecidableEq, Repr

/-- DISP of a cause (R211): 0 parked for replay, 1 parked next, 2 the job is terminated. -/
def dispOf (cause : Nat) : Nat :=
  if cause = causeTranslation || cause = causePermission || cause = causeRangeConflict || cause = causeAlignment ||
      cause = causeVmxOperand || cause = causeMcastPartition then 0
  else if cause = causeQuantRange || cause = causeTrap || cause = causeBkpt then 1
  else 2

/-- ENGINE of a record (R213). -/
def engineCode (e : Engine) : Nat :=
  match e with
  | .control => 0
  | .vector => 1
  | .matrix => 2
  | .copy => 3

/-- Key of the last issue on a slot of a core, by engine (R206). -/
def issueKey (core slot : Nat) (e : Engine) : Nat := (core * 4 + slot) * 4 + engineCode e

/-- Live fragments in all vector streams of a job (R213). -/
def State.liveFrags (s : State) (j : JobId) : Nat :=
  (s.streamsOf j).foldl (fun n st => if st.isVector && !st.ended then n + 1 + st.frags.length else n) 0

/-- The record of a fault that the issuing stream takes (R213, R435). -/
def faultRecord (s : State) (f : FaultInfo) (disp : Nat) : FaultRecord :=
  let m := s.isMgmt
  { cause := f.cause, disp := disp, engine := f.engine.getD (engineCode s.me.engine), kind := f.kind,
    strmid := if m then 0 else s.me.id.strm, space := f.space, akind := f.akind,
    job := if m then 0 else s.myJob.id.job, launch := if m then 0 else s.myJob.id.acc % 2 ^ 32,
    coreid := coreIdWord s.core, ctx := if m then 0 else s.myJob.ctx.toNat, regno := f.regno,
    relaunches := if m then 0 else s.myJob.relaunches, pc := f.pc.getD s.pc, addr := f.addr,
    tag := if m then 0#64 else s.myJob.tag, time := s.time.ns,
    mask := if m then 0#128 else f.lanes.getD (if s.me.isVector then s.me.frag.mask else 0#128),
    cycles := if m then 0 else s.myJob.canary, ctxBase := if m then 0#64 else s.myJob.ctxBase,
    nfrag := if m then 0 else s.liveFrags s.myJob.id }

/-- The 128 bytes of a record (R213). -/
def recordBytes (r : FaultRecord) : List Byte :=
  leBytes 1 r.cause ++ leBytes 1 r.disp ++ leBytes 1 r.engine ++ leBytes 1 r.kind ++ leBytes 2 r.strmid ++
  leBytes 1 r.space ++ leBytes 1 r.akind ++ leBytes 4 r.job ++ leBytes 4 r.launch ++ leBytes 2 r.coreid ++
  leBytes 2 r.ctx ++ leBytes 2 r.regno ++ leBytes 1 r.relaunches ++ leBytes 1 0 ++ leBytes 8 r.pc.toNat ++
  leBytes 8 r.addr.toNat ++ leBytes 8 r.tag.toNat ++ leBytes 8 r.time.toNat ++ leBytes 16 r.mask.toNat ++
  leBytes 8 r.cycles ++ leBytes 8 r.ctxBase.toNat ++ leBytes 4 r.nfrag ++ leBytes 36 0

/-- A new park, numbered. -/
def State.newPark (s : State) (disp kind : Nat) : Park := ⟨disp, s.time.ns, kind, false, s.ticket⟩

/-- The issuing fragment parked. -/
def State.park (s : State) (disp kind : Nat) : State :=
  { s with
    me := { s.me with frag := { s.me.frag with wait := .running, run := 64, parked := some (s.newPark disp kind) } },
    ticket := s.ticket + 1 }

/-- The issuing fragment, parked already, is parked once more (R436). -/
def State.parkAgain (s : State) (disp kind : Nat) : State :=
  { s with
    me := { s.me with frag := { s.me.frag with behind := s.me.frag.behind ++ [s.newPark disp kind] } },
    ticket := s.ticket + 1 }

/-- A record joins those waiting to be posted to a partition's fault queue (R170). -/
def State.postLater (s : State) (p : PendingRecord) : State :=
  { s with sch := { s.sch with records := s.sch.records ++ [p] } }.event .faultRecordPost { a := p.part }

/-- The monitors on a line fire (R311). -/
def State.fireLine (s : State) (line : Nat) : State :=
  s.mapStreams (fun st => match st.watch with
      | some w => w.line == line
      | none => false)
    fun st => { st with watch := none, fired := true }

/-- A physical line joins the lines whose slice copy is newer than DRAM. -/
def State.markDirty (s : State) (line : Nat) : State :=
  if s.mm.dirty.contains line then s else { s with mm := { s.mm with dirty := line :: s.mm.dirty } }

/-- Whose record is posted where: a partition's records go to its fault queue (R170); those of management core n are taken
under number 4 + n, and go to the management fault area (R435). -/
def mgmtArea (n : Nat) : Nat := 4 + n

/-- The fragment that a record parks, and the number of its park, which is the next one given. -/
def State.parkedMe (s : State) : ParkedItem := .frag s.me.id s.me.frag.id s.ticket

/-- A parked cause: the issuing stream or fragment is parked, and its record joins those to be posted (R170, R435). -/
def takePark (s : State) (f : FaultInfo) (disp parkDisp : Nat) : State :=
  let r := faultRecord s f disp
  let item := s.parkedMe
  let t := if s.me.frag.parked.isSome then s.parkAgain parkDisp f.kind else s.park parkDisp f.kind
  t.postLater ⟨if s.isMgmt then mgmtArea (s.core - 544) else s.myJob.id.part, r, item, none, none⟩

/-- TAKING AN EXCEPTION: the issuing stream or fragment takes a trap or fault (R211). The trigger of R144 fires when its
cause is selected; a parked cause leaves the fragment stopped at its instruction (replay) or after it (next); a cause
that ends the job stops every stream of it until the record is posted (R170). A management core parks for every cause
(R435). -/
def takeFault (s : State) (f : FaultInfo) : State :=
  let disp := dispOf f.cause
  let s := if s.field (snpReg 0x010) f.cause f.cause = 1 then snapTrigger s 2 else s
  if s.isMgmt || disp ≠ 2 then takePark s f disp disp
  else
    (s.setJob fun j => { j with hardStop := true }).postLater
      ⟨s.myJob.id.part, faultRecord s f disp, .nothing, some s.myJob.id, none⟩

/-- A failure that a reply brings (R212, R436): DATA_LOST ends the job; PERMISSION parks the stream or fragment before its
next unissued instruction, with DISP 1 in the record, and RESUME goes on at the parked point; a TOK.GIVE that it waited at loses its
place. -/
def takeReplyFault (s : State) (f : FaultInfo) : State :=
  if dispOf f.cause = 2 then takeFault s f
  else
    let mine (g : LateGive) : Bool := g.by_ == some (s.me.id.strm, s.me.frag.id)
    let s := s.setJob fun j => { j with lateGives := j.lateGives.filter fun g => !mine g }
    takePark (if s.field (snpReg 0x010) f.cause f.cause = 1 then snapTrigger s 2 else s) f 1
      (if s.me.frag.wait = .loopEnd then 1 else 3)

/-- An exception as the outcome of a meaning. -/
def trap (s : State) (f : FaultInfo) : Result := .next (takeFault s f)

def trapIllegal (s : State) : Result := trap s { cause := causeIllegalInstruction }
def trapType (s : State) : Result := trap s { cause := causeIllegalType }

/-- A record that concerns a whole job, as R213 gives WATCHDOG's. -/
def jobRecord (s : State) (j : Job) (cause : Nat) : FaultRecord :=
  { cause := cause, disp := 2, engine := 6, kind := 0, strmid := 0xFFFF, space := 0, akind := 3, job := j.id.job,
    launch := j.id.acc % 2 ^ 32, coreid := (j.core.map coreIdWord).getD 0, ctx := j.ctx.toNat, regno := 0xFFFF,
    relaunches := j.relaunches, pc := 0#64, addr := 0#64, tag := j.tag, time := s.time.ns, mask := 0#128,
    cycles := j.canary, ctxBase := j.ctxBase, nfrag := s.liveFrags j.id }

/-- A job is stopped as a whole, to end once its record with DISP 2 stands (R167 step 4, R169, R170, R314). -/
def State.endJob (s : State) (id : JobId) (cause : Nat) : State :=
  match s.job id with
  | none => s
  | some j =>
    if j.hardStop then s
    else
      (s.modJob id fun j => { j with hardStop := true }).postLater ⟨id.part, jobRecord s j cause, .nothing, some id, none⟩

/-! ### Return from an exception (R313) -/

/-- A park of the stream's current fragment is lifted. The last one lets it go on as it was first parked: at its instruction
again, after it, where the loop slots that end at the parked instruction are evaluated first (R298), or at the point
where a failed reply parked it (R436). -/
def liftPark (st : Stream) (no : Nat) : Stream :=
  match st.frag.parked with
  | none => st
  | some p =>
    if p.no = no then
      match st.frag.behind with
      | q :: rest => { st with frag := { st.frag with parked := some { q with disp := p.disp }, behind := rest } }
      | [] =>
        let t := { st with frag := { st.frag with parked := none } }
        if p.disp = 1 then t.finish else t
    else { st with frag := { st.frag with behind := st.frag.behind.filter fun q => q.no ≠ no } }

/-- A parked fragment of a stream continues where the park of a number was its last. -/
def resumeStream (st : Stream) (frag no : Nat) : Stream := liftPark (st.swapFrag frag) no

/-- RETURN FROM AN EXCEPTION: the parked fragment of a stream continues. -/
def State.resumeFrag (s : State) (id : StreamId) (frag no : Nat) : State :=
  s.modStream id fun st => resumeStream st frag no

/-- The parks of a fragment. -/
def Frag.parks (f : Frag) : List Park := f.parked.toList ++ f.behind

/-- Every park of a fragment changed. -/
def Frag.mapParks (g : Park → Park) (f : Frag) : Frag :=
  { f with parked := f.parked.map g, behind := f.behind.map g }

end Sys2Proof.Machine
end

