-- ==== Sys2Proof/Machine/Bus.lean ====
section
/-!
DEFINITION. Reads and writes of the register space (R13, R116, R117): the registers whose value is another piece of
state, the commands behind WO fields (each becomes the next turn of the machine), and the guards on writes.
-/

namespace Sys2Proof.Machine

/-- An event comes about next, before what already stands on the agenda. -/
def State.sooner (s : State) (i : Instr) (a : EventArg) : State :=
  { s with agenda := .event i a :: s.agenda }

/-- An MSI-X message leaves over the host port (R115). -/
def State.sendMsix (s : State) (vec : Nat) : State :=
  { s with sys := { s.sys with cxl := { s.sys.cxl with msix := s.sys.cxl.msix ++ [vec] } } }

/-- A bit of HIF_EVT is set; the host event interrupt goes out as MSI-X where BOOT_MSIX says so (R133, R146). -/
def State.raiseHif (s : State) (n : Nat) : State :=
  let s := s.raise hifEvt n
  if s.field (bootReg 0x018) 11 11 = 1 then s.sendMsix (s.field (bootReg 0x018) 10 0) else s

/-- The quarter that a SCH_ or GOV_ register belongs to. -/
def blockQuarter (o : Nat) : Nat := o % 0x10000 / 0x1000

/-- The quarter is the lowest of its partition, so its SCH_ and GOV_ registers act (R171, R192). -/
def State.isLowest (s : State) (q : Nat) : Bool := s.ownerOf q == q

/-- A register of a quarter that is not the lowest of its partition (R171, R192). -/
def State.idleQuarter (s : State) (o : Nat) : Bool :=
  decide (0x50000 ≤ o) && decide (o < 0x70000) && !s.isLowest (blockQuarter o)

/-- A field at a place in a word. -/
def placeField (lo width x : Nat) : BitVec 64 :=
  BitVec.ofNat 64 (x % 2 ^ width * 2 ^ lo)

/-- Bits k of a list of numbers. -/
def bitSet (ks : List Nat) : Nat := ks.foldl (fun n k => n ||| 2 ^ k) 0

/-- GOV_ registers of a quarter (R192), from the governor and the version table: DROPPED, MINSTEP and the deadline are those
of the open frame; the others stand until the next frame opens (R191). -/
def govValue (s : State) (q o : Nat) : Option (BitVec 64) :=
  let g := tableFind s.sch.govs q
  let entry (k : Nat) : Option VersionEntry := s.guide.versions.find? fun e => e.part == q && e.idx == k
  match g, o with
  | some g, 0x010 =>
    let own := if g.opened then placeField 63 1 1 ||| placeField 32 16 (bitSet g.dropped) ||| placeField 8 5 g.minEff else 0#64
    some (own ||| placeField 24 5 g.nb ||| placeField 16 5 g.nsteps ||| placeField 0 4 g.cur)
  | some g, 0x018 => some (if g.opened then g.deadline else 0#64)
  | some g, 0x020 => some (g.tail.zeroExtend 64)
  | some g, 0x028 => some (g.stepTime.zeroExtend 64)
  | some g, 0x030 => some g.mark
  | some g, o =>
    match arrayIndex o 0x100 8 16 with
    | some k =>
      some (if k < g.nsteps then
          placeField 9 1 (natOfBool (g.ran.contains k)) ||| placeField 8 1 (natOfBool (g.dropped.contains k)) |||
            placeField 0 8 (g.ranks.getD k 0)
        else 0#64)
    | none =>
      match arrayIndex o 0x200 32 16, arrayIndex o 0x208 32 16, arrayIndex o 0x210 32 16 with
      | some k, _, _ => some (match entry k with
          | some e => placeField 63 1 1 ||| (e.desc &&& fieldMask 56 6)
          | none => 0#64)
      | _, some k, _ => some (match entry k with
          | some e => e.ctx.zeroExtend 64
          | none => 0#64)
      | _, _, some k => some (match entry k with
          | some e => placeField 32 32 e.version.toNat ||| placeField 0 32 e.pins
          | none => 0#64)
      | _, _, _ => none
  | none, o =>
    match arrayIndex o 0x200 32 16, arrayIndex o 0x208 32 16, arrayIndex o 0x210 32 16 with
    | some k, _, _ => some (match entry k with
        | some e => placeField 63 1 1 ||| (e.desc &&& fieldMask 56 6)
        | none => 0#64)
    | _, some k, _ => some (match entry k with
        | some e => e.ctx.zeroExtend 64
        | none => 0#64)
    | _, _, some k => some (match entry k with
        | some e => placeField 32 32 e.version.toNat ||| placeField 0 32 e.pins
        | none => 0#64)
    | _, _, _ => none

/-- Launches of a queue of a partition (R171). -/
def State.queueLength (s : State) (part queue : Nat) : Nat :=
  (s.sch.launches.filter fun l => l.part == part && l.queue == queue).length

/-- The registers whose fields are all WO: they read zero (R13). -/
def isWriteOnly (o : Nat) : Bool :=
  match regInfo o with
  | some i => i == infoWo
  | none => false

/-- The identity seed (R23, R134 step 3). -/
def Flash.seed (f : Flash) : List Byte := Config.identitySeed (cellsGet f.record 0x220 256)

/-- Bytes followed by zeros up to a length (R137). -/
def zeroPadded (n : Nat) (bs : List Byte) : List Byte := bs.take n ++ List.replicate (n - bs.length) 0#8

/-- The public half of the identity key, 2 KiB (R137). -/
def State.publicKey (s : State) : List Byte := zeroPadded 2048 (Config.identityKey s.sys.flash.seed)

/-- The value that a register reads as (R13). -/
def State.regValue (s : State) (o : Nat) : BitVec 64 :=
  if s.idleQuarter o then 0#64
  else if (shadowOf o).isSome then tableGet s.sys.shadows o 0#64
  else if isWriteOnly o then 0#64
  else if o = 0x38 then s.time.ns
  else if o = fabReg 0x080 then
    match s.net.stamps with
    | [] => 0#64
    | t :: _ => placeField 63 1 1 ||| placeField 62 1 (natOfBool t.egress) ||| placeField 54 8 t.port |||
        placeField 38 16 t.seqid.toNat ||| placeField 34 4 t.mtype.toNat
  else if 0x50000 ≤ o && o < 0x60000 then
    match arrayIndex (o % 0x1000) 0x300 8 64 with
    | some i => placeField 0 7 (s.queueLength (blockQuarter o) i)
    | none => s.reg o
  else if 0x60000 ≤ o && o < 0x70000 then
    match govValue s (blockQuarter o) (o % 0x1000) with
    | some v => v
    | none => s.reg o
  else if (arrayIndex o (bootReg 0x2000) 8 256).isSome then
    BitVec.ofNat 64 (leNat (((s.publicKey.drop (o - bootReg 0x2000)).take 8)))
  else s.reg o

/-- What reading a register does (R97, R133): HIF_DTB_NS latches FRAC, FAB_TS_META pops its record. -/
def State.readEffect (s : State) (o : Nat) : State :=
  if o = 0x38 then s.setReg 0x40 (s.time.frac.zeroExtend 64)
  else if o = fabReg 0x080 then
    match s.net.stamps with
    | [] => s
    | t :: rest => { s with net := { s.net with stamps := rest } }.setReg (fabReg 0x088) t.ns
  else s

/-- The register at an offset, if one lies there now: in minimal mode only HIF_ID and the BOOT_ registers do (R135). -/
def State.regAt (s : State) (o : Nat) : Option RegInfo :=
  if s.sys.boot = .minimal && decide (o ≠ 0) && decide (o < bootReg 0) then none else regInfo o

/-- A read of 4 or 8 bytes at a naturally aligned offset (R117); an unpopulated offset reads zero and sets UNMAPPED. -/
def busRead (s : State) (off size : Nat) : Word × State :=
  let o := off / 8 * 8
  if (s.regAt o).isNone then (0#64, s.raiseHif 1)
  else
    let v := s.regValue o
    (if size = 4 then BitVec.ofNat 64 (bitsOf (v >>> (8 * (off % 8))) 31 0) else v, s.readEffect o)

/-- The quarters of a handshake's mask that a PRT_ register's field belongs to, as the bits that a write may change
(R142): outside a handshake, before the first LAUNCH, every bit, whatever row of R140 PRT_OWNER then has or has not (log entry 191). -/
def State.prtWritable (s : State) (o : Nat) : BitVec 64 :=
  let quiesced := s.field (prtReg 0x010) 59 59 = 1
  let mask := match s.sys.quiesce with
    | some q => q.mask
    | none => 0#4
  let all : BitVec 64 := BitVec.allOnes 64
  let entry (q : Nat) : BitVec 64 := if mask.getLsbD q then all else 0#64
  if o = prtReg 0x000 then
    if quiesced then
      (List.range 4).foldl (fun m q => if mask.getLsbD q then m ||| fieldMask (2 * q + 1) (2 * q) else m) 0#64
    else if s.sys.launched then 0#64 else all
  else if o = prtReg 0x020 then
    if quiesced then
      let both (a b n : Nat) : BitVec 64 := if mask.getLsbD a && mask.getLsbD b then fieldMask n n else 0#64
      both 0 1 0 ||| both 2 3 1 ||| both 0 2 2 ||| both 1 3 3 ||| both 0 1 4 ||| both 2 3 5
    else if s.sys.launched then 0#64 else all
  else
    match arrayIndex o (prtReg 0x040) 8 4, arrayIndex o (prtReg 0x080) 8 8 with
    | some q, _ => if quiesced then entry q else if s.sys.launched then 0#64 else all
    | none, some k => if quiesced then entry (k / 2) else if s.sys.launched then 0#64 else all
    | none, none => all

/-- The W1C bits that a write clears: each one that is written with 1 (R13), so that all ones clear a counter. -/
def clearedBits (i : RegInfo) (v touched : BitVec 64) : BitVec 64 := v &&& i.w1c &&& touched

/-- The stored part of a register after a write. -/
def State.storeReg (s : State) (o : Nat) (i : RegInfo) (v touched : BitVec 64) : State :=
  let t := touched &&& s.prtWritable o
  let rw := i.rw &&& t
  let old := s.reg o
  s.setReg o (((old &&& ~~~rw) ||| (v &&& rw)) &&& ~~~ clearedBits i v t)

/-- The command that a write makes: PAR_CMD (R75). -/
def parCommand (s : State) (v : BitVec 64) : State :=
  let op := bitsOf v 63 62
  let member := bitsOf v 61 57
  let chan := bitsOf v 56 52
  let stripe := bitsOf v 27 0
  let bad := decide (27 < member) || (decide (12 ≤ member) && decide (3 < chan)) ||
    (op == 3 && decide (member < 12) && decide (2 ^ 27 - 1 < stripe))
  if bad then s.raise parEvt 5
  else
    match op with
    | 1 => s.sooner .parDeclareChannelLost { a := member, b := chan }
    | 2 => s.sooner .parDeclareMemberLost { a := member }
    | 3 => s.sooner .parScrubStripe { a := member, b := stripe }
    | _ => s

/-- MEM_LP_CMD (R53): refused while busy, refused when its range passes the last block. -/
def lpCommand (s : State) (v : BitVec 64) : State :=
  let op := bitsOf v 63 62
  let count := bitsOf v 61 32
  let lbn := bitsOf v 29 0
  if s.field (memReg 0x000) 2 2 = 1 then s.raise memEvt 6
  else if op = 1 || op = 2 then
    if 0x3BFFFFFF + 1 < lbn + count then s.raise memEvt 3
    else
      let s := s.setField (memReg 0x000) 2 2 1
      s.sooner (if op = 1 then .lpCommit else .lpDecommit) { a := lbn, b := count }
  else s

/-- HIF_BIAS_CMD (R120, R133). -/
def biasCommand (s : State) (v : BitVec 64) : State :=
  let op := bitsOf v 62 61
  if s.field 0x20 63 63 = 1 then s.raiseHif 5
  else if op = 1 || op = 2 then
    (s.setField 0x20 63 63 1).sooner (if op = 1 then .biasSet else .biasClear) { a := bitsOf v 35 0 }
  else s

/-- The commands behind the fields of a register that has been written: v holds the written bits, others zero. A BOOT_CTL
write with several fields set acts on GOOD, then CLRCNT, then RESTART; each looks at the mode that it finds (R135, R146). A BOOT_FLCMD
write while BUSY = 1 does nothing (log entry 193), and a HIF_PTM_CTL write that sets EN and REQ starts an exchange (log entry 189). -/
def State.command (s : State) (o : Nat) (v : BitVec 64) : State :=
  if o = 0x20 then biasCommand s v
  else if o = 0x50 then (if v = 0#64 then s else s.sooner .dtbStep { v := v })
  else if o = 0x58 then
    if bitOf v 1 && s.field 0x58 0 0 == 1 && s.sys.cxl.ptm.isNone then s.sooner .ptmRequest {} else s
  else if o = memReg 0x008 then lpCommand s v
  else if o = memReg 0x018 then (if s.field (memReg 0x010) 33 0 < s.field o 33 0 then s.raise memEvt 0 else s)
  else if o = memReg 0x020 then (if s.field (memReg 0x010) 33 0 < s.field o 33 0 then s.raise memEvt 1 else s)
  else if o = memReg 0x048 then (if bitOf v 1 then s.sooner .hotDecay {} else s)
  else if o = parReg 0x000 then parCommand s v
  else if o = prtReg 0x008 then
    match bitsOf v 63 62 with
    | 1 => s.sooner .prtQuiesce { a := bitsOf v 3 0 }
    | 2 => s.sooner .prtRelease { a := bitsOf v 3 0 }
    | _ => s
  else if o = snpReg 0x000 then s.sooner .snapArm { v := s.reg o }
  else if o = bootReg 0x010 then
    let act (s : State) (n : Nat) (i : Instr) : State := if bitOf v n then s.sooner i {} else s
    act (act (act s 2 .bootRestart) 1 .bootClrcnt) 0 .bootGood
  else if o = bootReg 0x020 then s.sooner .quoteRequest { v := v }
  else if o = bootReg 0x048 then
    if s.field o 63 63 = 1 then s
    else
      match bitsOf v 57 56 with
      | 1 => s.sooner .flashEraseB {}
      | 2 => s.sooner .flashProgram { a := bitsOf v 11 0 }
      | 3 => s.sooner .flashVerifyB {}
      | _ => s
  else if o = bootReg 0x050 then s.sooner .powerCapWrite { v := s.reg o }
  else s

/-- WO fields that the machine reads later: the nonce and the flash page buffer (R146). -/
def State.keepWritten (s : State) (off size : Nat) (v : BitVec 64) : State :=
  let o := off / 8 * 8
  if (arrayIndex o (bootReg 0x028) 8 4).isSome then
    let sh := 8 * (off % 8)
    let m : BitVec 64 := if size = 4 then fieldMask (sh + 31) sh else BitVec.allOnes 64
    s.setReg o ((s.reg o &&& ~~~m) ||| (v <<< sh &&& m))
  else if (arrayIndex o (bootReg 0x1000) 8 512).isSome then
    { s with sys := { s.sys with flashBuf := cellsSet s.sys.flashBuf (off - bootReg 0x1000) (leBytes size v.toNat) } }
  else s

/-- A write of 4 or 8 bytes at a naturally aligned offset (R117): only the bits written act; an unpopulated offset
ignores it and sets UNMAPPED. -/
def busWrite (s : State) (off size : Nat) (v : Word) : State :=
  let o := off / 8 * 8
  match s.regAt o with
  | none => s.raiseHif 1
  | some i =>
    if s.idleQuarter o || (shadowOf o).isSome then s
    else
      let sh := 8 * (off % 8)
      let touched : BitVec 64 := if size = 4 then fieldMask (sh + 31) sh else BitVec.allOnes 64
      let w := (v <<< sh) &&& touched
      if isWriteOnly o then (s.keepWritten off size v).command o w
      else (s.storeReg o i w touched).command o w

/-- The host's answer from a read over BAR0. -/
def State.barAnswer (s : State) (n : Nat) (v : Word) : State :=
  { s with sys := { s.sys with cxl := { s.sys.cxl with answer := some (leBytes n v.toNat, false) } } }

/-- REGISTER_WRITE (R117): an access of the host over BAR0 at offset a, b bytes wide: the write of v or, with the flag, a read
(log entry 146). One that is not naturally aligned and 4 or 8 bytes wide reads zero, writes nothing and sets UNMAPPED. -/
def execRegisterWrite (s : State) : Result :=
  let a := s.arg
  if (a.b = 4 || a.b = 8) && a.a % a.b = 0 then
    if a.flag then
      let r := busRead s a.a a.b
      .next (r.2.barAnswer a.b r.1)
    else .next (busWrite s a.a a.b a.v)
  else .next (if a.flag then (s.raiseHif 1).barAnswer a.b 0#64 else s.raiseHif 1)

/-- DTB_NS_READ (R133): a read of HIF_DTB_NS latches FRAC. -/
def execDtbNsRead (s : State) : Result := .next (s.readEffect 0x38)

/-- TS_RECORD_POP (R97): a read of FAB_TS_META with V = 1 pops the oldest record. -/
def execTsRecordPop (s : State) : Result := .next (s.readEffect (fabReg 0x080))

end Sys2Proof.Machine
end

