-- ==== Sys2Proof/Machine/Flags.lean ====
section
/-!
DEFINITION. Conditions and counts computed from operands. The machine keeps no flags (R292); what another hardware calls
a flag stands here as the truth value that a branch tests or that a compare writes.
-/

namespace Sys2Proof.Machine

/-- A truth value as a scalar register's word (R293). -/
def boolWord (b : Bool) : Word := if b then 1#64 else 0#64

/-- COND 0 to 5 of BC, A compared as signed with zero (R297); the codes 8 to 15 are no condition. -/
def condHolds (c : BitVec 4) (a : Word) : Option Bool :=
  match c.toNat with
  | 0 => some (decide (a.toInt = 0))
  | 1 => some (decide (a.toInt ≠ 0))
  | 2 => some (decide (a.toInt < 0))
  | 3 => some (decide (0 ≤ a.toInt))
  | 4 => some (decide (a.toInt ≤ 0))
  | 5 => some (decide (0 < a.toInt))
  | _ => none

/-- Integer compares of ICMP: 0 EQ, 1 NE, 2 LT, 3 LE (R331). -/
def intCompare (c : Nat) (a b : Int) : Bool :=
  match c with
  | 0 => decide (a = b)
  | 1 => decide (a ≠ b)
  | 2 => decide (a < b)
  | _ => decide (a ≤ b)

/-- Leading zeros of a w-bit number; w when it is zero (R293, R334). -/
def leadingZeros (w v : Nat) : Nat :=
  (firstBelow w (fun k => v.testBit (w - 1 - k))).getD w

/-- Trailing zeros of a w-bit number; w when it is zero (R293). -/
def trailingZeros (w v : Nat) : Nat :=
  (firstBelow w (fun k => v.testBit k)).getD w

/-- Ones in a w-bit number (R293, R334). -/
def onesIn (w v : Nat) : Nat :=
  ((List.range w).filter (fun k => v.testBit k)).length

/-- A w-bit number with its bits reversed (R293). -/
def bitsReversed (w v : Nat) : Nat :=
  (List.range w).foldl (fun n k => 2 * n + natOfBool (v.testBit k)) 0

/-- Unsigned saturating sum of 32-bit counters (QSTAT.SAT, R288). -/
def satAdd32 (a b : Nat) : Nat := min (a + b) (2 ^ 32 - 1)

end Sys2Proof.Machine
end

