-- ==== Sys2Proof/Machine/Floats.lean ====
section
/-!
DEFINITION. Number formats (R269 to R279): decoding a pattern to an exact value, and rounding an exact value once under
a rounding mode, stochastic rounding included (R274, R276).
-/

namespace Sys2Proof.Machine

/-- Which patterns with the largest exponent are special: IEEE infinities and NaNs, the one NaN of E4M3, or none. -/
inductive Specials where
  | ieee | oneNan | none
  deriving DecidableEq, Repr

/-- A floating-point format (R269, R272). -/
structure Format where
  exp  : Nat
  frac : Nat
  bias : Nat
  spec : Specials
  deriving DecidableEq, Repr

def fp32 : Format := ⟨8, 23, 127, .ieee⟩
def fp16 : Format := ⟨5, 10, 15, .ieee⟩
def bf16 : Format := ⟨8, 7, 127, .ieee⟩
def e4m3 : Format := ⟨4, 3, 7, .oneNan⟩
def e5m2 : Format := ⟨5, 2, 15, .ieee⟩
def e2m3 : Format := ⟨2, 3, 1, .none⟩
def e3m2 : Format := ⟨3, 2, 3, .none⟩
def e2m1 : Format := ⟨2, 1, 1, .none⟩

/-- The format of a TY code of the floating-point family (R250, R272). -/
def floatFormat (ty : Nat) : Format :=
  match ty with
  | 0 => fp32
  | 1 => fp16
  | 2 => bf16
  | 3 => e4m3
  | 4 => e5m2
  | 5 => e2m3
  | 6 => e3m2
  | _ => e2m1

/-- Bits of a pattern. -/
def Format.width (f : Format) : Nat := 1 + f.exp + f.frac

/-- An exact value: NaN, an infinity, or (-1)^neg x m x 2^e; a zero keeps its sign. -/
inductive Num where
  | nan
  | inf (neg : Bool)
  | fin (neg : Bool) (m : Nat) (e : Int)
  deriving DecidableEq, Repr

/-- The value of a pattern (R269, R272). -/
def Format.decode (f : Format) (x : Nat) : Num :=
  let fr := x % 2 ^ f.frac
  let ex := x / 2 ^ f.frac % 2 ^ f.exp
  let neg := x.testBit (f.frac + f.exp)
  let top := decide (ex = 2 ^ f.exp - 1)
  if top && f.spec == .ieee then (if fr = 0 then .inf neg else .nan)
  else if top && f.spec == .oneNan && decide (fr = 2 ^ f.frac - 1) then .nan
  else if ex = 0 then .fin neg fr (1 - (f.bias : Int) - f.frac)
  else .fin neg (2 ^ f.frac + fr) ((ex : Int) - f.bias - f.frac)

/-- Largest finite magnitude's code. -/
def Format.maxFinite (f : Format) : Nat :=
  match f.spec with
  | .ieee => (2 ^ f.exp - 1) * 2 ^ f.frac - 1
  | .oneNan => 2 ^ (f.exp + f.frac) - 2
  | .none => 2 ^ (f.exp + f.frac) - 1

/-- The canonical NaN's code (R269, R272); formats without one are given zero (R277). -/
def Format.nanCode (f : Format) : Nat :=
  match f.spec with
  | .ieee => (2 ^ f.exp - 1) * 2 ^ f.frac + 2 ^ (f.frac - 1)
  | .oneNan => 2 ^ (f.exp + f.frac) - 1
  | .none => 0

/-- Code of infinity; a format without one has its largest finite value there (R277). -/
def Format.infCode (f : Format) : Nat :=
  match f.spec with
  | .ieee => (2 ^ f.exp - 1) * 2 ^ f.frac
  | _ => f.maxFinite

/-- The sign bit put on a magnitude's code. -/
def Format.signed (f : Format) (neg : Bool) (code : Nat) : Nat :=
  if neg then code + 2 ^ (f.exp + f.frac) else code

/-- Bit length. -/
def bitLength (m : Nat) : Nat := if m = 0 then 0 else m.log2 + 1

/-- 2^n times a number for a signed n, downward. -/
def scaleFloor (m : Nat) (n : Int) : Nat :=
  if 0 ≤ n then m * 2 ^ n.toNat else m / 2 ^ (-n).toNat

/-- How a rounding is made: the mode of R274 and, for mode 4, the draw r (R276). -/
structure Rounding where
  mode : Nat
  draw : Nat
  deriving DecidableEq, Repr

/-- Round to nearest, ties to even. -/
def nearestEven : Rounding := ⟨0, 0⟩

/-- Whether a magnitude with integer part q and fraction rem / 2^shift (more than that if sticky) rounds up (R274,
R276). -/
def roundsUp (r : Rounding) (neg : Bool) (q rem shift : Nat) (sticky : Bool) : Bool :=
  let inexact := decide (rem ≠ 0) || sticky
  match r.mode with
  | 1 => false
  | 2 => inexact && !neg
  | 3 => inexact && neg
  | 4 => decide (2 ^ 16 ≤ rem * 2 ^ 16 / 2 ^ shift + r.draw % 2 ^ 16)
  | _ => decide (2 ^ shift < 2 * rem) || (decide (2 * rem = 2 ^ shift ∧ 0 < shift) && (sticky || decide (q % 2 = 1)))

/-- The code that an overflow gives (R270, R276, R277). -/
def Format.overflow (f : Format) (r : Rounding) (neg : Bool) : Nat :=
  match f.spec with
  | .ieee =>
    match r.mode with
    | 1 => f.maxFinite
    | 2 => if neg then f.maxFinite else f.infCode
    | 3 => if neg then f.infCode else f.maxFinite
    | _ => f.infCode
  | _ => f.maxFinite

/-- The code of a magnitude m x 2^e (above it by less than 2^e when sticky), rounded once as if the exponent range were
unbounded above. -/
def Format.magnitude (f : Format) (r : Rounding) (neg : Bool) (m : Nat) (e : Int) (sticky : Bool) : Nat :=
  let top : Int := e + bitLength m - 1
  let emin : Int := 1 - f.bias
  let ulp : Int := (if top < emin then emin else top) - f.frac
  let shift := (ulp - e).toNat
  let q := if e ≤ ulp then m / 2 ^ shift else m * 2 ^ (e - ulp).toNat
  let rem := if e ≤ ulp then m % 2 ^ shift else 0
  let q := if roundsUp r neg q rem shift sticky then q + 1 else q
  if top < emin then q else ((top + f.bias).toNat - 1) * 2 ^ f.frac + q

/-- The pattern of a magnitude with a sign, rounded once (R270, R276). -/
def Format.round (f : Format) (r : Rounding) (neg : Bool) (m : Nat) (e : Int) (sticky : Bool) : Nat :=
  if m = 0 && !sticky then f.signed neg 0
  else
    let code := f.magnitude r neg m e sticky
    f.signed neg (if f.maxFinite < code then f.overflow r neg else code)

/-- A value rounded into a format (R270, R277). -/
def Format.ofNum (f : Format) (r : Rounding) (x : Num) : Nat :=
  match x with
  | .nan => f.nanCode
  | .inf neg => f.signed neg f.infCode
  | .fin neg m e => f.round r neg m e false

/-- A signed integer times 2^e; a zero takes the given sign. -/
def numOfInt (zeroNeg : Bool) (v e : Int) : Num :=
  if v = 0 then .fin zeroNeg 0 0 else .fin (decide (v < 0)) v.natAbs e

/-- The signed significand of a finite value. -/
def signedOf (neg : Bool) (m : Nat) : Int := if neg then -(m : Int) else m

/-- Exact sum; an exact zero sum of opposite signs is +0, or -0 toward minus infinity (R270). -/
def Num.add (mode : Nat) (x y : Num) : Num :=
  match x, y with
  | .nan, _ => .nan
  | _, .nan => .nan
  | .inf a, .inf b => if a = b then .inf a else .nan
  | .inf a, _ => .inf a
  | _, .inf b => .inf b
  | .fin a m e, .fin b n f =>
    let g := min e f
    let v := signedOf a m * 2 ^ (e - g).toNat + signedOf b n * 2 ^ (f - g).toNat
    numOfInt (if a = b then a else decide (mode = 3)) v g

/-- A quotient rounded once. -/
def Format.quotient (f : Format) (r : Rounding) (x y : Num) : Nat :=
  match x, y with
  | .nan, _ => f.nanCode
  | _, .nan => f.nanCode
  | .inf _, .inf _ => f.nanCode
  | .inf a, .fin b _ _ => f.signed (a != b) f.infCode
  | .fin a _ _, .inf b => f.signed (a != b) 0
  | .fin a m e, .fin b n g =>
    if n = 0 then (if m = 0 then f.nanCode else f.signed (a != b) f.infCode)
    else
      let k := bitLength n + f.frac + 3 - bitLength m
      f.round r (a != b) (m * 2 ^ k / n) (e - g - k) (decide (m * 2 ^ k % n ≠ 0))

/-- The value with its sign changed. -/
def Num.neg (x : Num) : Num :=
  match x with
  | .nan => .nan
  | .inf a => .inf !a
  | .fin a m e => .fin (!a) m e

/-- Exact product. -/
def Num.mul (x y : Num) : Num :=
  match x, y with
  | .nan, _ => .nan
  | _, .nan => .nan
  | .inf a, .inf b => .inf (a != b)
  | .inf a, .fin b n _ => if n = 0 then .nan else .inf (a != b)
  | .fin a m _, .inf b => if m = 0 then .nan else .inf (a != b)
  | .fin a m e, .fin b n f => .fin (a != b) (m * n) (e + f)

/-- A value times 2^k. -/
def Num.scale (x : Num) (k : Int) : Num :=
  match x with
  | .fin a m e => .fin a m (e + k)
  | x => x

/-- Order of two values that are not NaN: x < y. -/
def Num.lt (x y : Num) : Bool :=
  match x, y with
  | .nan, _ => false
  | _, .nan => false
  | .inf a, .inf b => a && !b
  | .inf a, .fin .. => a
  | .fin .., .inf b => !b
  | .fin a m e, .fin b n f =>
    let g := min e f
    decide (signedOf a m * 2 ^ (e - g).toNat < signedOf b n * 2 ^ (f - g).toNat)

/-- Equality of values: the zeros are equal, a NaN equals nothing. -/
def Num.eq (x y : Num) : Bool :=
  match x, y with
  | .nan, _ => false
  | _, .nan => false
  | x, y => !x.lt y && !y.lt x

def Num.isNan (x : Num) : Bool := x == .nan

/-- The value is a zero. -/
def Num.isZero (x : Num) : Bool :=
  match x with
  | .fin _ m _ => m == 0
  | _ => false

/-- A subnormal pattern (R271). -/
def Format.subnormal (f : Format) (x : Nat) : Bool :=
  decide (x / 2 ^ f.frac % 2 ^ f.exp = 0) && decide (x % 2 ^ f.frac ≠ 0)

/-- A subnormal pattern becomes zero of the same sign while the flush flag is set (R271). -/
def Format.flush (f : Format) (ftz : Bool) (x : Nat) : Nat :=
  if ftz && f.subnormal x then f.signed (x.testBit (f.frac + f.exp)) 0 else x

/-- An operand as an operation under FTZ reads it. -/
def Format.read (f : Format) (ftz : Bool) (x : Nat) : Num := f.decode (f.flush ftz x)

/-- A result rounded once and flushed after rounding (R270, R271). -/
def Format.result (f : Format) (ftz : Bool) (r : Rounding) (x : Num) : Nat := f.flush ftz (f.ofNum r x)

/-- binary32 addition to nearest-even, as atomics and matrix sums make it (R108, R283). -/
def fadd32 (x y : Nat) : Nat := fp32.ofNum nearestEven (Num.add 0 (fp32.decode x) (fp32.decode y))

/-- A value rounded to an integer, clamped to a range: NaN gives 0 (R277). -/
def Num.toIntSat (x : Num) (r : Rounding) (lo hi : Int) : Int :=
  match x with
  | .nan => 0
  | .inf neg => if neg then lo else hi
  | .fin neg m e =>
    let shift := (-e).toNat
    let q := if 0 ≤ e then m * 2 ^ e.toNat else m / 2 ^ shift
    let rem := if 0 ≤ e then 0 else m % 2 ^ shift
    let q := if roundsUp r neg q rem shift false then q + 1 else q
    let v := signedOf neg q
    if v < lo then lo else if hi < v then hi else v

/-- The generator's step (R276). -/
def srgenStep (x : BitVec 32) : BitVec 32 :=
  let x := x ^^^ (x <<< 13)
  let x := x ^^^ (x >>> 17)
  x ^^^ (x <<< 5)

/-- The draw of element E from the stepped state (R276). -/
def srDraw (x : BitVec 32) (e : Nat) : Nat :=
  let r := x ^^^ (BitVec.ofNat 32 (e + 1) * 0x9E3779B9#32)
  let r := r ^^^ (r >>> 16)
  let r := r * 0x85EBCA6B#32
  (r ^^^ (r >>> 13)).toNat

end Sys2Proof.Machine
end

