-- ==== Sys2Proof/Machine/Geometry.lean ====
section
/-!
DEFINITION. Where addresses lie: the two tiers and the register space (R27), stripes, units and members of the parity
groups (R54 to R57), blocks of the LPDDR tier (R45, R46), and which lines are poisoned (R65, R66, R434).
-/

namespace Sys2Proof.Machine

def hbmTop : Nat := 0x00B000000000
def lpddrBase : Nat := 0x100000000000
def lpddrTop : Nat := 0x13C000000000
def regBase : Nat := 0x000F000000000000
def regTop : Nat := 0x000F000100000000

/-- HBM4E tier (R27). -/
def inHbm (pa : Nat) : Bool := decide (pa < hbmTop)

/-- LPDDR tier's logical space (R27). -/
def inLpddr (pa : Nat) : Bool := decide (lpddrBase ≤ pa) && decide (pa < lpddrTop)

def inTiers (pa : Nat) : Bool := inHbm pa || inLpddr pa

/-- Device register space (R27). -/
def inRegs (pa : Nat) : Bool := decide (regBase ≤ pa) && decide (pa < regTop)

/-- Logical block of a physical address (R28). -/
def lbnOf (pa : Nat) : Nat := (pa - lpddrBase) / 4096

/-! ### Stripes -/

/-- Data units of a stripe (R56, R57). -/
def stripeData (lpddr : Bool) : Nat := if lpddr then 15 else 11

/-- Members of a group. -/
def groupSize (lpddr : Bool) : Nat := if lpddr then 16 else 12

/-- Stripes of a group. -/
def stripeCount (lpddr : Bool) : Nat := if lpddr then 2 ^ 28 else 2 ^ 27

/-- Channels of a member. -/
def memberChannels (lpddr : Bool) : Nat := if lpddr then 4 else 32

/-- Index i of PAR_STATE for a member of a group (R75): stacks 0-11, packages 12-27. -/
def parIndex (lpddr : Bool) (member : Nat) : Nat := if lpddr then 12 + member else member

/-- Parity member of a stripe. -/
def parityMember (lpddr : Bool) (n : Nat) : Nat := n % groupSize lpddr

/-- Member that holds data unit d of a stripe. -/
def dataMember (lpddr : Bool) (n d : Nat) : Nat := (n % groupSize lpddr + 1 + d) % groupSize lpddr

/-- Channel of a stripe within each member (R56, R57). -/
def stripeChannel (lpddr : Bool) (n : Nat) : Nat :=
  if lpddr then Nat.xor (n % 4) (n / 4 % 4) else Nat.xor (n % 32) (n / 32 % 32)

/-- Stripe and data unit of a byte address of the group: hpa, or the sector-space address. -/
def stripeOf (lpddr : Bool) (a : Nat) : Nat := a / 512 / stripeData lpddr
def unitOf (lpddr : Bool) (a : Nat) : Nat := a / 512 % stripeData lpddr

/-- Group address of an offset within data unit d of stripe n. -/
def unitAddress (lpddr : Bool) (n d off : Nat) : Nat := (n * stripeData lpddr + d) * 512 + off

/-- Offset of a byte address within its member (soff), and within its channel (coff) (R56, R57). -/
def stackOffset (lpddr : Bool) (a : Nat) : Nat := stripeOf lpddr a * 512 + a % 512
def channelOffset (lpddr : Bool) (a : Nat) : Nat := stripeOf lpddr a / memberChannels lpddr * 512 + a % 512

/-- The member that holds a byte address. -/
def memberOf (lpddr : Bool) (a : Nat) : Nat := dataMember lpddr (stripeOf lpddr a) (unitOf lpddr a)

/-- HBM-side slice of an address: 32 x dst + ch (R56). -/
def hbmSlice (hpa : Nat) : Nat :=
  32 * dataMember false (stripeOf false hpa) (unitOf false hpa) + stripeChannel false (stripeOf false hpa)

/-- LPDDR-side slice that owns a block (R45). -/
def lpddrSlice (lbn : Nat) : Nat := Nat.xor (lbn % 64) (lbn / 64 % 64)

/-- Global channel number of a member and channel (R76). -/
def channelNumber (lpddr : Bool) (member ch : Nat) : Nat :=
  if lpddr then 384 + 4 * member + ch else 32 * member + ch

/-! ### Stops (R78) and the traffic between them -/

/-- Die and stop of a core (R78); management cores stand at stop 17 of XD0. -/
def coreStop (core : Nat) : Nat × Nat :=
  if core < 544 then (coreDie core, coreClu core) else (6, 17)

/-- Input port of a core at its stop: 16 plus its position (R98). -/
def corePort (core : Nat) : Nat := 16 + corePos core % 8

/-- Die and stop of the slice that owns a physical address (R54, R78). -/
def sliceStop (pa : Nat) : Nat × Nat :=
  if inLpddr pa then (6 + lpddrSlice (lbnOf pa) / 32, lpddrSlice (lbnOf pa) % 32 / 4)
  else (hbmSlice pa / 96, 14 + hbmSlice pa % 96 / 4)

/-- Position of that slice in its group of four. -/
def slicePos (pa : Nat) : Nat :=
  if inLpddr pa then lpddrSlice (lbnOf pa) % 4 else hbmSlice pa % 4

/-- Sectors of 32 bytes that a range touches (R70, R80). -/
def sectorsOf (pa n : Nat) : Nat := if n = 0 then 0 else (pa + n - 1) / 32 - pa / 32 + 1

/-- Stop from which a die's page walkers read: the management complex's on XD0, else the die's stop 0 (log entry 18). -/
def walkerStop (die : Nat) : Nat × Nat := if die = 6 then (6, 17) else (die, 0)

/-- Die and stop of a fabric port, its input port there (log entry 156), and those of the host port and the management complex;
stops of a guide die's binning unit and of its resolvers (R78). -/
def portStop (port : Nat) : Nat × Nat := (6 + port / 72, 8 + port % 72 / 8)
def portInput (port : Nat) : Nat := 16 + port % 8
def hostStop : Nat × Nat := (6, 17)
def binningStop (gd : Nat) : Nat × Nat := (4 + gd % 2, 6)
def resolverStop (gd : Nat) : Nat × Nat := (4 + gd % 2, 7)

/-- A field of a header at its lowest bit, of its width. -/
def headerField (lo width v : Nat) : Nat := v % 2 ^ width * 2 ^ lo

def State.modNet (s : State) (f : Net → Net) : State := { s with net := f s.net }

/-- A packet of an access enters the network at the next tick. -/
def State.parcel (s : State) (p : Parcel) : State := s.modNet fun n => { n with outbox := n.outbox ++ [p] }

/-- Group tag of a stream's requests from a core (R70). -/
def State.tagOf (s : State) (core : Nat) (id : StreamId) : Nat :=
  let w := coreIdWord core
  let slot := match id.owner with
    | .job j => ((s.job j).map fun x => x.slot).getD 0
    | .mgmt _ => 0
  headerField 6 6 (Nat.xor (natBits w 5 0) (natBits w 11 6)) + headerField 4 2 slot + headerField 0 4 id.strm

/-- A request of a core's stream to the slice of an address: class 0 reads, 2 writes (R81). -/
def coreParcel (s : State) (cls core : Nat) (id : StreamId) (pa len slack sect : Nat) : Parcel :=
  ⟨cls, pa, len, slack, s.tagOf core id, sect, coreStop core, sliceStop pa, corePort core, [id]⟩

/-- Stop of the agent before a channel of a group (R54, R55): the HBM-side slice, or the sector agent. -/
def agentStop (lpddr : Bool) (member ch : Nat) : Nat × Nat :=
  if lpddr then (6 + (4 * member + ch) / 32, (4 * member + ch) % 32 / 4)
  else ((32 * member + ch) / 96, 14 + (32 * member + ch) % 96 / 4)

/-- What agents of a stripe send each other: a delta or a request for a reconstruction, with SLACK 0 (R81, R83). -/
def agentParcel (lpddr : Bool) (n len from_ to_ : Nat) : Parcel :=
  let ch := stripeChannel lpddr n
  ⟨6, 0, len, 0, 0, 0, agentStop lpddr from_ ch, agentStop lpddr to_ ch, 16, []⟩

/-! ### Losses (R62 to R65) -/

/-- A channel of a member, by its PAR_STATE index, is lost. -/
def State.channelLost (s : State) (i ch : Nat) : Bool :=
  bitOf (s.reg (parState i)) (32 + ch) || s.field (parState i) 1 0 == 2

/-- The unit of a member in a stripe is lost. -/
def State.unitLost (s : State) (lpddr : Bool) (n member : Nat) : Bool :=
  s.channelLost (parIndex lpddr member) (stripeChannel lpddr n)

/-- Lost units of a stripe, parity included. -/
def State.stripeLosses (s : State) (lpddr : Bool) (n : Nat) : Nat :=
  ((List.range (groupSize lpddr)).filter fun m => s.unitLost lpddr n m).length

/-- A line cannot be read from its unit as it is: the channel is lost or is being entered, or the unit errs (R63, R64, R67). -/
def State.lineAway (s : State) (lpddr : Bool) (a : Nat) : Bool :=
  let i := parIndex lpddr (memberOf lpddr a)
  let ch := stripeChannel lpddr (stripeOf lpddr a)
  s.channelLost i ch || s.dram.entering.contains (i, ch) || s.dram.erring.contains (lpddr, a / 128)

/-- The data unit at a group address is lost together with another unit of its stripe (R65). -/
def State.unrecoverable (s : State) (lpddr : Bool) (a : Nat) : Bool :=
  let n := stripeOf lpddr a
  s.unitLost lpddr n (dataMember lpddr n (unitOf lpddr a)) && decide (2 ≤ s.stripeLosses lpddr n)

/-- A line of a group is unrecoverable: by its members' losses, or recorded so (R65, R67, R434). -/
def State.lineLost (s : State) (lpddr : Bool) (a : Nat) : Bool :=
  s.unrecoverable lpddr a ||
    (if lpddr then s.dram.lostSectorLines.contains (a / 128) else s.mm.poison.contains (a / 128))

/-- A line of the sector space is unrecoverable. -/
def State.sectorLineLost (s : State) (lsa : Nat) : Bool := s.lineLost true lsa

/-! ### The LPDDR tier -/

/-- A block map entry (R46), which lies at byte LBN x 8 of the sector space (R45). -/
def State.mapEntry (s : State) (lbn : Nat) : BitVec 64 :=
  BitVec.ofNat 64 (cellsNat s.dram.dataL (8 * lbn) 8)

/-- Fields of a block map entry (R46). -/
def mapV (e : BitVec 64) : Bool := bitOf e 63
def mapZ (e : BitVec 64) : Bool := bitOf e 62
def mapU (e : BitVec 64) : Bool := bitOf e 61
def mapCount (e : BitVec 64) : Nat := if mapU e then 16 else bitsOf e 36 33 + 1
def mapSector (e : BitVec 64) : Nat := bitsOf e 32 0

/-- First physical line of a block. -/
def blockLine (lbn : Nat) : Nat := (lpddrBase + 4096 * lbn) / 128

/-- The block is committed (R46 V). -/
def State.committed (s : State) (lbn : Nat) : Bool := bitOf (s.mapEntry lbn) 63

/-- An access reaches a block with V = 0 (R47). -/
def State.noteUncommitted (s : State) (lbn : Nat) : State :=
  (s.raise memEvt 4).setField (memReg 0x040) 29 0 lbn

/-- The physical address lies in an uncommitted block of the LPDDR tier. -/
def State.uncommittedAt (s : State) (pa : Nat) : Bool := inLpddr pa && !s.committed (lbnOf pa)

/-- The lines of the sector space that a read of an LPDDR line touches (R47): the sector that holds it, or the whole run of a
compressed block. -/
def State.runLines (s : State) (pa : Nat) : List Nat :=
  let e := s.mapEntry (lbnOf pa)
  if !mapV e || mapZ e then []
  else if mapU e then (List.range 2).map fun k => 256 * mapSector e + pa % 4096 / 256 * 256 + 128 * k
  else (List.range (2 * mapCount e)).map fun k => 256 * mapSector e + 128 * k

/-- The lines of DRAM, by group and address, that a fill of a line reads: in the LPDDR tier that of the block's map entry, unless
the slice's map cache holds it, and those of its run (R47). -/
def State.dramLines (s : State) (pa : Nat) : List (Bool × Nat) :=
  if inHbm pa then [(false, pa / 128 * 128)]
  else if inLpddr pa then
    (if s.dram.mapCache.contains (lbnOf pa) then [] else [(true, 8 * lbnOf pa / 128 * 128)]) ++
      (s.runLines pa).map fun a => (true, a)
  else []

/-- A line's slice holds it (R54). -/
def State.linePresent (s : State) (line : Nat) : Bool := s.mm.l2.contains line || s.mm.dirty.contains line

/-- A fill of the line must wait until lines of DRAM have been reconstructed (R61, R63, R64, R67), or, in a stripe with a lost
member, have been read: an error met there loses them (R67). -/
def State.mustRebuild (s : State) (pa : Nat) : Bool :=
  !s.linePresent (pa / 128) && (s.dramLines pa).any fun x =>
    (s.lineAway x.1 x.2 || decide (1 ≤ s.stripeLosses x.1 (stripeOf x.1 x.2))) && !s.lineLost x.1 x.2 &&
      !s.dram.rebuilt.contains (x.1, x.2 / 128)

/-- Channel that serves a line of a group. -/
def lineChannel (x : Bool × Nat) : Nat :=
  channelNumber x.1 (memberOf x.1 x.2) (stripeChannel x.1 (stripeOf x.1 x.2))

/-- The channels that a fill of a line reads at, each with the number of its 256-byte sectors of the sector space there; of an
HBM4E line, one sector (R70, R71). -/
def State.fillChannels (s : State) (pa : Nat) : List (Nat × Nat) :=
  let xs := s.dramLines pa
  ((xs.map lineChannel).eraseDups).map fun ch =>
    (ch, (((xs.filter fun x => lineChannel x == ch).map fun x => x.2 / 256).eraseDups).length)

/-- A physical line (address divided by 128) is poisoned (R65, R66, R434). -/
def State.poisonedLine (s : State) (line : Nat) : Bool :=
  s.mm.poison.contains line ||
    (if inHbm (128 * line) then s.unrecoverable false (128 * line)
     else inLpddr (128 * line) && s.sectorLineLost (8 * lbnOf (128 * line)))

end Sys2Proof.Machine
end

