-- ==== Sys2Proof/Machine/Slices.lean ====
section
/-!
DEFINITION. Accesses performed at the L2 slices and at the host (R47, R54, R66, R118, R119, R215), the line monitors that
they fire (R311), and the caches above: write-combining buffers, L1 and cluster caches (R215, R225, R227, R220, R221).

A location is a number: a device physical address, or 2^52 plus a host physical address. Bytes held clean or dirty above
the slices stand in tables under core x 2^54 + location, or cluster x 2^54 + location.
-/

namespace Sys2Proof.Machine

def hostLoc : Nat := 2 ^ 52
def cacheStride : Nat := 2 ^ 54

/-! ### Slices and the host -/

/-- A byte list cut at the 128-byte lines, each piece with its address. -/
def splitLines (fuel a : Nat) (bs : List Byte) : List (Nat × List Byte) :=
  match fuel with
  | 0 => []
  | fuel + 1 =>
    match bs with
    | [] => []
    | _ =>
      let k := 128 - a % 128
      (a, bs.take k) :: splitLines fuel (a + k) (bs.drop k)

/-- Bytes that cluster caches hold dirty from atomics give way to a later write of the same location (R227): the atomic's
returned value came before it. -/
def State.overtake (s : State) (loc n : Nat) : State :=
  let stands (k : Nat) : Bool := decide (loc ≤ k % cacheStride) && decide (k % cacheStride < loc + n) && s.mm.cluAtomic.contains k
  if s.mm.cluAtomic.isEmpty then s
  else
    { s with mm := { s.mm with
        cluDirty := s.mm.cluDirty.filter fun e => !stands e.1, cluAtomic := s.mm.cluAtomic.filter fun k => !stands k } }

/-- Bytes of a write within one line at their slice (R47, R66, R311): a poisoned line or an uncommitted block discards them. -/
def sliceBytes (s : State) (pa : Nat) (bs : List Byte) : State :=
  if s.poisonedLine (pa / 128) then s
  else if s.uncommittedAt pa then s.noteUncommitted (lbnOf pa)
  else
    let s := s.overtake pa bs.length
    let s := { s with mm := { s.mm with mem := cellsSet s.mm.mem pa bs } }
    (s.markDirty (pa / 128)).fireLine (pa / 128)

/-- So many writes to poisoned lines are counted (R66). -/
def State.countLost (s : State) (n : Nat) : State := if n = 0 then s else s.count (parReg 0x048) 48 n

/-- A write within one line at its slice; one to a poisoned line is counted (R66). -/
def sliceWriteLine (s : State) (pa : Nat) (bs : List Byte) : State :=
  sliceBytes (s.countLost (if s.poisonedLine (pa / 128) then 1 else 0)) pa bs

/-- A write at the slices. -/
def sliceWrite (s : State) (pa : Nat) (bs : List Byte) : State :=
  (splitLines (bs.length + 1) pa bs).foldl (fun s p => sliceWriteLine s p.1 p.2) s

/-- The CMP bit of the leaf that a write to the LPDDR tier went through stays with its block (R48); a write through
no leaf leaves it (log entry 167). -/
def State.noteCmp (s : State) (pa : Nat) (cmp : Bool) : State :=
  if inLpddr pa then
    let rest := s.mm.plainBlocks.filter fun b => b ≠ lbnOf pa
    { s with mm := { s.mm with plainBlocks := if cmp then rest else lbnOf pa :: rest } }
  else s

/-- Bytes at the slices; an uncommitted block reads zeros (R47). -/
def sliceRead (s : State) (pa n : Nat) : List Byte := cellsGet s.mm.mem pa n

/-- A read of some sectors of a line at its slice, for a group with its tag and SECT (R47, R54, R70): one that misses an uncommitted
block is noted; any other that misses starts a fill. -/
def State.readLine (s : State) (tag sect own pa : Nat) : State :=
  if !inTiers pa || s.linePresent (pa / 128) then s
  else if s.uncommittedAt pa then s.noteUncommitted (lbnOf pa)
  else
    { s with mm := { s.mm with l2 := s.mm.l2 ++ [pa / 128] } }.event .sliceRequest
      { slice := .read pa own, flag := true, a := tag, b := sect }

/-- A read of some sectors by an agent that has no group tag. -/
def State.noteRead (s : State) (pa own : Nat) : State := s.readLine 0 own own pa

/-- A little-endian number at the slices. -/
def State.sliceNat (s : State) (pa n : Nat) : Nat := leNat (sliceRead s pa n)

/-- Any line of a range is poisoned. -/
def State.poisonedAt (s : State) (pa n : Nat) : Bool :=
  (List.range ((pa + n - 1) / 128 - pa / 128 + 1)).any fun k => s.poisonedLine (pa / 128 + k)

/-- The host holds a line under bias (R119). -/
def State.hostHolds (s : State) (pa : Nat) : Bool := s.sys.cxl.snoop.contains (pa / 128)

/-- A snoop goes to the host for a line, and the host's answer comes later (R119). -/
def State.snoopHost (s : State) (pa : Nat) (inv : Bool) : State :=
  if s.sys.cxl.pendingBi.contains (pa / 128, inv) then s
  else
    { s with sys := { s.sys with cxl := { s.sys.cxl with pendingBi := s.sys.cxl.pendingBi ++ [(pa / 128, inv)] } } }.event
      .biResponse { a := pa / 128, flag := inv }

/-- BISnpInv, for a write or an atomic; BISnpData, for a read. -/
def State.backInvalidate (s : State) (pa : Nat) : State := s.snoopHost pa true
def State.backRead (s : State) (pa : Nat) : State := s.snoopHost pa false

/-- A read or an atomic of a line must wait: for the host's answer (R119), or for its reconstruction (R64). -/
def State.readHeld (s : State) (pa : Nat) : Bool := s.hostHolds pa || s.mustRebuild pa

/-- What such a line waits for is asked: of the host, or of DRAM, for a group and so many sectors. -/
def State.askLine (s : State) (pa tag own : Nat) (inv : Bool) : State :=
  if s.hostHolds pa then s.snoopHost pa inv
  else s.event .sliceRequest { slice := .read pa own, flag := true, a := tag, b := own }

/-- A write to host memory from the device (R215, R311). -/
def hostWrite (s : State) (hpa : Nat) (bs : List Byte) : State :=
  let s := s.overtake (hostLoc + hpa) bs.length
  let s := { s with mm := { s.mm with hostMem := cellsSet s.mm.hostMem hpa bs } }
  (splitLines (bs.length + 1) (hostLoc + hpa) bs).foldl (fun s p => s.fireLine (p.1 / 128)) s

/-- A write at the point behind the caches: the owning slice, or the host. -/
def pointWrite (s : State) (loc : Nat) (bs : List Byte) : State :=
  if loc < hostLoc then sliceWrite s loc bs else hostWrite s (loc - hostLoc) bs

/-- The same for a part of a write, which is counted where the whole of it is known. -/
def pointBytes (s : State) (loc : Nat) (bs : List Byte) : State :=
  if loc < hostLoc then sliceBytes s loc bs else hostWrite s (loc - hostLoc) bs

/-- Bytes at the point behind the caches. -/
def pointRead (s : State) (loc n : Nat) : List Byte :=
  if loc < hostLoc then sliceRead s loc n else cellsGet s.mm.hostMem (loc - hostLoc) n

/-! ### Caches above the slices -/

/-- A clean copy of a byte in a core's L1, or in a cluster cache, is dropped. -/
def State.dropL1 (s : State) (core loc : Nat) : State :=
  { s with mm := { s.mm with l1Clean := tableErase s.mm.l1Clean (core * cacheStride + loc) } }

def State.dropClu (s : State) (clu loc : Nat) : State :=
  { s with mm := { s.mm with cluClean := tableErase s.mm.cluClean (clu * cacheStride + loc) } }

/-- A byte that the cluster cache holds dirty. -/
def State.cluDirtyAt (s : State) (clu loc : Nat) : Option Byte :=
  tableFind s.mm.cluDirty (clu * cacheStride + loc)

/-- A byte written dirty into a cluster cache, by a store or by an atomic, through a leaf with a CMP bit. -/
def State.putDirty (s : State) (clu loc : Nat) (b : Byte) (atomic cmp : Bool) : State :=
  let key := clu * cacheStride + loc
  let others := s.mm.cluAtomic.filter fun k => k != key
  let plain := s.mm.cluPlain.filter fun l => l != key / 128
  { s with mm := { s.mm with
      cluDirty := tablePut s.mm.cluDirty key b, cluAtomic := if atomic then key :: others else others,
      cluPlain := if cmp then plain else key / 128 :: plain } }

/-- A device write to a byte of the host's memory fires the monitors on its line, wherever it performs (R311). -/
def State.fireHostLine (s : State) (loc : Nat) : State := if loc < hostLoc then s else s.fireLine (loc / 128)

/-- A buffered store reaches its point of performance (R215, R225): the cluster cache for .clu and narrower; else the
slice or the host, updating a copy that the cluster cache holds dirty. -/
def drainByte (s : State) (b : WcByte) : State :=
  let clu := coreCluster b.core
  let s := (s.dropL1 b.core b.loc).dropClu clu b.loc
  if b.scope ≤ 2 then (s.putDirty clu b.loc b.byte false b.cmp).fireHostLine b.loc
  else
    let s := if (s.cluDirtyAt clu b.loc).isSome then s.putDirty clu b.loc b.byte false b.cmp else s
    pointBytes (s.noteCmp b.loc b.cmp) b.loc [b.byte]

/-- A store whose line the host holds must wait for the host's answer (R119). -/
def drainBlocked (s : State) (b : WcByte) : Bool :=
  decide (2 < b.scope) && decide (b.loc < hostLoc) && s.hostHolds b.loc

/-- The stores among some bytes that their slices discard (R66): one of a line is of one stream and cycle. -/
def State.storesLost (s : State) (bs : List WcByte) : Nat :=
  ((bs.filter fun b => decide (2 < b.scope) && decide (b.loc < hostLoc) && s.poisonedLine (b.loc / 128)).map fun b =>
    (b.strm, b.cycle, b.loc / 128)).eraseDups.length

/-- The stores that leave a core for the slices travel as packets of class 2, one for each line of a stream and cycle, with as many
data beats as halves of the line that it writes (R80, R81). -/
def writeParcels (s : State) (bs : List WcByte) : State :=
  let far := bs.filter fun b => decide (2 < b.scope) && decide (b.loc < hostLoc)
  let keys := (far.map fun b => (b.core, b.strm, b.slack, b.cycle, b.loc / 128)).eraseDups
  keys.foldl
    (fun s k =>
      let mine := far.filter fun b => decide ((b.core, b.strm, b.slack, b.cycle, b.loc / 128) = k)
      let halves := (mine.map fun b => b.loc / 64).eraseDups.length
      let sect := (mine.map fun b => b.loc / 32).eraseDups.length
      s.parcel (coreParcel s 2 k.1 k.2.1 (128 * k.2.2.2.2) halves k.2.2.1 sect)) s

/-- One byte of a buffer drained, or left in it behind a back-invalidation. -/
def drainStep (s : State) (b : WcByte) : State :=
  if drainBlocked s b || s.mm.wcb.any (fun x => x.core == b.core && x.loc == b.loc) then
    { s with mm := { s.mm with wcb := s.mm.wcb ++ [b] } }.backInvalidate b.loc
  else drainByte s b

/-- The bytes of a core's write-combining buffer that a predicate picks drain, oldest first. -/
def drainWhere (s : State) (core : Nat) (p : WcByte → Bool) : State :=
  let mine (b : WcByte) : Bool := b.core == core && p b
  let go := s.mm.wcb.filter mine
  let t := go.foldl drainStep { s with mm := { s.mm with wcb := s.mm.wcb.filter fun b => !mine b } }
  let gone := go.filter fun b => !t.mm.wcb.contains b
  writeParcels (t.countLost (t.storesLost gone)) gone

/-- A core's whole write-combining buffer drains. -/
def drainCore (s : State) (core : Nat) : State := drainWhere s core fun _ => true

/-- A dirty byte of a cluster cache goes to its point, with the CMP bit of its line. -/
def writeBackByte (s : State) (key : Nat) (b : Byte) : State :=
  let s := s.noteCmp (key % cacheStride) (!s.mm.cluPlain.contains (key / 128))
  pointBytes { s with mm := { s.mm with
      cluDirty := tableErase s.mm.cluDirty key, cluAtomic := s.mm.cluAtomic.filter fun k => k != key } } (key % cacheStride) [b]

/-- Bytes of a location that other cluster caches hold dirty from an atomic are written back before a further atomic performs
there: one of two atomics comes first, and the other returns its result (R227, R229; log entry 184). -/
def State.settleAtomics (s : State) (loc n : Nat) (clu : Option Nat) : State :=
  (s.mm.cluAtomic.filter fun k =>
    decide (loc ≤ k % cacheStride) && decide (k % cacheStride < loc + n) && clu != some (k / cacheStride)).foldl
    (fun s k => match tableFind s.mm.cluDirty k with
      | some b => writeBackByte s k b
      | none => s) s

/-- The dirty bytes of a cluster cache that a predicate picks are written back to their points. -/
def writeBackWhere (s : State) (clu : Nat) (p : Nat → Bool) : State :=
  let picked := s.mm.cluDirty.filter fun e =>
    e.1 / cacheStride == clu && p (e.1 % cacheStride) &&
      !(decide (e.1 % cacheStride < hostLoc) && s.hostHolds (e.1 % cacheStride))
  let lost := ((picked.map fun e => e.1 % cacheStride / 128).filter fun l =>
    decide (l < hostLoc / 128) && s.poisonedLine l).eraseDups.length
  let lines := ((picked.map fun e => e.1 % cacheStride / 128).filter fun l => decide (l < hostLoc / 128)).eraseDups
  let t := picked.foldl (fun s e => writeBackByte s e.1 e.2) (s.countLost lost)
  lines.foldl (fun s l =>
    let sect := ((picked.filter fun e => e.1 % cacheStride / 128 == l).map fun e => e.1 % cacheStride / 32).eraseDups.length
    s.parcel ⟨2, 128 * l, 2, 0, 0, sect, coreStop (min (8 * clu) 544), sliceStop (128 * l), 16, []⟩) t

/-- Every dirty line of a cluster cache is written back (R220). -/
def writeBackCluster (s : State) (clu : Nat) : State :=
  let held := s.mm.cluDirty.filter fun e =>
    e.1 / cacheStride == clu && decide (e.1 % cacheStride < hostLoc) && s.hostHolds (e.1 % cacheStride)
  writeBackWhere (held.foldl (fun s e => s.backInvalidate (e.1 % cacheStride)) s) clu fun _ => true

/-- The clean lines of a core's L1 are invalidated. -/
def invalidateL1 (s : State) (core : Nat) : State :=
  { s with mm := { s.mm with l1Clean := s.mm.l1Clean.filter fun e => e.1 / cacheStride ≠ core } }

/-- The clean lines of a cluster cache are invalidated. -/
def invalidateClu (s : State) (clu : Nat) : State :=
  { s with mm := { s.mm with cluClean := s.mm.cluClean.filter fun e => e.1 / cacheStride ≠ clu } }

/-- What a release at a scope performs for a core (R220): its buffer drains; at .die or wider the dirty lines of its
cluster cache are written back. -/
def releaseAt (s : State) (core scope : Nat) : State :=
  if scope ≤ 1 then s
  else if scope = 2 then drainCore s core
  else writeBackCluster (drainCore s core) (coreCluster core)

/-- A release at a scope has nothing left to wait for above the slices (R119 holds lines back). -/
def releasedAt (s : State) (core scope : Nat) : Bool :=
  decide (scope ≤ 1) ||
    (!s.mm.wcb.any (fun b => b.core == core) &&
      (decide (scope = 2) || !s.mm.cluDirty.any fun e => e.1 / cacheStride == coreCluster core))

/-- What an acquire at a scope invalidates for a core (R221). -/
def acquireAt (s : State) (core scope : Nat) : State :=
  if scope ≤ 1 then s
  else if scope = 2 then invalidateL1 s core
  else invalidateClu (invalidateL1 s core) (coreCluster core)

/-- The newest byte that a core's buffer holds for a location. -/
def wcbNewest (wcb : List WcByte) (core loc : Nat) : Option Byte :=
  wcb.foldl (fun r b => if b.core == core && b.loc == loc then some b.byte else r) none

/-- A byte that a load at a scope finds above the slice (R215, R218): what its core's buffer or its cluster cache holds
dirty; a clean L1 copy at .core and narrower, a clean cluster copy at .clu and narrower. -/
def cachedByte (s : State) (core scope loc : Nat) : Option Byte :=
  let clu := coreCluster core
  (wcbNewest s.mm.wcb core loc).or <|
    (if scope ≤ 1 then tableFind s.mm.l1Clean (core * cacheStride + loc) else none).or <|
      (s.cluDirtyAt clu loc).or <|
        if scope ≤ 2 then tableFind s.mm.cluClean (clu * cacheStride + loc) else none

/-- A load of one byte through the caches, which installs what it takes from the point behind them (R215). -/
def loadByte (s : State) (core scope loc : Nat) : Byte × State :=
  let clu := coreCluster core
  match wcbNewest s.mm.wcb core loc with
  | some b => (b, s)
  | none =>
    match cachedByte s core scope loc with
    | some b => (b, { s with mm := { s.mm with l1Clean := tablePut s.mm.l1Clean (core * cacheStride + loc) b } })
    | none =>
      let b := (pointRead s loc 1).headD blankByte
      (b, { s with mm := { s.mm with
              l1Clean := tablePut s.mm.l1Clean (core * cacheStride + loc) b,
              cluClean := tablePut s.mm.cluClean (clu * cacheStride + loc) b } })

/-- n bytes loaded through the caches. -/
def loadBytes (s : State) (core scope loc n : Nat) : List Byte × State :=
  match n with
  | 0 => ([], s)
  | n + 1 =>
    let (b, s) := loadByte s core scope loc
    let (bs, s) := loadBytes s core scope (loc + 1) n
    (b :: bs, s)

/-- Every byte of a range is found above the slice. -/
def allCached (s : State) (core scope loc n : Nat) : Bool :=
  (List.range n).all fun k => (cachedByte s core scope (loc + k)).isSome

/-- Stores enter the core's write-combining buffer (R215). -/
def bufferStore (s : State) (core : Nat) (id : StreamId) (scope loc : Nat) (cmp : Bool) (slack : Nat) (bs : List Byte) :
    State :=
  let cyc := s.cycleOf core
  let new := bs.zipIdx.map fun (b, k) => (⟨core, id, loc + k, b, scope, cyc, cmp, slack⟩ : WcByte)
  { s with mm := { s.mm with wcb := s.mm.wcb ++ new } }

/-! ### Capacities of the L1 and the cluster caches (R9) -/

/-- Lines of a table of bytes, numbered with the core or cluster that holds them. -/
def heldLines (t : Table Byte) : List Nat := (t.map fun e => e.1 / 128).eraseDups

/-- Lines beyond so many of their core or cluster: the lowest-numbered go first (log entry 169). -/
def beyond (cap : Nat → Nat) (lines : List Nat) : List Nat :=
  let place (l : Nat) : Nat := l / (cacheStride / 128)
  lines.filter fun l => decide (cap (place l) < (lines.filter fun x => place x == place l && decide (l ≤ x)).length)

/-- Lines of a cluster cache (R9): 4 MiB on a tile cluster, 2 MiB on a guide cluster; for the management complex, which the manual
gives no size, 2 MiB as well (the model's choice, log entry 169). -/
def clusterLines (clu : Nat) : Nat := if coreDie (8 * clu) < 4 then 32768 else 16384

/-- What the L1s and cluster caches cannot hold leaves them: clean lines are dropped, dirty ones written back. -/
def trimCaches (s : State) : State :=
  let s := if s.mm.l1Clean.length ≤ 2048 then s
    else
      let out := beyond (fun _ => 2048) (heldLines s.mm.l1Clean)
      { s with mm := { s.mm with l1Clean := s.mm.l1Clean.filter fun e => !out.contains (e.1 / 128) } }
  if s.mm.cluClean.length + s.mm.cluDirty.length ≤ 16384 then s
  else
    let out := beyond clusterLines ((heldLines s.mm.cluClean ++ heldLines s.mm.cluDirty).eraseDups)
    let s := { s with mm := { s.mm with cluClean := s.mm.cluClean.filter fun e => !out.contains (e.1 / 128) } }
    out.foldl (fun s l => writeBackWhere s (l * 128 / cacheStride) fun loc => loc / 128 == l * 128 % cacheStride / 128) s

end Sys2Proof.Machine
end

