-- ==== Sys2Proof/Machine/Network.lean ====
section
/-!
DEFINITION. The loops and links of the module: stops, routes, arbitration and links (R77 to R86, R17, R141), and
combining fetch-and-operate with its wait buffers (R98 to R113).
-/

namespace Sys2Proof.Machine

/-! ### Places (R77 to R79, R84, R17) -/

/-- Stops of a die (R78). -/
def dieStops (die : Nat) : Nat := if die < 4 then 54 else if die < 6 then 16 else 26

/-- The stops of loop a + 4b, those of groups a and b, in the order in which it visits them (R77). -/
def loopStops (die ℓ : Nat) : List Nat :=
  let up := (List.range (dieStops die)).filter fun s => s % 4 == ℓ % 4 || s % 4 == ℓ / 4
  if ℓ % 4 ≤ ℓ / 4 then up else up.reverse

/-- Where a stop stands on a loop. -/
def loopPlace (die ℓ stop : Nat) : Nat := (loopStops die ℓ).findIdx fun s => s == stop

/-- Hops from one stop of a loop to another; once round to the same. -/
def loopHops (die ℓ a b : Nat) : Nat :=
  let n := (loopStops die ℓ).length
  let d := (loopPlace die ℓ b + n - loopPlace die ℓ a) % n
  if d = 0 then n else d

/-- The loop between two stops of one die: loop (a, b) is number a + 4b (R79). -/
def loopOf (s t : Nat) : Nat :=
  let gs := s % 4
  let gt := t % 4
  if gs = gt then gs + 4 * gs
  else if s < t then min gs gt + 4 * max gs gt
  else max gs gt + 4 * min gs gt

/-- First stop of the endpoint of a die that leads to a neighbour die (R78). -/
def endpointBase (die next : Nat) : Option Nat :=
  if die < 4 then
    if next = 4 + die / 2 then some 46
    else if next = 6 + die / 2 then some 50
    else if next = Nat.xor die 1 then some 38
    else if next = Nat.xor die 2 then some 42
    else none
  else
    let n := die % 2
    let base := if die < 6 then 8 else 18
    if next = 2 * n then some base
    else if next = 2 * n + 1 then some (base + 4)
    else none

/-- The die that a packet goes to next on its fixed route (R17); where two tile dies would serve, the lower. -/
def nextDie (die dst : Nat) : Nat :=
  if die < 4 then
    if dst < 4 then
      if dst = Nat.xor die 3 then (if die = 0 || die = 3 then 1 else 0) else dst
    else if dst % 2 = die / 2 then dst
    else Nat.xor die 2
  else if dst < 4 then
    if dst / 2 = die % 2 then dst else Nat.xor dst 2
  else 2 * (die % 2)

/-- The stop of an endpoint in a group. -/
def endpointStop (base group : Nat) : Nat := base + (group + 4 - base % 4) % 4

/-- Where a packet at a stop goes next: a stop of the same die, or across the link it stands at. -/
inductive Leg where
  | here
  | loop (stop : Nat)
  | cross (die stop : Nat)
  deriving DecidableEq, Repr

/-- The next leg of a packet (R79, R84). `from_` is the input port; a packet that a loop brought to an endpoint stop crosses its
link. One that emerged from a link and goes on to another die takes the endpoint stop of group (stop + 1) mod 4 again
(log entry 157). -/
def nextLeg (die stop from_ dstDie dstStop : Nat) : Leg :=
  if die = dstDie then (if stop = dstStop then .here else .loop dstStop)
  else
    match endpointBase die (nextDie die dstDie) with
    | none => .here
    | some b =>
      if decide (from_ < 16) && decide (b ≤ stop) && decide (stop < b + 4) then
        match endpointBase (nextDie die dstDie) die with
        | some c => .cross (nextDie die dstDie) (c + (stop - b))
        | none => .here
      else .loop (endpointStop b ((stop + 1) % 4))

/-- Half of a guide die, and the quarter, that a stop belongs to (R139): clusters 0-2 and the Adit to the even tile die
are the lower half's. The stops of an I/O die are shared by all partitions and count as quarter 0's (log entry 158). -/
def stopQuarter (die stop : Nat) : Nat :=
  if die < 4 then die
  else if die < 6 then
    2 * (die - 4) + (if stop < 3 || (8 ≤ stop && stop < 12) || stop = 6 then 0 else 1)
  else 0

/-! ### Packets -/

/-- A packet by its number. -/
def State.packet (s : State) (id : Nat) : Option Packet := s.net.packets.find? fun p => p.id == id

/-- A packet taken off the network. -/
def State.dropPacket (s : State) (id : Nat) : State :=
  s.modNet fun n => { n with packets := n.packets.filter fun p => p.id ≠ id }

/-- The clock that the loops of a die run on (R20, R85). -/
def loopClock (die : Nat) : Nat := if die < 4 then die else if die < 6 then 4 + 2 * (die - 4) else 8

/-- Cycles of a die's loops. -/
def State.loopCycle (s : State) (die : Nat) : Nat := tableGet s.time.cycles (loopClock die) 0

/-- The die of a place. -/
def PacketPlace.die (x : PacketPlace) : Nat :=
  match x with
  | .injection die _ => die
  | .travelling die _ _ => die
  | .ejected die _ _ => die
  | .link die _ => die
  | .slice die _ => die
  | .ingress port => (portStop port).1

/-- A packet put at a place: it enters that queue last. -/
def State.putPacket (s : State) (p : Packet) (place : PacketPlace) : State :=
  let q := { p with place := place, since := s.loopCycle place.die }
  s.modNet fun n => { n with packets := n.packets.filter (fun q => q.id ≠ p.id) ++ [q] }

/-- A packet of a class from one stop to another, before it is sent. -/
def Packet.make (cls : Nat) (src dst : Nat × Nat) (body : PacketBody) : Packet :=
  { id := 0, cls := cls, pa := 0, txn := 0, sect := 0, gtag := 0, lap := false, slack := 0, len := 0, srcDie := src.1,
    srcStop := src.2, dstDie := dst.1, dstStop := dst.2, rsv := 0, body := body, place := .ejected src.1 src.2 16, inPort := 16,
    since := 0, hops := 0, refused := 0, strms := [], cmp := none, via := none }

/-- Bits [127:0] of a packet's header beat (R80). Its transaction's number is held whole; the tag is its low 12 bits (log
entry 159). -/
def Packet.header (p : Packet) : BitVec 128 :=
  BitVec.ofNat 128 (headerField 116 12 (p.rsv / 32) + headerField 64 52 p.pa + headerField 52 12 p.txn +
    headerField 48 4 p.sect + headerField 36 12 p.gtag + headerField 31 5 p.rsv + headerField 30 1 (natOfBool p.lap) +
    headerField 24 6 p.slack + headerField 22 2 p.len + headerField 18 4 p.cls + headerField 15 3 p.srcDie +
    headerField 9 6 p.srcStop + headerField 6 3 p.dstDie + headerField 0 6 p.dstStop)

/-- Bits [511:128] of the header beat of a fetch-and-operate request or reply (R102), from bit 128 on. -/
def Packet.content (p : Packet) : BitVec 384 :=
  match p.body with
  | .fetchOp x x2 n aop w order scope nc cmb =>
    BitVec.ofNat 384 (headerField 96 64 x2.toNat + headerField 80 16 n + headerField 76 4 aop +
      headerField 75 1 (natOfBool w) + headerField 73 2 order + headerField 70 3 scope + headerField 69 1 (natOfBool nc) +
      headerField 68 1 (natOfBool cmb) + headerField 0 64 (if w then x.toNat else x.toNat % 2 ^ 32))
  | .fetchReply status v cmb =>
    BitVec.ofNat 384 (headerField 68 1 (natOfBool cmb) + headerField 64 2 status + headerField 0 64 v.toNat)
  | _ => 0#384

/-- The class is a response (R81). -/
def isResponse (cls : Nat) : Bool := cls == 1 || cls == 3 || cls == 5 || cls == 7

/-- A request for a slice waits in its input queue (R83); one for a fabric port's stop is taken there. -/
def Packet.forSlice (p : Packet) : Bool :=
  (p.cls == 0 || p.cls == 2 || p.cls == 4 || p.cls == 6) && match p.body with
    | .fabricOut _ _ => false
    | _ => true

/-- A fetch-and-operate request of the loops, which may combine at every point that it comes to (R98). One for another module crosses
them as a message on its way to its port and combines there, in the egress queue, which compares DSTMOD (R99; log entry 180). -/
def Packet.isFetch (p : Packet) : Bool :=
  match p.body with
  | .fetchOp _ _ _ _ _ _ _ _ _ => true
  | _ => false

/-- A packet arrives at a stop on an input port and stands there until its event takes it up: FETCH_OP_ARRIVAL a fetch-and-operate
request, PACKET_EJECT any other that goes on, so that none overtakes another (R84). One of a reserved class is discarded (R81). -/
def State.arriveAt (s : State) (p : Packet) (die stop port : Nat) : State :=
  if 12 ≤ p.cls then (s.dropPacket p.id).raise (lopReg die 0x08) 0
  else s.putPacket { p with inPort := port } (.ejected die stop port)

/-- A packet enters the network at its source stop on an input port. -/
def State.enterPacket (s : State) (p : Packet) (port : Nat) : State :=
  s.nextTicket.arriveAt { p with id := s.ticket } p.srcDie p.srcStop port

/-- The packet of a parcel; its reply returns its number as the transaction tag (R80). -/
def Parcel.packet (p : Parcel) (txn : Nat) : Packet :=
  { Packet.make p.cls p.src p.dst .other with
    pa := p.pa, txn := txn, len := p.len, slack := p.slack, gtag := p.gtag, sect := p.sect, strms := p.strms }

/-- The parcels of the accesses so far enter the network (R80, R81). -/
def sendParcels (s : State) : State :=
  s.net.outbox.foldl (fun s p => s.enterPacket (p.packet s.ticket) p.port) (s.modNet fun n => { n with outbox := [] })

/-- A packet enters the network behind the parcels of the accesses before it (R83). -/
def State.sendPacket (s : State) (p : Packet) (port : Nat) : State := (sendParcels s).enterPacket p port

/-- Control traffic leaves a stop for another: what it brings about comes when it arrives (class 11, R81); between two places of one
stop it comes at once. -/
def State.sendControl (s : State) (src dst : Nat × Nat) (i : Instr) (a : EventArg) : State :=
  if src = dst then s.event i a else s.sendPacket (Packet.make 11 src dst (.control i a)) 16

/-- Stop at which a partition's part of a die has its scheduler, dispatcher and Chute: the die's stop 0, on a guide die of which it owns
only the upper half stop 3 (R139; the place is the model's, log entry 18). -/
def State.controlStop (s : State) (part die : Nat) : Nat × Nat :=
  (die, if decide (4 ≤ die) && s.ownerOf (2 * (die - 4)) != part then 3 else 0)

/-- A request of one engine queue stands behind an earlier one of that queue (R83); a combined request stands for the engine
queues of all its members. -/
def behindOwn (queue : List Packet) (p : Packet) : Bool :=
  (queue.takeWhile fun q => q.id ≠ p.id).any fun q => q.strms.any fun st => p.strms.contains st

/-- The packet that a queue serves next (R83): responses first; a request that has waited 1,024 cycles, the oldest of
these; the lowest SLACK while slack ordering is enabled; the oldest. The flag says that rule 1 chose. -/
def State.arbitrate (s : State) (die : Nat) (queue : List Packet) : Option (Packet × Bool) :=
  match queue.find? fun p => isResponse p.cls with
  | some p => some (p, false)
  | none =>
    let ready := queue.filter fun p => !behindOwn queue p
    match ready.find? fun p => decide (p.since + 1024 ≤ s.loopCycle die) with
    | some p => some (p, true)
    | none =>
      if s.field (lopReg die 0x00) 6 6 = 1 then
        (firstBy (fun (a b : Packet) => decide (a.slack ≤ b.slack)) ready).map fun p => (p, false)
      else ready.head?.map fun p => (p, false)

/-- The entries of a wait buffer that a combined request stands for become SENT when it leaves its queue (R103). -/
def markSent (fuel : Nat) (ws : List WaitEntry) (point : CombinePoint) (idx : Nat) : List WaitEntry :=
  match fuel with
  | 0 => ws
  | fuel + 1 =>
    match ws.find? fun w => w.point == point && w.idx == idx with
    | none => ws
    | some w =>
      let ws := ws.map fun x => if x.point == point && x.idx == idx then { x with sent := true } else x
      let here := match point with
        | .stop die stop => w.first.die == die && w.first.stop == stop
        | .port _ => true
      if w.first.cmb && w.first.via.isNone && here then markSent fuel ws point w.first.txn else ws

/-- A packet leaves the queue of a stop. -/
def State.leaveQueue (s : State) (p : Packet) (die stop : Nat) : State :=
  match p.body with
  | .fetchOp _ _ _ _ _ _ _ _ true =>
    if p.srcDie = die && p.srcStop = stop && p.via.isNone then
      s.modNet fun n => { n with waits := markSent 64 n.waits (.stop die stop) p.txn }
    else s
  | _ => s

/-- A class 8 to 11 packet between partitions at a closed boundary (R141): the bridges, and the line between the halves
of a guide die. -/
def State.closedBoundary (s : State) (die next : Nat) : Bool :=
  let open_ (n : Nat) : Bool := s.field (prtReg 0x020) n n == 1
  if die < 4 && next < 4 then
    match min die next, max die next with
    | 0, 1 => !open_ 0
    | 2, 3 => !open_ 1
    | 0, 2 => !open_ 2
    | _, _ => !open_ 3
  else if 4 ≤ die && die < 6 then !open_ die
  else if 4 ≤ next && next < 6 then !open_ next
  else false

/-- A packet of classes 8 to 11 from one partition to another, which a closed boundary discards (R141). -/
def State.betweenPartitions (s : State) (p : Packet) : Bool :=
  decide (8 ≤ p.cls) &&
    decide (s.ownerOf (stopQuarter p.srcDie p.srcStop) ≠ s.ownerOf (stopQuarter p.dstDie p.dstStop))

/-- The beats of a travelling packet, by the places on its loop at which they stand: the header, then its data behind it
(R80). -/
def Packet.beats (p : Packet) : List Nat :=
  match p.place with
  | .travelling die ℓ stop =>
    let n := (loopStops die ℓ).length
    let at_ := loopPlace die ℓ stop + n - p.hops % n
    (List.range (p.len + 1)).map fun k => (at_ + n - k) % n
  | _ => []

/-- The slot that passes a stop on a loop, and the next LEN slots, are empty (R82). -/
def State.slotsFree (s : State) (die ℓ stop len : Nat) : Bool :=
  let n := (loopStops die ℓ).length
  let mine := (List.range (len + 1)).map fun k => (loopPlace die ℓ stop + n - k) % n
  !s.net.packets.any fun q =>
    match q.place with
    | .travelling d l _ => d == die && l == ℓ && q.beats.any fun b => mine.contains b
    | _ => false

/-- PACKET_INJECT (R82): stop b of die a injects into its loop c the packet that R83 chooses, once its slots are empty. On a
guide die a packet that crosses the line between the halves may meet a closed boundary (R141). -/
def execPacketInject (s : State) : Result :=
  let die := s.arg.a
  let stop := s.arg.b
  let onLoop (p : Packet) : Bool :=
    p.place == .injection die stop &&
      match nextLeg die stop p.inPort p.dstDie p.dstStop with
      | .loop t => loopOf stop t == s.arg.c
      | _ => false
  match s.arbitrate die (s.net.packets.filter onLoop) with
  | none => .next s
  | some (p, guard) =>
    match nextLeg die stop p.inPort p.dstDie p.dstStop with
    | .loop t =>
      let ℓ := loopOf stop t
      let crosses := decide (4 ≤ die) && decide (die < 6) && stopQuarter die stop != stopQuarter die t
      if !s.slotsFree die ℓ stop p.len then .next s
      else
        let s := (if guard then s.count (lopReg die 0x20) 48 1 else s).leaveQueue p die stop
        if crosses && s.betweenPartitions p && s.closedBoundary die die then
          .next ((s.dropPacket p.id).count (prtReg 0x028) 48 1)
        else
          .next (s.putPacket { p with inPort := stop, hops := loopHops die ℓ stop t, refused := 0 } (.travelling die ℓ t))
    | _ => .next s

/-- A packet has been refused at a stop and not been accepted since. -/
def State.refusedHere (s : State) (p : Packet) (die ℓ stop : Nat) : Bool :=
  s.net.packets.any fun q =>
    q.id != p.id && q.place == .travelling die ℓ stop && q.inPort == p.inPort && decide (q.refused ≠ 0) &&
      (p.refused == 0 || decide (q.refused < p.refused))

/-- A stop refuses a packet, which goes on circulating (R82): it counts, marks the packet's age, and at a second refusal the
stop keeps the next place that frees for the packet's source stop, behind the places that it keeps already. -/
def refusePacket (s : State) (p : Packet) (die ℓ stop : Nat) : State :=
  let keep : Nat × Nat × Nat × Nat := (die, stop, ℓ, p.inPort)
  let mark (q : Packet) : Packet :=
    { q with
      lap := true, hops := (loopStops die ℓ).length, refused := if q.refused = 0 then s.ticket + 1 else q.refused }
  ((s.count (lopReg die 0x18) 48 1).nextTicket).modNet fun n =>
    { n with
      packets := n.packets.map fun q => if q.id = p.id then mark q else q,
      reserved := if p.lap && !n.reserved.contains keep then n.reserved ++ [keep] else n.reserved }

/-- The ejection buffer of a stop for a loop has a place for a packet (R82): of the eight, those that are held, and those kept for
source stops that come before this one's. -/
def State.bufferTakes (s : State) (p : Packet) (die ℓ stop : Nat) : Bool :=
  let held := s.net.packets.filter fun q => q.place == .ejected die stop ℓ
  let kept := s.net.reserved.filter fun r => r.1 == die && r.2.1 == stop && r.2.2.1 == ℓ
  decide (held.length + kept.findIdx (fun r => r.2.2.2 == p.inPort) < 8)

/-- PACKET_EJECT (R82, R84): packet a reaches the stop where it leaves its loop, and ejects or is refused; a reserved class is
discarded (R81). One that stands at a stop goes on to its next queue; at its last stop it joins its slice's queue, or leaves
the network: control traffic then brings its event about. -/
def execPacketEject (s : State) : Result :=
  match s.packet s.arg.a with
  | none => .next s
  | some p =>
    match p.place with
    | .travelling die ℓ stop =>
      if p.hops ≠ 0 then .next s
      else if 12 ≤ p.cls then .next ((s.dropPacket p.id).raise (lopReg die 0x08) 0)
      else if s.refusedHere p die ℓ stop || !s.bufferTakes p die ℓ stop then .next (refusePacket s p die ℓ stop)
      else
        let s := s.modNet fun n => { n with reserved := n.reserved.filter fun r => r != (die, stop, ℓ, p.inPort) }
        .next (s.arriveAt { p with refused := 0 } die stop ℓ)
    | .ejected die stop port =>
      if p.isFetch then .next s
      else
        match nextLeg die stop port p.dstDie p.dstStop with
        | .loop _ => .next (s.putPacket p (.injection die stop))
        | .cross _ _ => .next (s.putPacket p (.link die stop))
        | .here =>
          if p.forSlice then .next (s.putPacket p (.slice die stop))
          else
            match p.body with
            | .other => .next (s.dropPacket p.id)
            | .control i a => .next ((s.dropPacket p.id).event i a)
            | _ => .next s
    | _ => .next s

/-- The loops run on for some cycles, by die: every travelling packet comes nearer its stop. The hops that it passes carry good
beats, so that earlier failures there are no longer consecutive (R85). -/
def moveLoops (s : State) (gain : Nat → Nat) : State :=
  let passed := s.net.packets.flatMap fun p =>
    match p.place with
    | .travelling die ℓ stop =>
      let xs := loopStops die ℓ
      let n := xs.length
      (List.range (min p.hops (gain die))).map fun k =>
        (die, ℓ, xs.getD ((loopPlace die ℓ stop + n - (p.hops - 1 - k) % n) % n) 0)
    | _ => []
  s.modNet fun n =>
    { n with
      packets := n.packets.map fun p => match p.place with
        | .travelling die _ _ => { p with hops := p.hops - gain die }
        | _ => p,
      hopFails := n.hopFails.filter fun h => !passed.contains (h.1, h.2.1, h.2.2.1) }

/-- LINK_FORWARD (R84): the link at stop b of die a forwards the packet at the head of its response FIFO, else of its
request FIFO; one between partitions at a closed boundary is discarded and counted (R141). -/
def execLinkForward (s : State) : Result :=
  let die := s.arg.a
  let stop := s.arg.b
  let fifo := s.net.packets.filter fun p => p.place == .link die stop
  match (fifo.find? fun p => isResponse p.cls).or fifo.head? with
  | none => .next s
  | some p =>
    match nextLeg die stop p.inPort p.dstDie p.dstStop with
    | .cross nd ns =>
      let s := s.leaveQueue p die stop
      if s.betweenPartitions p && s.closedBoundary die nd then
        .next ((s.dropPacket p.id).count (prtReg 0x028) 48 1)
      else .next (s.arriveAt p nd ns 24)
    | _ => .next s

/-- LINK_CRC_ERROR (R84): the packet is resent from the replay buffer with those behind it, in their order: it stays at
the head of its FIFO. -/
def execLinkCrcError (s : State) : Result := .next s

/-- A hop's failures so far. -/
def State.hopCount (s : State) (die ℓ stop : Nat) : Nat :=
  match s.net.hopFails.find? fun h => h.1 == die && h.2.1 == ℓ && h.2.2.1 == stop with
  | some h => h.2.2.2
  | none => 0

/-- A failure on a hop whose spare is in use (R85): FATAL, and the partition that owns the die, or the stop's part of it, is
stopped: its jobs are reported through the fault queues and nothing more of it is dispatched; the boot status record
gives the cause (R136, STOP 4). -/
def hopFatal (s : State) (die ℓ stop : Nat) : State :=
  let s := (s.raise (lopReg die 0x08) 2).setField (lopReg die 0x10) 11 8 ℓ
  let s := stopWith (s.setField (lopReg die 0x10) 5 0 stop) 4#8
  let part := s.ownerOf (stopQuarter die stop)
  let s := { s with sys := { s.sys with halted := part :: s.sys.halted.filter fun p => p != part } }
  (s.allJobs.filter fun j => j.id.part == part).foldl (fun s j => s.endJob j.id causeKilled) s

/-- A hop of the module: the die has the loop, and the loop visits the stop. -/
def isHop (die ℓ stop : Nat) : Bool := decide (die < 8) && decide (ℓ < 16) && (loopStops die ℓ).contains stop

/-- HOP_CRC_ERROR (R85): a bad beat on the hop of loop b of die a into stop c is asked for again. -/
def execHopCrcError (s : State) : Result :=
  let die := s.arg.a
  let ℓ := s.arg.b
  let stop := s.arg.c
  if !isHop die ℓ stop then .next s
  else if s.net.spares.contains (die, ℓ, stop) then .next (hopFatal s die ℓ stop)
  else
    let rest := s.net.hopFails.filter fun h => !(h.1 == die && h.2.1 == ℓ && h.2.2.1 == stop)
    .next (s.modNet fun n => { n with hopFails := (die, ℓ, stop, s.hopCount die ℓ stop + 1) :: rest })

/-- HOP_SPARE (R85): after 16 consecutive failures the hop moves its failing wire to its spare. -/
def execHopSpare (s : State) : Result :=
  let die := s.arg.a
  let ℓ := s.arg.b
  let stop := s.arg.c
  if !isHop die ℓ stop || decide (s.hopCount die ℓ stop < 16) || s.net.spares.contains (die, ℓ, stop) then .next s
  else
    let rest := s.net.hopFails.filter fun h => !(h.1 == die && h.2.1 == ℓ && h.2.2.1 == stop)
    let s := (s.raise (lopReg die 0x08) 1).setField (lopReg die 0x10) 11 8 ℓ
    let s := s.setField (lopReg die 0x10) 5 0 stop
    .next (s.modNet fun n => { n with hopFails := rest, spares := (die, ℓ, stop) :: n.spares })

/-! ### Fetch and operate (R99 to R108) -/

/-- The AOP operation at width 32 or 64 (R104, R108, R363): 0 ADD, 1 AND, 2 OR, 3 XOR, 4 MIN, 5 MAX, 6 MINU, 7 MAXU,
8 FADD, 9 SWAP. -/
def aopApply (aop : Nat) (w : Bool) (x y : BitVec 64) : BitVec 64 :=
  let n := if w then 64 else 32
  let trim (v : BitVec 64) : BitVec 64 := if w then v else v &&& 0xFFFFFFFF#64
  let a := trim x
  let b := trim y
  let signedLt : Bool := decide ((BitVec.ofNat n a.toNat).toInt < (BitVec.ofNat n b.toNat).toInt)
  match aop with
  | 0 => trim (a + b)
  | 1 => a &&& b
  | 2 => a ||| b
  | 3 => a ^^^ b
  | 4 => if signedLt then a else b
  | 5 => if signedLt then b else a
  | 6 => if a.ult b then a else b
  | 7 => if a.ult b then b else a
  | 8 => BitVec.ofNat 64 (fadd32 a.toNat b.toNat)
  | _ => b

/-- The value that a fetch-and-operate leaves at its location (R363): CAS is 10, its compare value third. -/
def aopNew (aop : Nat) (w : Bool) (old x c : BitVec 64) : BitVec 64 :=
  if aop = 10 then
    let same := if w then old == c else (old &&& 0xFFFFFFFF#64) == (c &&& 0xFFFFFFFF#64)
    if same then (if w then x else x &&& 0xFFFFFFFF#64) else old
  else aopApply aop w old x

/-- An operation that may combine (R99 conditions 1, 3, 4 and 5, and the address of condition 2). -/
def mayCombine (pa aop : Nat) (order scope : Nat) (nc : Bool) : Bool :=
  decide (pa % 8 = 0) && (decide (aop < 8) || (decide (aop = 8) && decide (order = 0))) && decide (3 ≤ scope) && !nc

/-- The waiting request matches the arriving one (R99). -/
def matchesRequest (e f : Packet) : Bool :=
  match e.body, f.body with
  | .fetchOp _ _ _ ea ew eo es en _, .fetchOp _ _ _ fa fw fo fs fn _ =>
    e.pa == f.pa && ea == fa && ew == fw && mayCombine e.pa ea eo es en && mayCombine f.pa fa fo fs fn
  | _, _ => false

/-- The entry of a point that a combination takes (R101): of those that are free the lowest (log entry 160). -/
def freeEntry (ws : List WaitEntry) (point : CombinePoint) (size : Nat) : Option Nat :=
  firstBelow size fun i => !ws.any fun w => w.point == point && w.idx == i

/-- The return identity of a request (R101). -/
def returnOf (p : Packet) : ReturnId :=
  match p.body with
  | .fetchOp _ _ _ _ _ _ _ _ cmb => ⟨p.srcDie, p.srcStop, p.txn, cmb, p.via⟩
  | _ => ⟨p.srcDie, p.srcStop, p.txn, false, p.via⟩

/-- The waiting request rewritten for two (R101). -/
def combined (e f : Packet) (die stop idx : Nat) : Packet :=
  match e.body, f.body with
  | .fetchOp x x2 n a w o sc nc _, .fetchOp y _ m _ _ o' sc' _ _ =>
    { e with
      srcDie := die, srcStop := stop, txn := idx, slack := min e.slack f.slack, strms := e.strms ++ f.strms, via := none,
      body := .fetchOp (aopApply a w x y) x2 (min (n + m) 65535) a w (Nat.lor o o') (max sc sc') nc true }
  | _, _ => e

/-- The queue that an arriving request joins at a stop. -/
def queueFor (p : Packet) (die stop port : Nat) : PacketPlace :=
  match nextLeg die stop port p.dstDie p.dstStop with
  | .here => .slice die stop
  | .loop _ => .injection die stop
  | .cross _ _ => .link die stop

/-- A request at a stop joins its queue there and combines with the latest eligible waiting request, if a wait-buffer entry is
free (R99 to R101); not ahead of a request of its own engine queue to that location (R110). -/
def stopArrival (s : State) (f : Packet) (die stop port : Nat) : State :=
  let place := queueFor f die stop port
  let sameLoop (q : Packet) : Bool :=
    match place with
    | .injection _ _ =>
      match nextLeg die stop q.inPort q.dstDie q.dstStop, nextLeg die stop port f.dstDie f.dstStop with
      | .loop t, .loop u => loopOf stop t == loopOf stop u
      | _, _ => false
    | _ => true
  let queue := s.net.packets.filter fun q => q.place == place && sameLoop q
  let own (q : Packet) : Bool := q.isFetch && q.pa / 8 == f.pa / 8 && q.strms.any f.strms.contains
  let found := (queue.filter fun q => matchesRequest q f).getLast?.filter fun e =>
    !((queue.dropWhile fun q => q.id ≠ e.id).drop 1).any own
  let joined := s.putPacket { f with inPort := port } place
  if s.field (lopReg die 0x28) 0 0 = 0 then joined
  else
    match found with
    | none => joined
    | some e =>
      match freeEntry s.net.waits (.stop die stop) 64, e.body with
      | some idx, .fetchOp x _ _ a w _ _ _ _ =>
        let entry : WaitEntry := ⟨.stop die stop, idx, x, a, w, returnOf e, returnOf f, false, 0, e.pa⟩
        let s := (s.dropPacket f.id).count (lopReg die 0x30) 48 1
        s.modNet fun n => { n with
          waits := n.waits ++ [entry],
          packets := n.packets.map fun q => if q.id = e.id then combined e f die stop idx else q }
      | _, _ => joined.count (lopReg die 0x38) 48 1

/-- FETCH_OP_ARRIVAL (R99 to R101, R112): request a, held at a stop or at the head of a fabric port's ingress queue, goes on; one
that leaves a port's ingress queue has its wait-buffer entries there SENT, and enters the die at the port's stop. -/
def execFetchOpArrival (s : State) : Result :=
  match s.packet s.arg.a with
  | none => .next s
  | some f =>
    if !f.isFetch then .next s
    else
      match f.place with
      | .ejected die stop port => .next (stopArrival s f die stop port)
      | .ingress port =>
        let own := (s.net.ingress.find? fun x => some x.id == f.via).bind fun x => x.entry
        let s := match own with
          | some idx => s.modNet fun n => { n with waits := markSent 64 n.waits (.port port) idx }
          | none => s
        .next (stopArrival s f f.srcDie f.srcStop (portInput port))
      | _ => .next s

/-- A reply to a return identity leaves a stop (R103). -/
def State.sendReply (s : State) (die stop port : Nat) (to_ : ReturnId) (status : Nat) (v : BitVec 64) : State :=
  s.sendPacket { Packet.make 5 (die, stop) (to_.die, to_.stop) (.fetchReply status v to_.cmb) with
    txn := to_.txn, via := to_.via } port

/-- A fetch-and-operate at its slice (R105, R106, R66), for a group and through a leaf with a CMP bit: status, old value, and the
state afterwards. -/
def performAtomic (s : State) (pa aop : Nat) (w : Bool) (x c : BitVec 64) (tag : Nat) (cmp : Option Bool) :
    Nat × BitVec 64 × State :=
  let n := if w then 8 else 4
  if s.poisonedAt pa n then (2, 0#64, s)
  else
    let s := s.settleAtomics pa n none
    let old := BitVec.ofNat 64 (s.sliceNat pa n)
    let s := s.readLine tag 1 1 pa
    let s := match cmp with
      | some b => s.noteCmp pa b
      | none => s
    (0, old, sliceWrite s pa (leBytes n (aopNew aop w old x c).toNat))

end Sys2Proof.Machine
end

