-- ==== Sys2Proof/Machine/Fabric.lean ====
section
/-!
DEFINITION. The fabric ports (R87 to R95, R111, R112): messages, routes, flits, ingress, and the answers to this module's
own requests.
-/

namespace Sys2Proof.Machine

/-- A port that has never been up. -/
def Port.blank (no : Nat) : Port :=
  { no := no, up := false, lanes := 3#2, txSeq := 0#12, rxSeq := 0#12, replay := [], replays := 0, credits := [0, 0, 0],
    queue := [], trunk := 0, tx := [], rx := [], sent := [], freed := [0, 0, 0], wire := [] }

/-- A fabric port by its number. -/
def State.port (s : State) (no : Nat) : Port :=
  (s.net.ports.find? fun p => p.no == no).getD (Port.blank no)

/-- The state with a port replaced. -/
def State.setPort (s : State) (p : Port) : State :=
  s.modNet fun n => { n with ports := p :: n.ports.filter fun q => q.no ≠ p.no }

/-- This module's identifier (R97). -/
def State.modId (s : State) : Nat := s.field (fabReg 0x000) 15 0

/-- Where byte DSTMOD of the route table lies (R92). -/
def State.routeAt (s : State) (dst : Nat) : Nat := s.field (fabReg 0x010) 51 16 * 65536 + dst

/-- The trunk of a module: byte DSTMOD of the route table; 16 and above mean no route (R92), and so does a byte that is lost (R66; log
entry 183). -/
def State.trunkOf (s : State) (dst : Nat) : Option Nat :=
  let t := s.sliceNat (s.routeAt dst) 1
  if t < 16 && !s.poisonedAt (s.routeAt dst) 1 then some t else none

/-- The trunk of a port: what TRUNK says, from when the messages queued under its earlier value have been sent (R97). -/
def State.portTrunk (s : State) (no : Nat) : Nat :=
  let p := s.port no
  if p.queue.isEmpty && p.tx.isEmpty then s.field (fabReg (0x1000 + 8 * no)) 7 4 else p.trunk

/-- The up ports of a trunk in ascending order (R92); one whose EN is clear takes no new message. -/
def State.upPorts (s : State) (trunk : Nat) : List Nat :=
  (List.range 144).filter fun i => (s.port i).up && s.field (fabReg (0x1000 + 8 * i)) 8 8 == 1 && s.portTrunk i == trunk

/-- The port that a message takes (R92). -/
def State.routePort (s : State) (dst pa : Nat) : Option Nat :=
  match s.trunkOf dst with
  | none => none
  | some t =>
    let ps := s.upPorts t
    if ps.isEmpty then none
    else ps[(Nat.xor dst (Nat.xor (natBits pa 22 7) (natBits pa 38 23))) % ps.length]?

/-- The tag of a transaction on the fabric; 0 to 31 name wait-buffer entries of the ports (R101, log entry 14). -/
def fabricTag (id : Nat) : Nat := 32 + id % (65536 - 32)

/-- A message with its header (R90). -/
def message (cls len status smask pa txn dst src : Nat) (slots : List (BitVec 128)) : FabricMessage :=
  ⟨BitVec.ofNat 4 cls, BitVec.ofNat 4 len, BitVec.ofNat 2 status, BitVec.ofNat 4 smask, 0#14, BitVec.ofNat 52 pa,
    BitVec.ofNat 16 txn, BitVec.ofNat 16 dst, BitVec.ofNat 16 src, slots⟩

/-- The virtual channel of a message class (R91). -/
def channelOf (cls : Nat) : Nat :=
  if cls = 7 || cls = 8 then 2 else if cls = 1 || cls = 3 || cls = 5 then 1 else 0

/-- The combining header slots of a fetch-and-operate message (R111). -/
def fetchSlots (aop : Nat) (w : Bool) (order scope : Nat) (nc cmb : Bool) (nmem : Nat) (x2 x : BitVec 64) :
    List (BitVec 128) :=
  let field (lo v : Nat) : Nat := v * 2 ^ lo
  [BitVec.ofNat 128 (field 124 aop + field 123 (natOfBool w) + field 121 order + field 118 scope +
      field 117 (natOfBool nc) + field 116 (natOfBool cmb) + field 96 nmem),
    BitVec.ofNat 128 (field 64 x2.toNat + x.toNat)]

/-- The fetch-and-operate of a message, if its slots are well formed (R111). -/
structure FetchFields where
  aop : Nat
  w : Bool
  order : Nat
  nc : Bool
  cmb : Bool
  nmem : Nat
  x2 : BitVec 64
  x : BitVec 64
  deriving DecidableEq, Repr

def fetchFields (m : FabricMessage) : Option FetchFields :=
  match m.slots with
  | [h, d] =>
    let f (hi lo : Nat) : Nat := natBits h.toNat hi lo
    let x2 := natBits d.toNat 127 64
    if f 115 112 ≠ 0 || f 95 0 ≠ 0 || (x2 ≠ 0 && f 127 124 ≠ 10) || (natBits d.toNat 63 32 ≠ 0 && f 123 123 = 0) then none
    else some ⟨f 127 124, f 123 123 == 1, f 122 121, f 117 117 == 1, f 116 116 == 1, f 111 96,
      BitVec.ofNat 64 x2, BitVec.ofNat 64 (natBits d.toNat 63 0)⟩
  | _ => none

/-- Two waiting and arriving requests of a port's egress queue that combine (R99, R112). -/
def egressMatch (e f : FabricMessage) : Bool :=
  match fetchFields e, fetchFields f with
  | some a, some b =>
    e.fclass == 4#4 && f.fclass == 4#4 && e.pa == f.pa && e.dstMod == f.dstMod && a.aop == b.aop && a.w == b.w &&
      mayCombine e.pa.toNat a.aop a.order 7 a.nc && mayCombine f.pa.toNat b.aop b.order 7 b.nc
  | _, _ => false

/-- The wait-buffer entries that stand for requests of this module to a module and address (R112). -/
def WaitEntry.standsFor (w : WaitEntry) (modl pa : Nat) : Bool := w.first.die == 8 && w.modl == modl && w.pa == pa

/-- The entry that a combination in an egress queue takes: the lowest that is free at the port and that no request to that module and
address holds at another port, which a change of ports may have left there (R92, log entry 160). -/
def freeEgress (ws : List WaitEntry) (no modl pa : Nat) : Option Nat :=
  firstBelow 32 fun i => !ws.any fun w => w.idx == i && (w.point == .port no || w.standsFor modl pa)

/-- A message joins the queue of a port; a fetch-and-operate request may combine there (R99, R101, R112, R114). -/
def enqueue (s : State) (no : Nat) (m : FabricMessage) : State :=
  let p := s.port no
  let joined := s.setPort { p with queue := p.queue ++ [m], trunk := s.portTrunk no }
  if m.fclass ≠ 4#4 || s.field (fabReg 0x028) 0 0 = 0 then joined
  else
    match (p.queue.filter fun q => egressMatch q m).getLast? with
    | none => joined
    | some e =>
      match freeEgress s.net.waits no m.dstMod.toNat m.pa.toNat, fetchFields e, fetchFields m with
      | some idx, some a, some b =>
        let entry : WaitEntry :=
          ⟨.port no, idx, a.x, a.aop, a.w, ⟨8, 0, e.txn.toNat, a.cmb, none⟩, ⟨8, 0, m.txn.toNat, b.cmb, none⟩, false,
            m.dstMod.toNat, m.pa.toNat⟩
        let new : FabricMessage :=
          { e with
            txn := BitVec.ofNat 16 idx, srcMod := BitVec.ofNat 16 s.modId,
            slots := fetchSlots a.aop a.w (Nat.lor a.order b.order) 7 false true (min (a.nmem + b.nmem) 65535) a.x2
              (aopApply a.aop a.w a.x b.x) }
        let s := (s.setPort { p with queue := p.queue.map fun q => if q = e then new else q }).count (fabReg 0x030) 48 1
        s.modNet fun n => { n with waits := n.waits ++ [entry] }
      | _, _, _ => joined.count (fabReg 0x038) 48 1

/-- Class and data beats of the packet that takes a message to a port's stop. -/
def packetClass (m : FabricMessage) : Nat := if m.fclass.toNat ≤ 5 then m.fclass.toNat else 2
def packetBeats (m : FabricMessage) : Nat := min 2 ((m.len.toNat + 3) / 4)

/-- The number that stands for the port of a message that has not been routed yet: the module has ports 0 to 143. -/
def noPort : Nat := 144

/-- A message of this module enters the network at a stop; its route is read there (R78, R92). -/
def sendMessage (s : State) (src : Nat × Nat) (port slack : Nat) (strms : List StreamId) (gtag : Nat)
    (m : FabricMessage) : State :=
  s.sendPacket
    { Packet.make (packetClass m) src src (.fabricOut noPort m) with
      pa := m.pa.toNat, txn := m.txn.toNat, len := packetBeats m, slack := slack, strms := strms, gtag := gtag } port

/-- SLACK of requests that no core issues and that come from outside (R83). -/
def State.extSlack (s : State) (die : Nat) : Nat := s.field (lopReg die 0x00) 5 0

/-- The answer to an ingress request leaves a stop for its sender. -/
def answer (s : State) (src : Nat × Nat) (port : Nat) (m : FabricMessage) (cls len status : Nat)
    (slots : List (BitVec 128)) : State :=
  let s := if status = 1 || status = 3 then s.raise (fabReg 0x018) 1 else s
  sendMessage s src port 0 [] 0 (message cls len status 0 m.pa.toNat m.txn.toNat m.srcMod.toNat s.modId slots)

/-- Partition that a physical address belongs to (R139). -/
def State.partitionOf (s : State) (pa : Nat) : Option Nat :=
  (firstBelow 4 fun q =>
    if inHbm pa then
      decide (s.field (prtReg (0x080 + 16 * q)) 31 0 * 65536 ≤ pa) &&
        decide (pa < s.field (prtReg (0x080 + 16 * q)) 63 32 * 65536)
    else
      decide (s.field (prtReg (0x088 + 16 * q)) 31 0 * 65536 ≤ pa - lpddrBase) &&
        decide (pa - lpddrBase < s.field (prtReg (0x088 + 16 * q)) 63 32 * 65536)).map s.ownerOf

/-- STATUS that an ingress request meets before it is performed (R93): 3 for another module, 1 for an address that is
not served here, or that no partition's range covers (log entry 161). -/
def State.ingressStatus (s : State) (m : FabricMessage) (unicast : Bool) : Nat :=
  if unicast && (m.dstMod.toNat ≠ s.modId || s.modId = 0xFFFF) then 3
  else if !inTiers m.pa.toNat then 1
  else
    match s.partitionOf m.pa.toNat with
    | some p => if s.field (fabReg 0x008) p p = 1 then 0 else 1
    | none => 1

/-- The bytes of 16-byte slots. -/
def slotBytes (xs : List (BitVec 128)) : List Byte := xs.flatMap fun x => leBytes 16 x.toNat

/-- Bytes cut into 16-byte slots. -/
def bytesSlots (fuel : Nat) (bs : List Byte) : List (BitVec 128) :=
  match fuel with
  | 0 => []
  | fuel + 1 => if bs.isEmpty then [] else BitVec.ofNat 128 (leNat (bs.take 16)) :: bytesSlots fuel (bs.drop 16)

/-- The masked bytes of a fabric write at its slice (R90): byte-mask slot first, data from line slot PA[6:4]. A poisoned line
counts the write once (R66). -/
def maskedWrite (s : State) (m : FabricMessage) : State :=
  match m.slots with
  | [] => s
  | mask :: data =>
    let line := m.pa.toNat / 128 * 128
    let first := m.pa.toNat % 128 / 16 * 16
    (slotBytes data).zipIdx.foldl
      (fun s (b, k) => if mask.getLsbD (first + k) then sliceBytes s (line + first + k) [b] else s)
      (s.countLost (if s.poisonedLine (line / 128) then 1 else 0))

/-- Sectors that a read asks for, lowest first (R90). -/
def askedSectors (m : FabricMessage) : List Nat := (List.range 4).filter fun k => m.smask.getLsbD k

/-- A message that R90 or R111 (`fetchFields`) calls malformed. -/
def malformed (m : FabricMessage) : Bool :=
  decide (9 ≤ m.fclass.toNat) || decide (10 ≤ m.len.toNat) || m.rsv != 0#14 || m.slots.length != m.len.toNat ||
    (m.fclass == 4#4 && (m.len != 2#4 || (fetchFields m).isNone)) ||
    (m.fclass == 5#4 && (m.len != 1#4 || m.slots.any fun x => decide (2 ^ 64 ≤ x.toNat)))

/-! ### Messages as slots (R88, R90) -/

/-- The header slot of a message. -/
def messageHeader (m : FabricMessage) : BitVec 128 :=
  BitVec.ofNat 128 (headerField 124 4 m.fclass.toNat + headerField 120 4 m.len.toNat + headerField 118 2 m.status.toNat +
    headerField 114 4 m.smask.toNat + headerField 112 2 (m.rsv.toNat / 4096) + headerField 60 52 m.pa.toNat +
    headerField 44 16 m.txn.toNat + headerField 28 16 m.dstMod.toNat + headerField 12 16 m.srcMod.toNat +
    headerField 0 12 m.rsv.toNat)

/-- The slots of a message. -/
def wireSlots (m : FabricMessage) : List (BitVec 128) := messageHeader m :: m.slots

/-- The message that a header slot begins, with its data slots. -/
def messageOf (h : BitVec 128) (data : List (BitVec 128)) : FabricMessage :=
  let f (hi lo : Nat) : Nat := natBits h.toNat hi lo
  ⟨BitVec.ofNat 4 (f 127 124), BitVec.ofNat 4 (f 123 120), BitVec.ofNat 2 (f 119 118), BitVec.ofNat 4 (f 117 114),
    BitVec.ofNat 14 (f 113 112 * 4096 + f 11 0), BitVec.ofNat 52 (f 111 60), BitVec.ofNat 16 (f 59 44),
    BitVec.ofNat 16 (f 43 28), BitVec.ofNat 16 (f 27 12), data⟩

/-- Data slots that a header announces; a malformed length announces none (R90). -/
def announced (h : BitVec 128) : Nat :=
  let n := natBits h.toNat 123 120
  if 10 ≤ n then 0 else n

/-- The messages that stand whole in a run of slots, and the slots of one that goes on in the next flit. -/
def readSlots (fuel : Nat) (xs : List (BitVec 128)) : List FabricMessage × List (BitVec 128) :=
  match fuel with
  | 0 => ([], xs)
  | fuel + 1 =>
    match xs with
    | [] => ([], [])
    | h :: rest =>
      if rest.length < announced h then ([], xs)
      else
        let r := readSlots fuel (rest.drop (announced h))
        (messageOf h (rest.take (announced h)) :: r.1, r.2)

/-- Bytes 0 to 243 of a flit, which its CRC covers (R88). -/
def flitImage (f : Flit) : List Byte :=
  leBytes 4 (headerField 20 12 f.seq.toNat + headerField 8 12 f.ack.toNat + headerField 6 2 f.cvc.toNat +
    headerField 0 6 f.crn.toNat) ++
    ((f.slots.take 15 ++ List.replicate (15 - f.slots.length) 0#128).flatMap fun x => leBytes 16 x.toNat)

/-- One bit of a CRC-32 in its reflected form. -/
def crcBit (c : BitVec 32) : BitVec 32 := if c.getLsbD 0 then (c >>> 1) ^^^ 0xEDB88320#32 else c >>> 1

/-- The register after one more byte. -/
def crcByte (c : BitVec 32) (b : Byte) : BitVec 32 := (List.range 8).foldl (fun c _ => crcBit c) (c ^^^ b.zeroExtend 32)

/-- The register after the bytes, as a number that is computed before the next byte is taken. -/
def crcFold (bs : List Byte) (c : Nat) : Nat :=
  match bs with
  | [] => c
  | b :: rest =>
    match (crcByte (BitVec.ofNat 32 c) b).toNat with
    | 0 => crcFold rest 0
    | n + 1 => crcFold rest (n + 1)

/-- CRC-32 over bytes, by the polynomial of IEEE 802.3 (R88; log entry 181). -/
def crc32 (bs : List Byte) : BitVec 32 := ~~~ BitVec.ofNat 32 (crcFold bs 0xFFFFFFFF)

/-- A flit that carries the CRC of its bytes 0 to 243. -/
def sealFlit (f : Flit) : Flit := { f with crc := crc32 (flitImage f) }

/-- A flit passes its CRC check (R89). -/
def goodFlit (f : Flit) : Bool := f.crc == crc32 (flitImage f)

/-- The 256 bytes of a flit on the wire (R88). -/
def flitBytes (f : Flit) : List Byte :=
  flitImage f ++ leBytes 4 f.crc.toNat ++ (List.range 8).map fun k => Config.fecParity (flitImage f) k

/-! ### IEEE 1588 (R95) -/

/-- PTPROLE of a port (R97): 0 disabled. -/
def State.ptpRole (s : State) (port : Nat) : Nat := s.field (fabReg (0x1000 + 8 * port)) 3 2

/-- domainNumber of an IEEE 1588 message: byte 4 of its header. -/
def domainOf (m : FabricMessage) : Nat := ((slotBytes m.slots).getD 4 0#8).toNat

/-- messageType of an IEEE 1588 message: the low half of byte 0 of its header. -/
def mtypeOf (m : FabricMessage) : Nat := ((slotBytes m.slots).getD 0 0#8).toNat % 16

/-- A message that a port takes or gives only in one state: Sync and Follow_Up come to a slave, and with Announce leave a master; the
others pass in each state that is not disabled (R95; log entry 182). -/
def ptpRolePasses (role : Nat) (egress : Bool) (mtype : Nat) : Bool :=
  if role = 0 then false
  else if mtype = 0 || mtype = 8 then (if egress then decide (role = 1) else decide (role = 2))
  else if mtype = 11 && egress then decide (role = 1)
  else true

/-- A port takes part with the one domain that DOMAIN sets, in the state that its PTPROLE sets (R95, R97). -/
def State.ptpAccepts (s : State) (egress : Bool) (port : Nat) (m : FabricMessage) : Bool :=
  ptpRolePasses (s.ptpRole port) egress (mtypeOf m) && domainOf m == s.field (fabReg 0x020) 7 0

/-- A record of an IEEE 1588 event message (R95): the newest is dropped when the queue of 256 is full. -/
def stampEvent (s : State) (egress : Bool) (port : Nat) (m : FabricMessage) : State :=
  if s.field (fabReg 0x020) 8 8 = 0 || !s.ptpAccepts egress port m then s
  else if 256 ≤ s.net.stamps.length then s.raise (fabReg 0x018) 4
  else
    let bs := slotBytes m.slots
    let seq := (bs.getD 30 0#8).toNat * 256 + (bs.getD 31 0#8).toNat
    let t : Stamp := ⟨egress, port, BitVec.ofNat 16 seq, BitVec.ofNat 4 (mtypeOf m),
      s.dtb (6 + port / 72)⟩
    s.modNet fun n => { n with stamps := n.stamps ++ [t] }

/-! ### Answers to this module's requests -/

/-- The transaction that a fabric tag names. -/
def State.tagTxn (s : State) (tag : Nat) : Option Txn := s.net.txns.find? fun t => fabricTag t.id == tag

/-- Die and stop of the core that an owner's streams run on. -/
def State.ownerStop (s : State) (o : Owner) : Nat × Nat :=
  match o with
  | .mgmt _ => hostStop
  | .job j =>
    match (s.job j).bind fun x => x.core with
    | some c => coreStop c
    | none => hostStop

/-- An answer goes from a stop to the core that holds its transaction (R90); one that no transaction awaits is dropped. -/
def toRequester (s : State) (src : Nat × Nat) (port cls tag status : Nat) (v : BitVec 64) (bs : List Byte) : State :=
  match s.tagTxn tag with
  | some t =>
    s.sendPacket
      { Packet.make cls src (s.ownerStop t.strm.owner) (.answer status v bs) with
        txn := t.id, len := if cls = 1 then 2 else 0 } port
  | none => s

/-- The wait-buffer entry that a reply names by its number alone (R112): the one that stands for a request to the module and address
that the reply shows, else the one of the port that it came by, else any. -/
def replyEntry (ws : List WaitEntry) (no modl pa idx : Nat) : Option WaitEntry :=
  let mine := ws.filter fun w => w.first.die == 8 && w.idx == idx
  ((mine.find? fun w => w.standsFor modl pa).or (mine.find? fun w => w.point == .port no)).or mine.head?

/-- The wait-buffer entries that a combined message stands for become SENT when it leaves the egress queue (R103). -/
def markEgress (fuel : Nat) (ws : List WaitEntry) (modl pa idx : Nat) : List WaitEntry :=
  match fuel with
  | 0 => ws
  | fuel + 1 =>
    match ws.find? fun w => w.standsFor modl pa && w.idx == idx with
    | none => ws
    | some w =>
      let ws := ws.map fun x => if x.standsFor modl pa && x.idx == idx then { x with sent := true } else x
      if w.first.cmb then markEgress fuel ws modl pa w.first.txn else ws

/-- A fetch-and-operate reply that came by a fabric port: to a wait-buffer entry, which splits it, or to its requester (R103, R112). -/
def fabricReply (fuel : Nat) (s : State) (no : Nat) (src : Nat × Nat) (port modl pa tag : Nat) (status : Nat) (v : BitVec 64) :
    State :=
  match fuel with
  | 0 => s
  | fuel + 1 =>
    if tag < 32 then
      match replyEntry s.net.waits no modl pa tag with
      | some w =>
        if w.sent then
          let s := s.modNet fun n => { n with waits := n.waits.filter fun x => !(x.point == w.point && x.idx == w.idx) }
          let s := fabricReply fuel s no src port w.modl w.pa w.first.txn status v
          fabricReply fuel s no src port w.modl w.pa w.second.txn status (if status = 0 then aopApply w.aop w.w v w.e else v)
        else s.raise (fabReg 0x018) 2
      | none => s.raise (fabReg 0x018) 2
    else toRequester s src port 5 tag status v []

/-- The value of a fetch-and-operate reply (R111). -/
def replyValue (m : FabricMessage) : BitVec 64 := BitVec.ofNat 64 ((m.slots.headD 0#128).toNat)

/-- A request of this module for which no port is up is answered at its egress with STATUS 3 (R93, R105). -/
def refuseMessage (s : State) (src : Nat × Nat) (port : Nat) (m : FabricMessage) : State :=
  match m.fclass.toNat with
  | 0 => toRequester s src port 1 m.txn.toNat 3 0#64 []
  | 2 => toRequester s src port 3 m.txn.toNat 3 0#64 []
  | 4 =>
    let s := s.modNet fun n => { n with waits := markEgress 64 n.waits m.dstMod.toNat m.pa.toNat m.txn.toNat }
    fabricReply 64 s 0 src port m.dstMod.toNat m.pa.toNat m.txn.toNat 3 0#64
  | _ => s

/-! ### Ingress (R93, R94, R98, R112) -/

/-- The reply to a request that came in at a port goes to its sender, or to the wait-buffer entry of the port that stands for
several, which splits it (R103, R112). -/
def ingressReply (fuel : Nat) (s : State) (port : Nat) (to_ : ReturnId) (pa status : Nat) (v : BitVec 64) : State :=
  match fuel with
  | 0 => s
  | fuel + 1 =>
    if to_.cmb then
      match s.net.waits.find? fun w => w.point == .port port && w.first.die == 9 && w.idx == to_.txn with
      | some w =>
        if w.sent then
          let s := s.modNet fun n => { n with waits := n.waits.filter fun x => !(x.point == w.point && x.idx == w.idx) }
          let s := ingressReply fuel s port w.first pa status v
          ingressReply fuel s port w.second pa status (if status = 0 then aopApply w.aop w.w v w.e else v)
        else s.raise (fabReg 0x018) 2
      | none => s.raise (fabReg 0x018) 2
    else
      let s := if status = 1 || status = 3 then s.raise (fabReg 0x018) 1 else s
      let m := message 5 1 status 0 pa to_.txn to_.stop s.modId [v.zeroExtend 128]
      sendMessage s (portStop port) (portInput port) 0 [] 0 m

/-- Return identity of a request in a port's ingress queue. -/
def Ingress.return_ (x : Ingress) : ReturnId :=
  match x.entry with
  | some idx => ⟨9, 0, idx, true, none⟩
  | none => ⟨9, x.sender, x.txn, false, none⟩

/-- A fetch-and-operate request joins a port's ingress queue, and combines there with the latest eligible waiting one (R98 to R101,
R112, R114). -/
def ingressArrival (s : State) (port : Nat) (m : FabricMessage) (f : FetchFields) : State :=
  let id := s.ticket
  let src := portStop port
  let p : Packet :=
    { Packet.make 4 src (sliceStop m.pa.toNat) (.fetchOp f.x f.x2 f.nmem f.aop f.w f.order 7 f.nc false) with
      id := id, pa := m.pa.toNat, txn := m.txn.toNat, slack := s.extSlack src.1, via := some id, inPort := portInput port }
  let x : Ingress := ⟨id, port, m.srcMod.toNat, m.txn.toNat, m.pa.toNat, none⟩
  let add (s : State) : State :=
    (s.putPacket p (.ingress port)).modNet fun n => { n with ingress := n.ingress ++ [x] }
  let s := s.nextTicket
  if s.field (fabReg 0x028) 1 1 = 0 then add s
  else
    match (s.net.packets.filter fun q => q.place == .ingress port && matchesRequest q p).getLast? with
    | none => add s
    | some e =>
      match freeEntry s.net.waits (.port port) 32, s.net.ingress.find? fun y => some y.id == e.via, e.body with
      | some idx, some y, .fetchOp ex ex2 n a w o _ nc _ =>
        let entry : WaitEntry := ⟨.port port, idx, ex, a, w, y.return_, x.return_, false, 0, e.pa⟩
        let body := PacketBody.fetchOp (aopApply a w ex f.x) ex2 (min (n + f.nmem) 65535) a w (Nat.lor o f.order) 7 nc true
        (s.count (fabReg 0x030) 48 1).modNet fun n =>
          { n with
            waits := n.waits ++ [entry],
            packets := n.packets.map fun q =>
              if q.id = e.id then { q with body := body, txn := idx, slack := min e.slack p.slack } else q,
            ingress := n.ingress.map fun z => if z.id = y.id then { z with entry := some idx } else z }
      | _, _, _ => (add s).count (fabReg 0x038) 48 1

/-- An ingress read or write goes from its port's stop to its slice (R93). -/
def toSlice (s : State) (port cls : Nat) (m : FabricMessage) : State :=
  let src := portStop port
  s.sendPacket
    { Packet.make cls src (sliceStop m.pa.toNat) (.fabricIn port m) with
      pa := m.pa.toNat, txn := m.txn.toNat, len := packetBeats m, slack := s.extSlack src.1 } (portInput port)

/-- A multicast write is for this module when a valid group entry names it (R94). -/
def State.groupAccepts (s : State) (m : FabricMessage) : Bool :=
  (List.range 16).any fun j =>
    s.field (fabReg (0x100 + 8 * j)) 16 16 == 1 && s.field (fabReg (0x100 + 8 * j)) 15 0 == m.dstMod.toNat

/-- A well-formed message arrives (R90, R93, R94, R95). A multicast write is not answered; one that R93 would deny is dropped,
with DENY (log entry 162). An IEEE 1588 message that its port takes is kept for firmware. -/
def deliver (s : State) (port : Nat) (m : FabricMessage) : State :=
  let src := portStop port
  if malformed m then s.raise (fabReg 0x018) 2
  else
    match m.fclass.toNat with
    | 0 =>
      match s.ingressStatus m true with
      | 0 => toSlice s port 0 m
      | st => answer s src (portInput port) m 1 0 st []
    | 2 =>
      match s.ingressStatus m true with
      | 0 => toSlice s port 2 m
      | st => answer s src (portInput port) m 3 0 st []
    | 4 =>
      match s.ingressStatus m true, fetchFields m with
      | 0, some f => ingressArrival s port m f
      | st, _ => answer s src (portInput port) m 5 1 st [0#128]
    | 6 =>
      if !s.groupAccepts m then s.raise (fabReg 0x018) 3
      else if s.ingressStatus m false ≠ 0 then s.raise (fabReg 0x018) 1
      else toSlice s port 2 m
    | 1 => toRequester s src (portInput port) 1 m.txn.toNat m.status.toNat 0#64 (slotBytes m.slots)
    | 3 => toRequester s src (portInput port) 3 m.txn.toNat m.status.toNat 0#64 []
    | 5 =>
      fabricReply 64 s port src (portInput port) m.srcMod.toNat m.pa.toNat m.txn.toNat m.status.toNat (replyValue m)
    | _ =>
      let s := if m.fclass = 7#4 then stampEvent s false port m else s
      if s.ptpAccepts false port m then s.modNet fun n => { n with received := n.received ++ [(port, m)] } else s

/-! ### The slices' input queues (R83, R93, R106) -/

/-- A request of another module is performed at its slice at scope .fab, and answered (R93). -/
def performIngress (s : State) (die stop : Nat) (p : Packet) (m : FabricMessage) : State :=
  let pa := m.pa.toNat
  let port := 16 + slicePos pa
  let s := s.dropPacket p.id
  match m.fclass.toNat with
  | 0 =>
    let line := pa / 128 * 128
    if s.poisonedAt line 1 then answer s (die, stop) port m 1 0 2 []
    else
      let bs := (askedSectors m).flatMap fun k => sliceRead s (line + 32 * k) 32
      answer (s.noteRead line (askedSectors m).length) (die, stop) port m 1 (2 * (askedSectors m).length) 0 (bytesSlots 8 bs)
  | 2 => answer (maskedWrite s m) (die, stop) port m 3 0 0 []
  | _ => maskedWrite s m

/-- FETCH_OP_PERFORM (R83, R106): the slice in position c at stop b of die a serves the request that R83 chooses. A
fetch-and-operate is performed, once, and answered; a malformed one performs nothing and is answered with STATUS 1 (R102). -/
def execFetchOpPerform (s : State) : Result :=
  let die := s.arg.a
  let stop := s.arg.b
  match s.arbitrate die (s.net.packets.filter fun p => p.place == .slice die stop && slicePos p.pa == s.arg.c) with
  | none => .next s
  | some (p, guard) =>
    let counted (s : State) : State := if guard then s.count (lopReg die 0x20) 48 1 else s
    match p.body with
    | .fetchOp x x2 _ aop w _ _ _ _ =>
      if s.readHeld p.pa then .next (s.askLine p.pa p.gtag 1 true)
      else
        let s := ((counted s).leaveQueue p die stop).dropPacket p.id
        if 10 < aop || (aop = 8 && w) || p.rsv ≠ 0 then
          .next ((s.raise (lopReg die 0x08) 0).sendReply die stop (16 + slicePos p.pa) (returnOf p) 1 0#64)
        else
          let (status, old, s) := performAtomic s p.pa aop w x x2 p.gtag p.cmp
          .next (s.sendReply die stop (16 + slicePos p.pa) (returnOf p) status old)
    | .fabricIn _ m =>
      if (if p.cls = 0 then s.readHeld p.pa else s.hostHolds p.pa) then
        .next (s.askLine p.pa 0 (askedSectors m).length (p.cls != 0))
      else .next (performIngress (counted s) die stop p m)
    | _ =>
      let back := { Packet.make (p.cls + 1) (die, stop) (p.srcDie, p.srcStop) .other with
        pa := p.pa, txn := p.txn, len := if p.cls = 0 then 2 else 0 }
      .next (((counted s).dropPacket p.id).sendPacket back (16 + slicePos p.pa))

/-- A reply splits at a wait-buffer entry of a stop (R103). -/
def splitReply (s : State) (die stop : Nat) (idx status : Nat) (v : BitVec 64) : State :=
  match s.net.waits.find? fun w => w.point == .stop die stop && w.idx == idx with
  | some w =>
    if w.sent then
      let s := s.modNet fun n => { n with waits := n.waits.filter fun x => !(x.point == .stop die stop && x.idx == idx) }
      let s := s.sendReply die stop 16 w.first status v
      s.sendReply die stop 16 w.second status (if status = 0 then aopApply w.aop w.w v w.e else v)
    else s.raise (lopReg die 0x08) 0
  | none => s.raise (lopReg die 0x08) 0

/-- WAIT_BUFFER_REPLY (R103, R112): reply a reaches the wait-buffer entry that it names; a SENT entry sends v to first and
v op e to second, or the failure to both, and is free again. A reply to a request of another module goes on at its port. -/
def execWaitBufferReply (s : State) : Result :=
  match s.packet s.arg.a with
  | none => .next s
  | some p =>
    match p.place, p.body with
    | .ejected die stop _, .fetchReply status v cmb =>
      if p.dstDie ≠ die || p.dstStop ≠ stop then .next s
      else
        match s.net.ingress.find? fun x => some x.id == p.via with
        | some x =>
          let s := (s.dropPacket p.id).modNet fun n => { n with ingress := n.ingress.filter fun y => y.id ≠ x.id }
          .next (ingressReply 64 s x.port x.return_ x.pa status v)
        | none => if cmb then .next (splitReply (s.dropPacket p.id) die stop p.txn status v) else .next s
    | _, _ => .next s

/-! ### Flits (R87 to R92) -/

/-- Messages and flits up to an acknowledged one leave the replay buffer (R88, R89). -/
def Port.acked (p : Port) (ack : BitVec 12) : Port :=
  if p.replay.any fun f => f.seq == ack then
    let gone := (p.replay.takeWhile fun f => f.seq != ack).map (fun f => f.seq) ++ [ack]
    { p with
      replay := (p.replay.dropWhile fun f => f.seq != ack).drop 1, sent := p.sent.filter fun x => !gone.contains x.1,
      replays := 0 }
  else p

/-- Credit that a flit returns (R88). -/
def Port.credited (p : Port) (f : Flit) : Port :=
  { p with credits := p.credits.set f.cvc.toNat (p.credits.getD f.cvc.toNat 0 + 4 * f.crn.toNat) }

/-- A number added to one of three by virtual channel. -/
def addAt (xs : List Nat) (vc n : Nat) : List Nat := xs.set vc (xs.getD vc 0 + n)

/-- Slots that received messages free, by virtual channel (R91). -/
def freedSlots (freed : List Nat) (ms : List FabricMessage) : List Nat :=
  ms.foldl (fun xs m => addAt xs (channelOf m.fclass.toNat) (m.slots.length + 1)) freed

/-- A flit that carries no message: an acknowledgement, with the credit of a channel in units of four slots (R88). -/
def controlFlit (p : Port) (vc crn : Nat) : Flit := sealFlit ⟨p.txSeq, p.rxSeq - 1#12, BitVec.ofNat 2 vc, BitVec.ofNat 6 crn, 0#32, []⟩

/-- A port answers a good flit: what it has freed is returned channel by channel, in whole units of four slots; the rest is
kept (R88, R91). -/
def Port.answerFlit (p : Port) : Port :=
  let vcs := (List.range 3).filter fun vc => decide (4 ≤ p.freed.getD vc 0)
  let flits := if vcs.isEmpty then [controlFlit p 0 0] else vcs.map fun vc => controlFlit p vc (min 63 (p.freed.getD vc 0 / 4))
  { p with
    wire := p.wire ++ flits,
    freed := vcs.foldl (fun xs vc => xs.set vc (xs.getD vc 0 - 4 * min 63 (xs.getD vc 0 / 4))) p.freed }

/-- FLIT_RECEIVE (R88 to R90): flit arg.flit, as FEC has left it, arrives at port a. A bad one is answered with an ACK of the last good flit; one out
of sequence is discarded; an ACK that acknowledges nothing new while flits are outstanding makes this side replay. The
messages that end in a flit are delivered; the slots of one that goes on are kept for the next. -/
def execFlitReceive (s : State) : Result :=
  let f := s.arg.flit
  let no := s.arg.a
  let p := s.port no
  if !p.up then .next s
  else if !goodFlit f then .next (s.setPort { p with wire := p.wire ++ [controlFlit p 0 0] })
  else if f.slots.isEmpty then
    let q := (p.acked f.ack).credited f
    if q.replay = p.replay && !p.replay.isEmpty then
      let n := p.replays + 1
      let s := s.setPort { q with replays := n, wire := q.wire ++ q.replay }
      let s := s.setField (fabReg (0x1800 + 8 * no)) 63 32 (s.field (fabReg (0x1800 + 8 * no)) 63 32 + 1)
      .next (if 16 ≤ n then s.event .portDown { a := no } else s)
    else .next (s.setPort { q with replays := 0 })
  else if f.seq ≠ p.rxSeq then .next s
  else
    let r := readSlots 32 (p.rx ++ f.slots.take 15)
    let q := (p.acked f.ack).credited f
    let q := { q with rxSeq := p.rxSeq + 1#12, rx := r.2, freed := freedSlots q.freed r.1 }
    .next (r.1.foldl (fun s m => deliver s no m) (s.setPort q.answerFlit))

/-- When the number of a trunk's ports has changed, what a lost port has sent and queued, and every message queued on the ports that
are up and not begun, chooses its port again, in this order: a later message to the same lines stays behind (R92). -/
def reroute (s : State) (trunk : Nat) (lost : List FabricMessage) : State :=
  let ports := s.upPorts trunk
  let waiting := lost ++ ports.flatMap fun i => (s.port i).queue
  let s := ports.foldl (fun s i => s.setPort { s.port i with queue := [] }) s
  waiting.foldl
    (fun s m => match s.routePort m.dstMod.toNat m.pa.toNat with
      | some no => s.setPort { s.port no with queue := (s.port no).queue ++ [m], trunk := trunk }
      | none => refuseMessage s hostStop 16 m) s

/-- PORT_DOWN (R87, R92): the port goes down; what it has sent and was not acknowledged goes out first by the ports that are left,
then its queue. -/
def execPortDown (s : State) : Result :=
  let no := s.arg.a
  let p := s.port no
  if !p.up then .next s
  else
    let t := s.portTrunk no
    let s := (s.raise (fabReg 0x018) 0).setField (fabReg (0x1800 + 8 * no)) 1 0 0
    let s := s.setPort { Port.blank no with lanes := p.lanes, wire := p.wire }
    .next (reroute s t (p.sent.map (fun x => x.2) ++ p.queue))

/-- LANE_TRAINING_FAIL (R87): lane b of port a fails; the port runs at half rate, or is down with both failed. -/
def execLaneTrainingFail (s : State) : Result :=
  let no := s.arg.a
  let p := s.port no
  let lanes := p.lanes &&& ~~~ BitVec.ofNat 2 (2 ^ (s.arg.b % 2))
  let s := s.setPort { p with lanes := lanes }
  if lanes = 0#2 then
    (if p.up then execPortDown { s with arg := { s.arg with a := no } } else .next s)
  else .next (s.setField (fabReg (0x1800 + 8 * no)) 1 1 (natOfBool p.up))

/-- FABRIC_PORT_UP (R87): an enabled port with a lane left comes up, at half rate on one lane. -/
def execFabricPortUp (s : State) : Result :=
  let no := s.arg.a
  let p := s.port no
  if no < 144 && s.field (fabReg (0x1000 + 8 * no)) 8 8 = 1 && p.lanes ≠ 0#2 && !p.up then
    let s := (s.setPort { p with up := true }).setField (fabReg (0x1800 + 8 * no)) 0 0 1
    let s := s.setField (fabReg (0x1800 + 8 * no)) 1 1 (natOfBool (p.lanes ≠ 3#2))
    .next (reroute s (s.portTrunk no) [])
  else .next s

/-- The message that a port sends next (R91): channel 2, then 1, then 0; each in order; only a message whose slots fit
the channel's credits. -/
def nextMessage (p : Port) : Option FabricMessage :=
  [2, 1, 0].findSome? fun vc =>
    match p.queue.find? fun m => channelOf m.fclass.toNat == vc with
    | some m => if m.len.toNat + 1 ≤ p.credits.getD vc 0 then some m else none
    | none => none

/-- The slots of a port's next flit, and the messages that begin in it: what an earlier message has left, then the next messages
while there is room; an event message begins at slot 0 (R88, R90, R95). -/
def fillFlit (fuel : Nat) (p : Port) (slots : List (BitVec 128)) (begun : List FabricMessage) :
    Port × List (BitVec 128) × List FabricMessage :=
  match fuel with
  | 0 => (p, slots, begun)
  | fuel + 1 =>
    if 15 ≤ slots.length then (p, slots, begun)
    else
      match nextMessage p with
      | none => (p, slots, begun)
      | some m =>
        if m.fclass = 7#4 && !slots.isEmpty then (p, slots, begun)
        else
          let vc := channelOf m.fclass.toNat
          let room := 15 - slots.length
          let ends := if (wireSlots m).length ≤ room then p.txSeq else p.txSeq + 1#12
          fillFlit fuel
            { p with
              queue := p.queue.erase m, tx := (wireSlots m).drop room, sent := p.sent ++ [(ends, m)],
              credits := p.credits.set vc (p.credits.getD vc 0 - (m.len.toNat + 1)) }
            (slots ++ (wireSlots m).take room) (begun ++ [m])

/-- What follows the start of a message on the wire: an event message is stamped (R95), and the wait-buffer entries that a
combined one stands for become SENT (R103). -/
def messageSent (s : State) (no : Nat) (m : FabricMessage) : State :=
  if m.fclass = 7#4 then stampEvent s true no m
  else if m.fclass = 4#4 && decide (m.txn.toNat < 32) then
    s.modNet fun n => { n with waits := markEgress 64 n.waits m.dstMod.toNat m.pa.toNat m.txn.toNat }
  else s

/-- Port a sends its next flit, which stays in the replay buffer of 256 until it is acknowledged (R89, R91). -/
def sendFlit (s : State) (no : Nat) : State :=
  let p := s.port no
  if !p.up || decide (256 ≤ p.replay.length) then s
  else
    let r := fillFlit 16 { p with tx := [] } p.tx []
    if r.2.1.isEmpty then s
    else
      let f : Flit := sealFlit ⟨p.txSeq, p.rxSeq - 1#12, 0#2, 0#6, 0#32, r.2.1⟩
      let q := { r.1 with txSeq := p.txSeq + 1#12, replay := p.replay ++ [f], wire := p.wire ++ [f] }
      r.2.2.foldl (fun s m => messageSent s no m) (s.setPort q)

/-- A message stands at the stop where it entered the network, its port still `noPort`, or at its port's stop (R92). It waits while its
entry of the route table must be given back by the host or reconstructed (R119, R64), and at its port for an older one to the same
module and line that is still on its way. It joins the queue of the port that it takes now, or goes on to that port's stop. -/
def portArrival (s : State) (p : Packet) (die stop port : Nat) (m : FabricMessage) : State :=
  let older (q : Packet) : Bool := decide (q.id < p.id) && match q.body with
    | .fabricOut _ x => x.dstMod == m.dstMod && x.pa.toNat / 128 == m.pa.toNat / 128
    | _ => false
  if s.readHeld (s.routeAt m.dstMod.toNat) then s.askLine (s.routeAt m.dstMod.toNat) 0 1 false
  else if decide (port ≠ noPort) && s.net.packets.any older then s
  else
    match s.routePort m.dstMod.toNat m.pa.toNat with
    | some no =>
      if no = port then enqueue (s.dropPacket p.id) port m
      else
        s.arriveAt
          { p with
            srcDie := die, srcStop := stop, dstDie := (portStop no).1, dstStop := (portStop no).2, body := .fabricOut no m }
          die stop 16
    | none => refuseMessage (s.dropPacket p.id) (die, stop) 16 m

/-- FABRIC_MESSAGE_SEND (R91, R94, R95): port a sends its next flit. With flag set, message b stands at a stop to be routed. With
c = 1 firmware hands port a the IEEE 1588 message whose slots arg.flit holds, c = 2 the multicast write of that form; it goes
out by the route of R94. -/
def execFabricMessageSend (s : State) : Result :=
  let no := s.arg.a
  match s.arg.c with
  | 1 =>
    match s.arg.flit.slots with
    | h :: data =>
      let m := messageOf h data
      if (m.fclass = 7#4 || m.fclass = 8#4) && !malformed m && s.ptpAccepts true no m && (s.port no).up then
        .next (enqueue s no m)
      else .next s
    | [] => .next s
  | 2 =>
    match s.arg.flit.slots with
    | h :: data =>
      let m := messageOf h data
      if m.fclass = 6#4 && !malformed m then .next (sendMessage s hostStop 16 0 [] 0 m) else .next s
    | [] => .next s
  | _ =>
    if s.arg.flag then
      match s.packet s.arg.b with
      | some p =>
        match p.place, p.body with
        | .ejected die stop _, .fabricOut port m =>
          .next (if p.dstDie = die && p.dstStop = stop then portArrival s p die stop port m else s)
        | _, _ => .next s
      | none => .next s
    else .next (sendFlit s no)

end Sys2Proof.Machine
end

