-- ==== Sys2Proof/Machine/Operands.lean ====
section
/-!
DEFINITION. Operand forms: the addresses of memory instructions (R244, R245, R359 to R361, R364), the active lanes of a
vector instruction (R317), and the elements of a vector register (R317, R320).
-/

namespace Sys2Proof.Machine

/-- Bytes of an SZ code (R359). -/
def sizeOf_ (z : BitVec 2) : Nat := 2 ^ z.toNat

/-- sA plus the signed immediate scaled by the access size (R244, R359). -/
def State.offsetAddr (s : State) (a : SReg) (i : BitVec 6) (z : BitVec 2) : Word :=
  s.sreg a + i.signExtend 64 * BitVec.ofNat 64 (sizeOf_ z)

/-- The low bytes of a word extended to 64 bits (R359). -/
def extendBytes (bs : List Byte) (sx : Bool) : Word :=
  let v := leNat bs
  let n := 8 * bs.length
  if sx && v.testBit (n - 1) then BitVec.ofInt 64 ((v : Int) - 2 ^ n) else BitVec.ofNat 64 v

/-- SA names s0 to s7 (R245). -/
def wideReg (a : BitVec 3) : SReg := a.zeroExtend 6

/-! ### Lanes and elements -/

/-- Element e of width w of a register (R317). -/
def elemOf (v : VReg) (w e : Nat) : Nat := v.toNat / 2 ^ (w * e) % 2 ^ w

/-- A 32-bit lane. -/
def laneOf (v : VReg) (l : Nat) : BitVec 32 := v.extractLsb' (32 * l) 32

/-- A register from the values of its elements, lowest first. -/
def ofElems (w : Nat) (xs : List Nat) : VReg :=
  BitVec.ofNat 4096 (xs.foldr (fun x n => x % 2 ^ w + 2 ^ w * n) 0)

/-- A register with one 32-bit lane replaced. -/
def setLane (v : VReg) (l : Nat) (x : BitVec 32) : VReg :=
  (v &&& ~~~(((0xFFFFFFFF#32).zeroExtend 4096) <<< (32 * l))) ||| (x.zeroExtend 4096 <<< (32 * l))

/-- The bit mask of the lanes of a lane mask, 32 bits each. -/
def spread (m : LaneMask) : VReg :=
  ofElems 32 ((List.range 128).map fun l => if m.getLsbD l then 0xFFFFFFFF else 0)

/-- A write that replaces only the lanes of a mask (R317, R318). -/
def mergeLanes (old new : VReg) (m : LaneMask) : VReg :=
  if m = BitVec.allOnes 128 then new else (old &&& ~~~ spread m) ||| (new &&& spread m)

/-- Lanes of a mask, ascending. -/
def lanesOf (m : LaneMask) : List Nat := (List.range 128).filter fun l => m.getLsbD l

/-- The active lanes of an instruction with a predicate (R317). -/
def State.active (s : State) (p : BitVec 4) : LaneMask := s.me.frag.mask &&& s.me.pred p.toNat

/-- The current fragment's lanes. -/
def State.mask (s : State) : LaneMask := s.me.frag.mask

/-- A vector destination with the lanes of a mask written. -/
def State.setLanes (s : State) (d : VNum) (j : Nat) (v : VReg) (m : LaneMask) : State :=
  s.setVAt d j (mergeLanes (s.vregAt d j) v m)

/-! ### Stream registers (R376) -/

/-- Every stream register reads zero at admission. -/
def StreamReg.zero : StreamReg :=
  ⟨0#64, 0#64, 0#64, 0#32, 0#32, 0#32, 0#32, 0#32, 0#32, 0#32, 0#32, 0#8, 0#8, 0#8, 0#40⟩

def Job.greg (j : Job) (n : Nat) : StreamReg := tableGet j.gregs n StreamReg.zero

def Job.setGreg (j : Job) (n : Nat) (g : StreamReg) : Job :=
  { j with gregs := tableSet j.gregs n g StreamReg.zero }

/-- The 64-byte image of a stream register. -/
def StreamReg.bytes (g : StreamReg) : List Byte :=
  leBytes 8 g.base.toNat ++ leBytes 8 g.sclBase.toNat ++ leBytes 8 g.sideBase.toNat ++ leBytes 4 g.rstride.toNat ++
  leBytes 4 g.sstride.toNat ++ leBytes 4 g.sideStride.toNat ++ leBytes 4 g.exti.toNat ++ leBytes 4 g.extk.toNat ++
  leBytes 4 g.curi.toNat ++ leBytes 4 g.curk.toNat ++ leBytes 4 g.kcount.toNat ++ leBytes 1 g.fmt.toNat ++
  leBytes 1 g.ctl.toNat ++ leBytes 1 g.coop.toNat ++ leBytes 5 g.rsv.toNat

/-- Little-endian field of an image. -/
def imageField (bs : List Byte) (off n : Nat) : Nat := leNat ((bs.drop off).take n)

/-- The stream register that an image gives. -/
def StreamReg.ofBytes (bs : List Byte) : StreamReg :=
  { base := BitVec.ofNat 64 (imageField bs 0 8), sclBase := BitVec.ofNat 64 (imageField bs 8 8),
    sideBase := BitVec.ofNat 64 (imageField bs 16 8), rstride := BitVec.ofNat 32 (imageField bs 24 4),
    sstride := BitVec.ofNat 32 (imageField bs 28 4), sideStride := BitVec.ofNat 32 (imageField bs 32 4),
    exti := BitVec.ofNat 32 (imageField bs 36 4), extk := BitVec.ofNat 32 (imageField bs 40 4),
    curi := BitVec.ofNat 32 (imageField bs 44 4), curk := BitVec.ofNat 32 (imageField bs 48 4),
    kcount := BitVec.ofNat 32 (imageField bs 52 4), fmt := BitVec.ofNat 8 (imageField bs 56 1),
    ctl := BitVec.ofNat 8 (imageField bs 57 1), coop := BitVec.ofNat 8 (imageField bs 58 1),
    rsv := BitVec.ofNat 40 (imageField bs 59 5) }

end Sys2Proof.Machine
end

