-- ==== Sys2Proof/Machine/Ready.lean ====
section
/-!
DEFINITION. Readiness (R194, R198 rule 1, R205, R207): which jobs issue, the fetch of an instruction's bytes, the registers that
it reads or writes, and whether it could issue now.
-/

namespace Sys2Proof.Machine

/-! ### The registers of an instruction (R198 rule 1) -/

/-- A group of vector registers, from its first one, and whether it is written. -/
structure VUse where
  first : BitVec 6
  count : Nat
  write : Bool

def reads (v : BitVec 6) (n : Nat := 1) : VUse := ⟨v, n, false⟩
def writes (v : BitVec 6) (n : Nat := 1) : VUse := ⟨v, n, true⟩

/-- Registers of CVT's wider side (R335). -/
def cvtRatio (ws wd : Nat) : Nat := max ws wd / min ws wd

/-- Registers that TEX may write: its descriptor, which is read when it executes, says how many of these (R419, log entry 155). -/
def texGroup (d : BitVec 6) : Nat := if d.toNat % 4 = 0 then 4 else if d.toNat % 2 = 0 then 2 else 1

/-- The vector registers that an instruction reads or writes, before rotation. -/
def vectorUses (i : Instr) : List VUse :=
  match i with
  | .fadd d a b _ _ => [reads a, reads b, writes d]
  | .fsub d a b _ _ => [reads a, reads b, writes d]
  | .fmul d a b _ _ => [reads a, reads b, writes d]
  | .ffma d a b _ _ => [reads a, reads b, writes d]
  | .ffms d a b _ _ => [reads a, reads b, writes d]
  | .fmin d a b _ _ => [reads a, reads b, writes d]
  | .fmax d a b _ _ => [reads a, reads b, writes d]
  | .fcmp _ _ a b _ _ => [reads a, reads b]
  | .funSpecial d a _ _ _ => [reads a, writes d]
  | .fsgnCpy d a b _ _ => [reads a, reads b, writes d]
  | .fsgnXor d a b _ _ => [reads a, reads b, writes d]
  | .iadd d a b _ _ => [reads a, reads b, writes d]
  | .isub d a b _ _ => [reads a, reads b, writes d]
  | .imul d a b _ _ => [reads a, reads b, writes d]
  | .imad d a b _ _ => [reads a, reads b, writes d]
  | .imadw d a b _ t => [reads a, reads b, writes d (if intWidth t = 8 then 4 else 2)]
  | .iadds d a b _ _ => [reads a, reads b, writes d]
  | .isubs d a b _ _ => [reads a, reads b, writes d]
  | .imin d a b _ _ => [reads a, reads b, writes d]
  | .imax d a b _ _ => [reads a, reads b, writes d]
  | .icmp _ _ a b _ _ => [reads a, reads b]
  | .logic d a b _ _ => [reads a, reads b, writes d]
  | .shift d a b _ _ _ => [reads a, reads b, writes d]
  | .iabs d a _ _ => [reads a, writes d]
  | .popcV d a _ _ => [reads a, writes d]
  | .clzV d a _ _ => [reads a, writes d]
  | .cvt d a sf sty df _ dty =>
    let ws := cvtWidth sf sty
    let wd := cvtWidth df dty
    if ws ≤ wd then [reads a, writes d (cvtRatio ws wd)] else [reads a (cvtRatio ws wd), writes d]
  | .qnt d a b _ _ => [reads a, reads b, writes d]
  | .dqn d a b _ _ => [reads a, reads b 2, writes d]
  | .req d a b q _ => [reads a (if q.getLsbD 0 then 2 else 1), reads b 2, writes d]
  | .pack d a b _ _ => [reads a, reads b, writes d]
  | .unpk d a _ _ => [reads a, writes d 2]
  | .shuf d a b _ _ => [reads a, reads b, writes d]
  | .bcast d a b _ _ => [reads a, reads b, writes d]
  | .slide d a _ _ _ _ => [reads a, writes d]
  | .zip d a b _ _ => [reads a, reads b, writes d 2]
  | .unzip d a b _ _ => [reads a, reads b, writes d 2]
  | .scan d a _ _ _ => [reads a, writes d]
  | .red d a _ _ _ => [reads a, writes d]
  | .part d a b _ _ => [reads a, writes d, writes b]
  | .vmov d a _ => [reads a, writes d]
  | .vsplat d _ _ _ => [writes d]
  | .vld d _ _ _ _ _ _ => [writes d]
  | .vst d _ _ _ _ _ _ => [reads d]
  | .vlds d _ _ _ _ _ _ => [writes d]
  | .vsts d _ _ _ _ _ _ => [reads d]
  | .vgath d b _ _ _ _ _ => [reads b, writes d]
  | .vscat d b _ _ _ _ _ => [reads b, reads d]
  | .vatom d b _ _ _ _ _ => [reads b, writes d]
  | .vcas d b _ _ _ _ => [reads b, writes (d.zeroExtend 6 <<< 1) 2]
  | .qsend _ a => [reads a]
  | .qrecv d _ => [writes d]
  | .vmx d a b _ _ => [reads a, reads b, writes d]
  | .rayQ d a _ _ => [reads a, writes d]
  | .rayHit d a _ _ => [reads a, writes d 4]
  | .rayRes d a _ _ => [reads a, reads d 4]
  | .tex2d d a _ _ => [reads a 2, writes d (texGroup d)]
  | .tex3d d a _ _ => [reads a 4, writes d (texGroup d)]
  | .texFetch d a _ _ => [reads a 4, writes d (texGroup d)]
  | .visLd d a _ _ => [reads a, writes d 3]
  | .visLdRel d a _ _ => [reads a, writes d 3]
  | .primEmit d a b _ => [reads d, reads a 8, reads b 2]
  | _ => []

/-- The registers, after rotation, that the issuing instruction needs resident, and whether it writes each. -/
def State.needs (s : State) (i : Instr) : List (Nat × Bool) :=
  (vectorUses i).flatMap fun u => (List.range u.count).map fun k => (s.me.rotate (u.first.toNat + k), u.write)

/-! ### Who may issue -/

/-- A job whose operations go on. -/
def Job.works (j : Job) : Bool := j.state == .resident && !j.hardStop

/-- A job whose budget is used up (R169). -/
def Job.expired (j : Job) : Bool := j.state == .resident && !j.hardStop && decide (j.budget ≤ j.canary)

/-- The streams of a job issue: it is resident, on a powered core, neither stopped nor leaving, and its range locks
stand (R163, R169, R400). -/
def State.jobIssues (s : State) (j : Job) : Bool :=
  j.works && !j.preempt && !j.expired && s.sys.power.compute &&
    !s.locks.any fun l => l.job == j.id && l.core.isNone

/-- The owner of a stream lets it issue; management cores do once firmware has been started (R134). -/
def State.ownerIssues (s : State) (o : Owner) : Bool :=
  match o with
  | .mgmt _ =>
    match s.sys.boot with
    | .awaitGood _ => true
    | .good => true
    | _ => false
  | .job j =>
    match s.job j with
    | some x => s.jobIssues x
    | none => false

/-- A fragment with an instruction to issue. -/
def Frag.ready (f : Frag) : Bool := f.parked.isNone && (f.wait == .running || f.woken)

/-! ### Fetch (R194, R238) -/

/-- The code section of a job on an engine (R194). -/
def Job.section (j : Job) (e : Engine) : Option Section :=
  j.sections.find? fun x => x.engine == e

/-- The four bytes at the program counter of the issuing stream: from its engine's section, or from the firmware image;
outside the section there are none. -/
def State.fetch (s : State) : Option (List Byte) :=
  if s.pc.toNat % 4 ≠ 0 then none
  else if s.isMgmt then some (cellsGet s.sys.firmware s.pc.toNat 4)
  else
    match s.myJob.section s.me.engine with
    | some x =>
      if x.base.toNat ≤ s.pc.toNat && decide (s.pc.toNat + 4 ≤ x.base.toNat + x.size) then
        some (cellsGet x.bytes (s.pc.toNat - x.base.toNat) 4)
      else none
    | none => none

/-! ### Pending registers (R205, R299) -/

/-- The scalar registers that an instruction reads or writes. -/
def scalarUses (i : Instr) : List SReg :=
  match i with
  | .trap a => [a]
  | .sleep d a => [d, a]
  | .watch a => [a]
  | .mfs d _ => [d]
  | .mts _ b => [b]
  | .resume d a => [d, a]
  | .kill d a => [d, a]
  | .tlbi d a b => [d, a, b]
  | .add d a b => [d, a, b]
  | .sub d a b => [d, a, b]
  | .mul d a b => [d, a, b]
  | .mulhs d a b => [d, a, b]
  | .mulhu d a b => [d, a, b]
  | .divs d a b => [d, a, b]
  | .divu d a b => [d, a, b]
  | .rems d a b => [d, a, b]
  | .remu d a b => [d, a, b]
  | .and d a b => [d, a, b]
  | .or d a b => [d, a, b]
  | .xor d a b => [d, a, b]
  | .andn d a b => [d, a, b]
  | .shl d a b => [d, a, b]
  | .shr d a b => [d, a, b]
  | .sar d a b => [d, a, b]
  | .rol d a b => [d, a, b]
  | .min d a b => [d, a, b]
  | .max d a b => [d, a, b]
  | .minu d a b => [d, a, b]
  | .maxu d a b => [d, a, b]
  | .seq d a b => [d, a, b]
  | .sne d a b => [d, a, b]
  | .slt d a b => [d, a, b]
  | .sltu d a b => [d, a, b]
  | .sel d a b => [d, a, b]
  | .step2 d a b => [d, a, b]
  | .wrap d a b => [d, a, b]
  | .crewInfo d a b => [d, a, b]
  | .barArr d a b => [d, a, b]
  | .barWait d a b => [d, a, b]
  | .barAw d a b => [d, a, b]
  | .launch d a b => [d, a, b]
  | .govqOpen d a b => [d, a, b]
  | .govqNext d a b => [d, a, b]
  | .semAdd d a b => [d, a, b]
  | .semAddRing d a b => [d, a, b]
  | .qbindOut d a b => [d, a, b]
  | .clz d a => [d, a]
  | .ctz d a => [d, a]
  | .popc d a => [d, a]
  | .brev d a => [d, a]
  | .crewJoin d a => [d, a]
  | .crewLeave d a => [d, a]
  | .semWait d a => [d, a]
  | .qbindIn d a => [d, a]
  | .qbindUn d a => [d, a]
  | .qbindQ d a => [d, a]
  | .lea d a b _ => [d, a, b]
  | .ahi d _ => [d]
  | .addi d a _ => [d, a]
  | .andi d a _ => [d, a]
  | .ori d a _ => [d, a]
  | .xori d a _ => [d, a]
  | .shli d a _ => [d, a]
  | .shri d a _ => [d, a]
  | .sari d a _ => [d, a]
  | .slti d a _ => [d, a]
  | .sltui d a _ => [d, a]
  | .muli d a _ => [d, a]
  | .bl _ => [63#6]
  | .bc _ a _ => [a]
  | .bcBset a _ _ => [a]
  | .bcBclr a _ _ => [a]
  | .br a => [a]
  | .blr a => [a, 63#6]
  | .ret => [63#6]
  | .loop _ n _ => [n]
  | .loopx _ n _ => [n]
  | .loopSp _ n _ _ => [n]
  | .tokPeek d _ => [d]
  | .ld d a _ _ _ _ _ => [d, a]
  | .st d a _ _ _ _ => [d, a]
  | .ldx d a _ _ _ => [d, a]
  | .ldxPeer d a b _ _ _ => [d, a, b]
  | .stx d a _ _ => [d, a]
  | .stxPeer d a b _ _ => [d, a, b]
  | .atomAdd d a b _ _ _ _ => [d, a, b]
  | .atomAnd d a b _ _ _ _ => [d, a, b]
  | .atomOr d a b _ _ _ _ => [d, a, b]
  | .atomXor d a b _ _ _ _ => [d, a, b]
  | .atomMin d a b _ _ _ _ => [d, a, b]
  | .atomMax d a b _ _ _ _ => [d, a, b]
  | .atomSwap d a b _ _ _ _ => [d, a, b]
  | .atomCas d a b _ _ _ _ => [d, a, b]
  | .atomMinu d a b _ _ _ _ => [d, a, b]
  | .atomMaxu d a b _ _ _ _ => [d, a, b]
  | .atomFadd d a b _ _ _ => [d, a, b]
  | .fenceRem a _ => [a]
  | .wqry a _ => [a]
  | .govqMark b => [b]
  | .cflush a b _ => [a, b]
  | .pf a b _ _ => [a, b]
  | .pset _ x y => [x, y]
  | .vsplat _ a _ _ => [a]
  | .vld _ b a _ _ _ _ => [b, wideReg a]
  | .vst _ b a _ _ _ _ => [b, wideReg a]
  | .vlds _ b a _ _ _ _ => [b, wideReg a]
  | .vsts _ b a _ _ _ _ => [b, wideReg a]
  | .vgath _ _ a _ _ _ _ => [wideReg a]
  | .vscat _ _ a _ _ _ _ => [wideReg a]
  | .vatom _ _ a _ _ _ _ => [wideReg a]
  | .vcas _ _ a _ _ _ => [wideReg a]
  | .vmx _ _ _ c _ => [c]
  | .rayQ _ _ b _ => [b]
  | .rayHit _ _ b _ => [b]
  | .rayRes _ _ b _ => [b]
  | .tex2d _ _ b _ => [b]
  | .tex3d _ _ b _ => [b]
  | .texFetch _ _ b _ => [b]
  | .visLd _ _ b _ => [b]
  | .visLdRel _ _ b _ => [b]
  | .primOpen b => [b]
  | .guideOut d a b => [d, a, b]
  | .gset _ a _ => [a]
  | .gld _ a b _ _ => [a, b]
  | .gst _ a b _ _ => [a, b]
  | .gadv _ a b => [a, b]
  | .mdrain _ _ r _ => [r]
  | .mlda _ _ r => [r]
  | .mrescS _ r => [r]
  | .mrescRow _ _ r => [r]
  | .mrescCol _ _ r => [r]
  | .mmigWait a => [a]
  | .cp _ _ r _ _ => [r]
  | .cp2d _ _ r _ _ => [r]
  | .cp3d _ _ r _ _ => [r]
  | .cpMc _ _ r _ _ _ => [r]
  | .cpG _ _ r _ _ _ => [r]
  | .cpY _ _ r _ _ _ => [r]
  | .cpFill _ _ r _ _ => [r]
  | .cpSem _ r _ _ => [r]
  | .cpPf _ r _ => [r]
  | _ => []

/-- The stream registers that a matrix-engine instruction reads or writes. -/
def streamUses (i : Instr) : List (BitVec 4) :=
  match i with
  | .gset g _ _ => [g]
  | .gld g _ _ _ _ => [g]
  | .gst g _ _ _ _ => [g]
  | .gadv g _ _ => [g]
  | .mloop _ a b _ _ _ => [a, b]
  | .mloopC _ a b _ _ _ => [a, b]
  | .mstep _ a b _ _ _ => [a, b]
  | .mdrain _ g _ _ => [g]
  | .mlda _ g _ => [g]
  | .mrescRow _ g _ => [g]
  | .mrescCol _ g _ => [g]
  | _ => []

/-- A register that the instruction reads or writes has a pending write (R205), or a LOOPX slot that ends at it waits for one (R299).
Results that come later go to scalar, vector and stream registers only. -/
def State.scoreboardHolds (s : State) (i : Instr) : Bool :=
  s.me.loopPending || s.me.pending.any fun r => match r with
    | .s n => (scalarUses i).any fun x => x.toNat == n
    | .v n => (s.needs i).any fun u => u.1 == n
    | .g n => (streamUses i).any fun x => x.toNat == n
    | _ => false

/-! ### Resident registers (R198) -/

/-- Physical registers of a job: 128 for each REG granule, and one granule where it has vector streams and asks for none
(R197). -/
def Job.physical (j : Job) : Nat := 128 * max 1 (j.pword.extractLsb' 0 8).toNat

def Job.holds (j : Job) (strm reg : Nat) : Bool := j.resident.any fun e => e.1 == strm && e.2.1 == reg

/-- A register becomes the most recently used one. -/
def Job.touch (j : Job) (strm reg : Nat) (write : Bool) : Job :=
  let dirty := j.resident.any fun e => e.1 == strm && e.2.1 == reg && e.2.2
  { j with resident := (strm, reg, dirty || write) :: j.resident.filter fun e => !(e.1 == strm && e.2.1 == reg) }

def Job.drop (j : Job) (strm reg : Nat) : Job :=
  { j with resident := j.resident.filter fun e => !(e.1 == strm && e.2.1 == reg) }

/-- The least recently used register that no issued instruction still reads or writes. -/
def State.victim (s : State) (need : List (Nat × Bool)) : Option (Nat × Nat × Bool) :=
  let busy (strm reg : Nat) : Bool :=
    (strm == s.me.id.strm && need.any fun n => n.1 == reg) ||
      match s.stream ⟨s.me.id.owner, strm⟩ with
      | some st => st.pending.contains (.v reg)
      | none => false
  s.myJob.resident.reverse.find? fun e => !busy e.1 e.2.1

/-- What the issue of an instruction with these needs still wants: nothing, or one step of residence, from a state in which zero
registers and dropped victims have made way. -/
inductive Residence where
  | ready (s : State)
  | wants (s : State) (i : Instr) (a : EventArg)
  /-- no physical register is free, and each one is read or written by an issued instruction -/
  | waits

/-- Zero registers are made resident and clean victims dropped at once; a fill or a dirty victim's write takes a step of
its own, charged to the issuing fragment. -/
def residence (fuel : Nat) (s : State) (need : List (Nat × Bool)) : Residence :=
  match fuel with
  | 0 => .ready s
  | fuel + 1 =>
    let strm := s.me.id.strm
    match need.find? fun n => !s.myJob.holds strm n.1 with
    | none => .ready (need.foldl (fun s n => s.setJob fun j => j.touch strm n.1 n.2) s)
    | some (reg, _) =>
      if s.myJob.resident.length < s.myJob.physical then
        if s.me.spilled.contains reg then .wants s .registerFillDone { strm := s.me.id, a := reg, b := s.me.frag.id }
        else residence fuel (s.setJob fun j => j.touch strm reg false) need
      else
        match s.victim need with
        | none => .waits
        | some (vs, vr, dirty) =>
          if dirty then .wants s .registerSpillDone { strm := s.me.id, a := vr, b := s.me.frag.id, c := vs }
          else residence fuel (s.setJob fun j => j.drop vs vr) need

/-- Every register of the instruction is resident, or becomes so in the cycle in which its readiness is evaluated. -/
def State.registersReady (s : State) (i : Instr) : Bool :=
  match residence 64 s (s.needs i) with
  | .ready _ => true
  | _ => false

/-! ### The next instruction (R205) -/

/-- What a fragment's next instruction lacks: nothing, only a register that must be made resident, or anything else. A word that is
no instruction lacks nothing: it is issued, to raise its exception. -/
inductive Lack where
  | nothing
  | register
  | other
  deriving DecidableEq, Repr

/-- Another fragment of the stream awaits the acknowledgements of a TLBI, before which the stream issues nothing (R315). -/
def Stream.shotBy (st : Stream) (f : Frag) : Bool :=
  (st.frag :: st.frags).any fun g => g.id ≠ f.id && match g.wait with
    | .shootdown _ => true
    | _ => false

/-- A fragment's next instruction is looked at: its bytes are there, no register of it has a pending write, and its vector registers
are resident. -/
def State.lack (s : State) (st : Stream) (f : Frag) : Lack :=
  if !f.ready || st.shotBy f then .other
  else
    let t := s.select st.id f.id
    match t.fetch with
    | none => .nothing
    | some bs =>
      match decodeBytes (coreKind t.core) t.me.engine bs with
      | .instr i =>
        if t.scoreboardHolds i then .other
        else if t.me.isVector && !t.registersReady i then .register
        else .nothing
      | .reject _ => .nothing

/-- A fragment's next instruction is ready. -/
def State.nextReady (s : State) (st : Stream) (f : Frag) : Bool := s.lack st f == .nothing

/-- A fragment's next instruction waits for a register to be made resident, and for nothing else. -/
def State.lacksRegister (s : State) (st : Stream) (f : Frag) : Bool := s.lack st f == .register

/-- Some fragment of the stream has a ready instruction. -/
def State.streamReady (s : State) (st : Stream) : Bool :=
  !st.ended && s.ownerIssues st.id.owner && (st.frag :: st.frags).any fun f => s.nextReady st f

/-- A stream's owner is on a core. -/
def State.standsOn (s : State) (core : Nat) (o : Owner) : Bool :=
  match o with
  | .mgmt n => core == 544 + n
  | .job j => match s.job j with
    | some x => x.core == some core
    | none => false

/-- The streams of a core whose next instruction is ready, of some. -/
def State.readyOn (s : State) (core : Nat) (sts : List Stream) : Nat :=
  (sts.filter fun st => s.standsOn core st.id.owner && s.streamReady st).length

/-- SLACK of a request that the issuing instruction makes (R207): its core's streams whose next instruction is ready in the issue
cycle, over all engines, a diverged stream once, saturated at 63; the issuing stream's is. -/
def State.slack (s : State) : Nat := min (1 + s.readyOn s.core s.streams) 63

/-- SLACK of a request that an engine of a core makes, by the streams that are ready then. -/
def State.engineSlack (s : State) (core : Nat) : Nat := min (s.readyOn core (s.me :: s.streams)) 63

end Sys2Proof.Machine
end

