-- ==== Sys2Proof/Machine/Tokens.lean ====
section
/-!
DEFINITION. Tokens (R302, R303, R231) and the arms that engine operations and memory instructions take (R230, R357).
-/

namespace Sys2Proof.Machine

/-! ### Releases -/

/-- Transactions of the issuing stream. -/
def State.myTxns (s : State) : List Txn := s.net.txns.filter fun t => t.strm == s.me.id

/-- The release half of an access (R220): every earlier access of the stream has performed, the core's buffer drains
and, at .die or wider, its cluster's dirty lines are written back; the access waits while a line cannot go. -/
def releaseThen (s : State) (rel : Bool) (scope : Nat) (k : State → Result) : Result :=
  if !rel then k s
  else if !s.myTxns.isEmpty then .next s.stall
  else
    let s := releaseAt s s.core scope
    if releasedAt s s.core scope then k s else .next s.stall

/-! ### Tokens -/

/-- Count of a token FIFO (R302). -/
def Job.token (j : Job) (k : Nat) : Nat := tableGet j.tokens k 0

def Job.setToken (j : Job) (k n : Nat) : Job := { j with tokens := tableSet j.tokens k n 0 }

/-- A give of a token waits. -/
def Job.gives (j : Job) (k : BitVec 3) : Bool := j.lateGives.any fun g => g.tok == k

/-- A give that lands (R302): at a count of 16, or behind one that waits, it waits (R303). -/
def Job.give (j : Job) (k : BitVec 3) : Job :=
  if 16 ≤ j.token k.toNat || j.gives k then { j with lateGives := j.lateGives ++ [⟨k, Option.none⟩] }
  else j.setToken k.toNat (j.token k.toNat + 1)

/-- Armed gives that wait land, oldest first, while the count of their token is below 16 and no TOK.GIVE waits before them (R302,
R303). -/
def settleGives (gs kept : List LateGive) (j : Job) : Job :=
  match gs with
  | [] => { j with lateGives := kept }
  | g :: rest =>
    if j.token g.tok.toNat < 16 && g.by_.isNone && !(kept.any fun x => x.tok == g.tok) then
      settleGives rest kept (j.setToken g.tok.toNat (j.token g.tok.toNat + 1))
    else settleGives rest (kept ++ [g]) j

def Job.settle (j : Job) : Job := settleGives j.lateGives [] j

/-- A count taken from a token (R302). -/
def Job.take (j : Job) (k : BitVec 3) : Job := (j.setToken k.toNat (j.token k.toNat - 1)).settle

/-- Fragments of a job: those that issue now or wait in any of its streams. -/
def State.jobFrags (s : State) (j : JobId) : List Frag :=
  (s.streamsOf j).flatMap fun st => if st.ended then [] else st.frag :: st.frags

/-- Ticket of a wait to take a token. -/
def takeTicket (k : BitVec 3) (f : Frag) : Option Nat :=
  match f.wait with
  | .take t n => if t = k.toNat then some n else none
  | _ => none

/-- Some fragment of the issuing job began to wait before this one did. -/
def State.behind (s : State) (ticket : Frag → Option Nat) : Bool :=
  (s.jobFrags s.myJob.id).any fun f =>
    match ticket f, ticket s.me.frag with
    | some n, some m => decide (n < m)
    | some _, none => true
    | none, _ => false

/-- Tickets of those that wait to take a token: fragments at a TOK.TAKE, and an armed instruction. -/
def Stream.takers (st : Stream) (k : BitVec 3) : List Nat :=
  if st.ended then []
  else
    (st.frag :: st.frags).filterMap (takeTicket k) ++
      if st.arm.te && decide (st.arm.ttok = k) then st.arm.since.toList else []

/-- A token may be taken now by one that has waited since a ticket, or has not waited: a count is there and no earlier taker waits
(R302). -/
def State.mayTake (s : State) (k : BitVec 3) (mine : Option Nat) : Bool :=
  decide (0 < s.myJob.token k.toNat) && !(s.streamsOf s.myJob.id).any fun st => (st.takers k).any fun n => match mine with
    | some m => decide (n < m)
    | none => true

/-- The issuing fragment's TOK.TAKE may take now. -/
def State.canTake (s : State) (k : BitVec 3) : Bool := s.mayTake k (takeTicket k s.me.frag)

/-- The issuing fragment waits for a token, from now on or still. -/
def State.waitTake (s : State) (k : BitVec 3) : State :=
  match takeTicket k s.me.frag with
  | some _ => s
  | none => (s.waitFor (.take k.toNat s.ticket)).nextTicket

/-- The issuing fragment's place among the gives that wait. -/
def State.myGive (s : State) (k : BitVec 3) : LateGive := ⟨k, some (s.me.id.strm, s.me.frag.id)⟩

/-- The issuing fragment waits to give a token, behind the gives that wait already. -/
def State.waitGive (s : State) (k : BitVec 3) : State :=
  if s.myJob.lateGives.contains (s.myGive k) then s
  else
    ((s.setJob fun j => { j with lateGives := j.lateGives ++ [s.myGive k] }).waitFor (.give k.toNat s.ticket)).nextTicket

/-- The issuing fragment gives: below 16, with no other give of the token before its place. -/
def State.mayGive (s : State) (k : BitVec 3) : Bool :=
  decide (s.myJob.token k.toNat < 16) &&
    !(s.myJob.lateGives.takeWhile fun g => g != s.myGive k).any fun g => g.tok == k

/-- A TOK.GIVE lands, and those behind it that may. -/
def State.landGive (s : State) (k : BitVec 3) : State :=
  s.setJob fun j =>
    ({ j with lateGives := j.lateGives.filter fun g => g != s.myGive k }.setToken k.toNat (j.token k.toNat + 1)).settle

/-- A management core holds no token FIFOs (R316). -/
def jobOnly (s : State) (r : Result) : Result := if s.isMgmt then trapIllegal s else r

/-- TOK.GIVE (R302): a release at .core (R231); waits while the count is 16 or an earlier give waits. -/
def execTokGive (k : BitVec 3) (s : State) : Result :=
  jobOnly s <|
    releaseThen s true 1 fun s => if s.mayGive k then .next (s.landGive k).advance else .next (s.waitGive k)

/-- A count taken by the issuing stream: an acquire (R231), at .dev whatever gave the count (log entry 152). -/
def State.takeToken (s : State) (k : BitVec 3) : State := acquireAt (s.setJob fun j => j.take k) s.core 5

/-- TOK.TAKE (R302, R231). -/
def execTokTake (k : BitVec 3) (s : State) : Result :=
  jobOnly s <| if s.canTake k then .next (s.takeToken k).advance else .next (s.waitTake k)

/-- TOK.PEEK (R302). -/
def execTokPeek (d : SReg) (k : BitVec 3) (s : State) : Result :=
  jobOnly s <| .next ((s.setS d (BitVec.ofNat 64 (s.myJob.token k.toNat))).advance)

/-- TOK.ZERO (R302): waiting gives are released, in order, onto the zeroed count. -/
def execTokZero (k : BitVec 3) (s : State) : Result :=
  jobOnly s <| .next (s.setJob fun j => (j.setToken k.toNat 0).settle).advance

/-- TOK.ARM (R303): the pending arm of the stream; with both enables 0 it is cleared. -/
def execTokArm (e : BitVec 1) (t : BitVec 3) (g : BitVec 1) (k : BitVec 3) (s : State) : Result :=
  let arm : Arm :=
    if e = 0#1 && g = 0#1 then ⟨false, 0#3, false, 0#3, none⟩ else ⟨e = 1#1, t, g = 1#1, k, none⟩
  jobOnly s <| .next ({ s with me := { s.me with arm := arm } }.advance)

/-! ### Armable instructions (R230, R303, R357) -/

/-- No arm. -/
def Arm.clear : Arm := ⟨false, 0#3, false, 0#3, none⟩

/-- The token that the pending arm takes is not there yet. -/
def State.armWaits (s : State) : Bool := s.me.arm.te && !s.mayTake s.me.arm.ttok s.me.arm.since

/-- The pending arm is taken by the instruction that issues: its take is made, and the arm is gone. -/
def State.takeArm (s : State) : State :=
  let s := if s.me.arm.te then s.takeToken s.me.arm.ttok else s
  { s with me := { s.me with arm := Arm.clear } }

/-- The give that the pending arm asks for. -/
def State.armGive (s : State) : Option (BitVec 3) := if s.me.arm.ge then some s.me.arm.gtok else none

/-- A give for a job, where there is one. -/
def State.giveFor (s : State) (j : JobId) (g : Option (BitVec 3)) : State :=
  match g with
  | some k => s.modJob j fun x => x.give k
  | none => s

/-- An armed instruction that has not taken its token yet keeps its place among the takers while it waits, for the token or for
anything else, and loses it when it parks. -/
def State.keepPlace (s : State) : State :=
  if !s.me.arm.te then s
  else if s.me.frag.parked.isSome || s.myJob.hardStop then { s with me := { s.me with arm := { s.me.arm with since := none } } }
  else if s.me.arm.since.isSome then s
  else { s with me := { s.me with arm := { s.me.arm with since := some s.ticket } } }.nextTicket

/-- An armable instruction waits for the token that its arm takes; else it goes on. -/
def armed (s : State) (r : State → Result) : Result :=
  if !s.me.arm.te then r s
  else
    match (if s.armWaits then .next s.stall else r s) with
    | .next t => .next t.keepPlace
    | x => x

end Sys2Proof.Machine
end

