-- ==== Sys2Proof/Machine/Translate.lean ====
section
/-!
DEFINITION. Address translation (R27 to R43): the five-level walk, the checks of R35 in their order, the TLBs and walk
caches, the walks in flight, A and D, parking on MIG.
-/

namespace Sys2Proof.Machine

/-- A page table entry's fields (R30). -/
def pteV (e : Nat) : Bool := e.testBit 0
def pteLeaf (e : Nat) : Bool := e.testBit 1
def pteR (e : Nat) : Bool := e.testBit 2
def pteW (e : Nat) : Bool := e.testBit 3
def pteX (e : Nat) : Bool := e.testBit 4
def pteApt (e : Nat) : Nat := natBits e 7 5
def pteA (e : Nat) : Bool := e.testBit 8
def pteD (e : Nat) : Bool := e.testBit 9
def pteTier (e : Nat) : Bool := e.testBit 10
def pteCmp (e : Nat) : Bool := e.testBit 11
def pteAddr (e : Nat) : Nat := natBits e 51 12 * 4096
def pteMig (e : Nat) : Bool := e.testBit 52
def pteRsv (e : Nat) : Nat := natBits e 55 54
def pteFwi (e : Nat) : Nat := natBits e 63 56

/-- The levels of the walk below the context root: how far the address is shifted for the index, and the entries
(R29). -/
def walkLevels : List (Nat × Nat) := [(48, 512), (39, 512), (30, 512), (21, 512), (16, 32)]

/-- A leaf that R31 calls malformed; `bits` is the page size. -/
def leafMalformed (e bits : Nat) : Bool :=
  let pa := pteAddr e
  let device := decide (pteApt e ≤ 1)
  decide (30 < bits) || decide (pa % 2 ^ bits ≠ 0) || decide (pteRsv e ≠ 0) ||
    (decide (pteFwi e ≠ 0) && decide (pteApt e ≠ 4)) || decide (4 < pteApt e) ||
    (device && !(inTiers pa || inRegs pa)) ||
    (device && inHbm pa && pteTier e) || (device && inLpddr pa && !pteTier e) ||
    (device && inRegs pa && (pteTier e || pteCmp e))

/-- The table that a die's walk cache holds for a level (R37). -/
def State.cachedTable (s : State) (die part ctx level page : Nat) : Option Nat :=
  (s.mm.walks.find? fun w =>
    w.die == die && w.part == part && w.ctx == ctx && w.level == level && w.page == page).map fun w => w.table

/-- A non-leaf entry enters a die's walk cache of 1,024 entries, the oldest leaving (log entry 164). -/
def State.cacheTable (s : State) (w : WalkEntry) : State :=
  let others := s.mm.walks.filter fun x => x.die ≠ w.die
  let mine := s.mm.walks.filter fun x => x.die == w.die
  { s with mm := { s.mm with walks := (w :: mine).take 1024 ++ others } }

/-- How a walk ends: at a leaf, at an entry that leads to none, at a poisoned line (R66), or at a line that must be given back by
the host or reconstructed first (R119, R64). -/
inductive WalkEnd where
  | leaf (l : Leaf) (passed : List WalkEntry)
  | bad (at_ : Nat) (passed : List WalkEntry)
  | lost (at_ : Nat) (passed : List WalkEntry)
  | held (pa : Nat)
  deriving DecidableEq, Repr

/-- The walk from a table (R29, R31): the leaf entry and the tables passed. -/
def walkFrom (s : State) (die part ctx va : Nat) (levels : List (Nat × Nat)) (table : Nat) (passed : List WalkEntry) :
    WalkEnd :=
  match levels with
  | [] => .bad table passed
  | (shift, count) :: rest =>
    let page := va / 2 ^ shift
    match s.cachedTable die part ctx shift page with
    | some t => walkFrom s die part ctx va rest t passed
    | none =>
      let a := table + 8 * (page % count)
      let e := s.sliceNat a 8
      if s.readHeld a then .held a
      else if s.poisonedAt a 8 then .lost a passed
      else if !pteV e then .bad a passed
      else if pteLeaf e then (if leafMalformed e shift then .bad a passed else .leaf ⟨a, e, shift, 0⟩ passed)
      else if shift = 16 || !inTiers (pteAddr e) then .bad a passed
      else walkFrom s die part ctx va rest (pteAddr e) (⟨die, part, ctx, shift, page, pteAddr e, a⟩ :: passed)

/-- Where the root entry of a context lies (R32). -/
def State.rootAt (s : State) (part ctx : Nat) : Nat := s.field (memReg (0x100 + 0x10 * part)) 51 12 * 4096 + 16 * ctx

/-- The L4 table of a context (R32): word 0 of its entry has V set. An entry with a reserved bit set, or whose table lies outside
the tiers, counts as malformed (log entry 163). -/
def State.contextRoot (s : State) (part ctx : Nat) : Option Nat :=
  let a := s.rootAt part ctx
  let w := s.sliceNat a 8
  if w.testBit 0 && natBits w 11 1 == 0 && natBits w 63 52 == 0 && s.sliceNat (a + 8) 8 == 0
      && inTiers (pteAddr w) then
    some (pteAddr w)
  else none

/-- Where a fabric window table entry lies, and the entry (R34). -/
def State.windowAt (s : State) (part fwi : Nat) : Nat := s.field (memReg (0x108 + 0x10 * part)) 51 12 * 4096 + 8 * fwi
def State.fabricWindow (s : State) (part fwi : Nat) : Nat := s.sliceNat (s.windowAt part fwi) 8

/-- A fabric window entry is valid (R34); one with a reserved bit set is not (log entry 163). -/
def windowValid (w : Nat) : Bool :=
  w.testBit 0 && natBits w 15 1 == 0 && natBits w 63 32 == 0

/-- A whole walk (R35 row 2): how it ends. -/
def walkEnd (s : State) (die part ctx va : Nat) : WalkEnd :=
  if s.readHeld (s.rootAt part ctx) then .held (s.rootAt part ctx)
  else if s.poisonedAt (s.rootAt part ctx) 16 then .lost (s.rootAt part ctx) []
  else
    match s.contextRoot part ctx with
    | none => .bad (s.rootAt part ctx) []
    | some root =>
      match walkFrom s die part ctx va walkLevels root [] with
      | .leaf l passed =>
        if pteApt l.entry = 4 then
          let at_ := s.windowAt part (pteFwi l.entry)
          if s.readHeld at_ then .held at_
          else if s.poisonedAt at_ 8 then .lost at_ passed
          else if windowValid (s.sliceNat at_ 8) then .leaf { l with window := s.sliceNat at_ 8 } passed
          else .bad at_ passed
        else .leaf l passed
      | r => r

/-- A read of an entry by a die's walker at its slice, with its packet (R47, R17, R83). -/
def State.readEntry (s : State) (die a : Nat) : State :=
  (s.noteRead a 1).parcel ⟨0, a, 0, 0, 0, 1, walkerStop die, sliceStop a, 16, []⟩

/-- The walk caches of a die after a walk, and the reads of the entries that it passed and ended at (R47). -/
def State.walked (s : State) (die : Nat) (r : WalkEnd) : State :=
  match r with
  | .leaf l passed => passed.foldr (fun x s => (s.cacheTable x).readEntry die x.at_) (s.readEntry die l.at_)
  | .bad a passed => passed.foldr (fun x s => s.readEntry die x.at_) (s.readEntry die a)
  | .lost a passed => passed.foldr (fun x s => s.readEntry die x.at_) (s.readEntry die a)
  | .held a => s.askLine a 0 1 false

/-- What such an end that finds no leaf raises (R35 row 2, R66). -/
def WalkEnd.cause (r : WalkEnd) : Nat :=
  match r with
  | .lost _ _ => causeDataLost
  | _ => causeTranslation

/-- The leaf that a walk found. -/
def WalkEnd.leaf? (r : WalkEnd) : Option Leaf :=
  match r with
  | .leaf l _ => some l
  | _ => none

/-- A byte range of a tier lies in one of the ranges of a partition's quarters (R35 row 5, R139). -/
def State.inRange (s : State) (part pa n : Nat) : Bool :=
  (List.range 4).any fun q =>
    s.ownerOf q == part &&
      (if inHbm pa then
        decide (s.field (prtReg (0x080 + 16 * q)) 31 0 * 65536 ≤ pa) &&
          decide (pa + n ≤ s.field (prtReg (0x080 + 16 * q)) 63 32 * 65536)
      else
        decide (s.field (prtReg (0x088 + 16 * q)) 31 0 * 65536 ≤ pa - lpddrBase) &&
          decide (pa - lpddrBase + n ≤ s.field (prtReg (0x088 + 16 * q)) 63 32 * 65536))

/-- What a translated access reaches: the aperture, the address there, and for APT 4 the module. -/
structure Place where
  apt  : Nat
  pa   : Nat
  cmp  : Bool
  mod_ : Nat
  deriving DecidableEq, Repr

/-- The place lies in the device register space. -/
def Place.isReg (p : Place) : Bool := decide (p.apt ≤ 1) && inRegs p.pa

/-- The location of a place (Machine/Slices.lean); that of another module's memory lies beyond what any cache holds. -/
def Place.loc (p : Place) : Nat :=
  if p.apt ≤ 1 then p.pa else if p.apt = 4 then 2 ^ 60 + p.mod_ * hostLoc + p.pa else hostLoc + p.pa

/-- An access of a stream to a line of a location is under way (R218, R228). -/
def State.locBusy (s : State) (id : StreamId) (loc : Nat) : Bool :=
  s.net.txns.any fun t => t.strm == id && t.loc.any fun l => l / 128 == loc / 128

/-- How a translation ends (R35). -/
inductive Xlat where
  | ok (p : Place)
  | fault (cause : Nat)
  | migrating (page : PageRef)
  /-- a walk of the page is in flight, or waits for a free place in the die's pool (R39) -/
  | walking
  deriving DecidableEq, Repr

/-- Permission of a leaf for an access kind (R35 row 4). -/
def permits (e : Nat) (k : AccessKind) : Bool :=
  match k with
  | .read => pteR e
  | .write => pteW e
  | .atomic => pteR e && pteW e
  | .fetch => pteX e

/-- The page of a size that holds an address. -/
def pageOf (va bits : Nat) : PageRef := ⟨va / 2 ^ bits * 2 ^ bits, bits⟩

/-- Rows 3 to 5 of R35 against a leaf; a register page reached by another aperture than 1 raises PERMISSION (R33). -/
def checkLeaf (s : State) (part : Nat) (user : Bool) (l : Leaf) (va n : Nat) (k : AccessKind) : Xlat :=
  let e := l.entry
  let pa := pteAddr e + va % 2 ^ l.bits
  if pteMig e then .migrating (pageOf va l.bits)
  else if !permits e k then .fault causePermission
  else if decide (pteApt e ≤ 1) && inRegs pa then
    if pteApt e = 1 && !user then .ok ⟨1, pa, false, 0⟩ else .fault causePermission
  else if decide (pteApt e ≤ 1) && !s.inRange part pa n then .fault causePermission
  else .ok ⟨pteApt e, pa, pteCmp e, natBits l.window 31 16⟩

/-- An atomic OR of a bit into a page table entry at its slice (R36). -/
def State.orPte (s : State) (a bit : Nat) : State :=
  let b := (sliceRead s (a + bit / 8) 1).headD blankByte
  sliceWrite s (a + bit / 8) [b ||| BitVec.ofNat 8 (2 ^ (bit % 8))]

/-- A die's walker sets a bit of an entry, with the packet of its atomic (R36, R81, R83). -/
def State.setPte (s : State) (die a bit : Nat) : State :=
  (s.orPte a bit).parcel ⟨4, a, 0, 0, 0, 0, walkerStop die, sliceStop a, 16, []⟩

/-- The TLBs that serve a core (R37). -/
def tlbPlaces (core : Nat) : List TlbPlace := [.core core, .cluster (coreCluster core)]

/-- A leaf held for an address by the TLBs of a core; the core's own first. -/
def State.tlbFind (s : State) (core part ctx va : Nat) : Option TlbEntry :=
  (tlbPlaces core).findSome? fun p => s.mm.tlb.find? fun t =>
    t.place == p && t.part == part && t.ctx == ctx && va / 2 ^ t.bits == t.page

/-- The entries of a place that share a set, cut to its ways with the newest first (R37): a core TLB is one set of 64 ways; the 256
sets of a cluster TLB are chosen by the low bits of the page number (log entry 164). -/
def capPlace (p : TlbPlace) (page : Nat) (ts : List TlbEntry) : List TlbEntry :=
  let mine (t : TlbEntry) : Bool :=
    t.place == p && match p with
      | .core _ => true
      | _ => t.page % 256 == page % 256
  let ways := match p with
    | .core _ => 64
    | _ => 8
  (ts.filter mine).take ways ++ ts.filter fun t => !mine t

/-- The TLBs of a core without their entries for an address. -/
def State.tlbDrop (s : State) (core part ctx va : Nat) : State :=
  { s with mm := { s.mm with tlb := s.mm.tlb.filter fun t =>
      !((tlbPlaces core).contains t.place && t.part == part && t.ctx == ctx && va / 2 ^ t.bits == t.page) } }

/-- A leaf enters both TLBs of a core, with the page's entry replaced. -/
def State.tlbInstall (s : State) (core part ctx va : Nat) (l : Leaf) : State :=
  let s := s.tlbDrop core part ctx va
  let e (p : TlbPlace) : TlbEntry :=
    ⟨p, part, ctx, va / 2 ^ l.bits, l.bits, BitVec.ofNat 64 l.entry, BitVec.ofNat 64 l.window⟩
  let ts := (tlbPlaces core).foldl (fun ts p => capPlace p (va / 2 ^ l.bits) (e p :: ts)) s.mm.tlb
  { s with mm := { s.mm with tlb := ts } }

/-- The leaf of a held entry. -/
def TlbEntry.toLeaf (t : TlbEntry) : Leaf := ⟨0, t.leaf.toNat, t.bits, t.window.toNat⟩

/-! ### Walks (R35, R37, R39) -/

/-- Who misses: a core, or a unit of a die, which has no TLB. -/
def unitWho (die : Nat) : Nat := 1000 + die
def walkDie (who : Nat) : Nat := if who < 1000 then coreDie who else who - 1000

/-- The walk that a miss waits for: misses of one page share it (R39). -/
def Miss.key (m : Miss) : Nat × Nat × Nat × Nat := (m.die, m.part, m.ctx, m.va / 65536)

/-- The walks in flight in a die's pool: those of the first 256 pages that misses wait for (R37). -/
def State.inFlight (s : State) (die : Nat) : List (Nat × Nat × Nat × Nat) :=
  (((s.mm.misses.filter fun m => m.die == die && m.ended.isNone).map Miss.key).eraseDups).take 256

/-- A miss waits for a walk. What a walk has answered an access stands for 4,096 ticks (log entry 166). -/
def State.startMiss (s : State) (m : Miss) : State :=
  let live := s.mm.misses.filter fun x => x.ended.isNone || decide (s.time.ticks ≤ x.since + 4096)
  { s with mm := { s.mm with misses := live ++ [m] } }

/-- The answers that walks have left for a requester are dropped. -/
def State.dropAnswers (s : State) (who : Nat) : State :=
  { s with mm := { s.mm with misses := s.mm.misses.filter fun m => m.who ≠ who || m.ended.isNone } }

/-- The answer that a walk has left a requester for a page becomes a leaf. -/
def State.answerLeaf (s : State) (who part ctx va : Nat) (l : Leaf) : State :=
  { s with mm := { s.mm with misses := s.mm.misses.map fun m =>
      if m.who = who && m.part = part && m.ctx = ctx && m.va / 65536 = va / 65536 && m.ended.isSome then
        { m with ended := some (some l) }
      else m } }

/-- A leaf that a walk found is kept for whoever missed: in the TLBs of a core; a unit, which has none, keeps the walk's answer. -/
def State.keepLeaf (s : State) (who part ctx va : Nat) (l : Leaf) : State :=
  if who < 1000 then s.tlbInstall who part ctx va l else s.answerLeaf who part ctx va l

/-- What is held for a page is dropped: the entries of a core's TLBs, or the answers that walks have left. -/
def State.dropHeld (s : State) (who part ctx va : Nat) : State := (s.tlbDrop who part ctx va).dropAnswers who

/-- A leaf that passes the checks has A set on its way in and is installed (R36). The entry's line must be given back by the host
first (R119). -/
def installLeaf (s : State) (who part ctx : Nat) (user : Bool) (va n : Nat) (k : AccessKind) (l : Leaf) : Xlat × State :=
  match checkLeaf s part user l va n k with
  | .ok p =>
    if !pteA l.entry && s.hostHolds l.at_ then (.walking, s.backInvalidate l.at_)
    else
      let s := if pteA l.entry then s else s.setPte (walkDie who) l.at_ 8
      (.ok p, s.keepLeaf who part ctx va { l with entry := Nat.lor l.entry 256 })
  | x => (x, s)

/-- A leaf that a walk answered, taken by the access that waited for it; one that it may not use is not kept. -/
def takeLeaf (s : State) (who part ctx : Nat) (user : Bool) (va n : Nat) (k : AccessKind) (l : Leaf) : Xlat × State :=
  match installLeaf s who part ctx user va n k l with
  | (.ok p, s) => (.ok p, s)
  | (.walking, s) => (.walking, s)
  | (x, s) => (x, s.dropAnswers who)

/-- An access that misses: it starts a walk or joins the one in flight, and takes the walk's answer (R39). Where the walk met no leaf
the access reads the entries once more as they stand: an entry made valid since needs no TLBI (R38). -/
def missed (s : State) (who part ctx : Nat) (user : Bool) (va n : Nat) (k : AccessKind) : Xlat × State :=
  match s.mm.misses.find? fun m => m.who == who && m.part == part && m.ctx == ctx && m.va / 65536 == va / 65536 with
  | none => (.walking, s.startMiss ⟨walkDie who, who, part, ctx, va, user, k, none, s.time.ticks⟩)
  | some m =>
    match m.ended with
    | none => (.walking, s)
    | some none =>
      let r := walkEnd s (walkDie who) part ctx va
      let s := s.walked (walkDie who) r
      match r with
      | .held _ => (.walking, s)
      | .leaf l _ => takeLeaf (s.answerLeaf who part ctx va l) who part ctx user va n k l
      | r => (.fault r.cause, s.dropAnswers who)
    | some (some l) => takeLeaf s who part ctx user va n k l

/-- DIRTY_UPDATE (R36): the leaf is read again, checked, has A and D set, replaces what is held and governs the write. -/
def dirtyUpdate (s : State) (who part ctx : Nat) (user : Bool) (va n : Nat) (k : AccessKind) : Xlat × State :=
  let r := walkEnd s (walkDie who) part ctx va
  let s := s.walked (walkDie who) r
  match r with
  | .held _ => (.walking, s)
  | .leaf l _ =>
    if s.hostHolds l.at_ then (.walking, s.backInvalidate l.at_)
    else if !pteW l.entry then
      let s := s.dropHeld who part ctx va
      (if pteMig l.entry then .migrating (pageOf va l.bits) else .fault causePermission, s)
    else
      let s := (if pteA l.entry then s else s.setPte (walkDie who) l.at_ 8).setPte (walkDie who) l.at_ 9
      let l := { l with entry := Nat.lor l.entry 768 }
      (checkLeaf s part user l va n k, s.keepLeaf who part ctx va l)
  | r => (.fault r.cause, s.dropHeld who part ctx va)

/-- The kind of access writes. -/
def accessWrites (k : AccessKind) : Bool :=
  match k with
  | .write => true
  | .atomic => true
  | _ => false

/-- The leaf held for a page: in the TLBs of a core, or as the answer that a walk has left a unit. -/
def State.heldLeaf (s : State) (who part ctx va : Nat) : Option Leaf :=
  if who < 1000 then (s.tlbFind who part ctx va).map TlbEntry.toLeaf
  else
    match s.mm.misses.find? fun m => m.who == who && m.part == part && m.ctx == ctx && m.va / 65536 == va / 65536 with
    | some m => m.ended.getD none
    | none => none

/-- Translation of an access of n bytes for a context, by a core through its TLBs or by a unit that has none (R35, R36). -/
def translateCtx (s : State) (who part ctx : Nat) (user : Bool) (va : Word) (n : Nat) (k : AccessKind) :
    Xlat × State :=
  let a := va.toNat
  if 2 ^ 57 ≤ a then (.fault causeTranslation, s)
  else
    let first := match (if who < 1000 then s.heldLeaf who part ctx a else none) with
      | some l => (checkLeaf s part user l a n k, s)
      | none => missed s who part ctx user a n k
    match first with
    | (.ok p, s) =>
      let dirty := match s.heldLeaf who part ctx a with
        | some l => pteD l.entry
        | none => true
      if accessWrites k && !dirty then dirtyUpdate s who part ctx user a n k else (.ok p, s)
    | r => r

/-- A management core's address is a device physical address (log entry 13): the tiers and the register space, uncached, with CMP as
1 (log entry 167); an unpopulated one raises TRANSLATION. -/
def translateMgmt (va : Word) : Xlat :=
  let a := va.toNat
  if inTiers a || inRegs a then .ok ⟨1, a, true, 0⟩ else .fault causeTranslation

/-- Translation of an access of the issuing stream. -/
def State.translate (s : State) (va : Word) (n : Nat) (k : AccessKind) : Xlat × State :=
  if s.isMgmt then (translateMgmt va, s)
  else translateCtx s s.core s.part s.myJob.ctx.toNat (s.priv == 0) va n k

/-- A miss that has its walk's answer. -/
def Miss.end_ (m : Miss) (now : Nat) (l : Option Leaf) : Miss := { m with ended := some l, since := now }

/-- PAGE_WALK_DONE (R35, R36, R39): the walk of arg.walk, which its die's pool has in flight, ends; every miss that joined it has
its answer, and a leaf that passes the checks for a miss has A set and is installed for it. -/
def execPageWalkDone (s : State) : Result :=
  let w := s.arg.walk
  let die := walkDie w.core
  let key := (die, w.part, w.ctx, w.va.toNat / 65536)
  if !(s.inFlight die).contains key then .next s
  else
    let r := walkEnd s die w.part w.ctx w.va.toNat
    let s := s.walked die r
    match r with
    | .held _ => .next s
    | _ =>
      let joined := s.mm.misses.filter fun m => m.key == key && m.ended.isNone
      let s := { s with mm := { s.mm with misses := s.mm.misses.map fun m =>
        if m.key = key && m.ended.isNone then m.end_ s.time.ticks r.leaf? else m } }
      .next (match r.leaf? with
        | some l => joined.foldl (fun s m => (installLeaf s m.who m.part m.ctx m.user m.va 1 m.kind l).2) s
        | none => s)

/-- DIRTY_UPDATE (R36) for arg.walk, whose cached entry has D = 0. -/
def execDirtyUpdate (s : State) : Result :=
  let w := s.arg.walk
  match s.tlbFind w.core w.part w.ctx w.va.toNat with
  | some t => if pteD t.leaf.toNat then .next s
    else .next (dirtyUpdate s w.core w.part w.ctx true w.va.toNat 1 .write).2
  | none => .next s

end Sys2Proof.Machine
end

