-- ==== Sys2Proof/Machine/Access.lean ====
section
/-!
DEFINITION. The checks common to every access (R356), the range locks (R209, R210), the resolution of ranks (R304), and
loads and stores at the points that R215 gives.
-/

namespace Sys2Proof.Machine

/-! ### Jobs and their pools -/

/-- Bytes of a job's local scratchpad (R197). -/
def Job.grant (j : Job) : Nat := (j.pword.extractLsb' 16 8).toNat * 65536

/-- The job of a job's launch that holds a rank of a crew (R304). -/
def State.memberOfLaunch (s : State) (id : JobId) (crew rank : Nat) : Option Job :=
  s.allJobs.find? fun j =>
    j.id.part == id.part && j.id.acc == id.acc && j.crews.any fun h => h.crew == crew && h.rank == rank

/-- The job of the issuer's launch that holds a rank of a crew (R304). -/
def State.member (s : State) (crew rank : Nat) : Option Job := s.memberOfLaunch s.myJob.id crew rank

/-- The member of the current crew that holds a rank. -/
def State.peer (s : State) (rank : Nat) : Option Job :=
  match s.myJob.current with
  | none => none
  | some c => s.member c rank

/-- A job that holds no core now: an access to it stalls (R164). -/
def Job.away (j : Job) : Bool := j.state != .resident || j.migrating

/-- Bytes of a scratchpad. -/
def State.poolRead (s : State) (j : JobId) (off n : Nat) : List Byte :=
  match s.job j with
  | some x => cellsGet x.scratch off n
  | none => List.replicate n blankByte

/-- A write to a scratchpad. -/
def State.poolWrite (s : State) (j : JobId) (off : Nat) (bs : List Byte) : State :=
  s.modJob j fun x => { x with scratch := cellsSet x.scratch off bs }

/-! ### Checks -/

/-- What an instruction asks of the access checks. -/
structure Req where
  space : Space
  kind  : AccessKind
  size  : Nat
  align : Nat
  /-- a scalar LD or ST, which may reach the register space with 4 or 8 bytes (R356 row 5) -/
  bus   : Bool
  deriving DecidableEq, Repr

/-- Where a checked access goes. -/
inductive Spot where
  | mem (p : Place)
  | pool (j : JobId) (off : Nat)
  deriving DecidableEq, Repr

/-- SPACE of a record (R213). -/
def spaceCode (x : Space) : Nat :=
  match x with
  | .global => 0
  | .scratch => 1
  | .peer _ => 2

/-- AKIND of a record (R213). -/
def akindCode (k : AccessKind) : Nat :=
  match k with
  | .read => 0
  | .write => 1
  | .atomic => 2
  | .fetch => 0

/-- ADDR of a record (R213): a virtual address, an offset, or rank and offset. -/
def recordAddr (x : Space) (a : Word) : Word :=
  match x with
  | .peer r => BitVec.ofNat 64 (r % 2 ^ 32 * 2 ^ 32 + bitsOf a 31 0)
  | _ => a

/-- A fault of an access (R356). -/
def accessFault (q : Req) (cause : Nat) (a : Word) : FaultInfo :=
  { cause := cause, kind := 1, space := spaceCode q.space, akind := akindCode q.kind, addr := recordAddr q.space a }

/-- The state waits for a page that migrates (R43). -/
def State.waitPage (s : State) (page : PageRef) : State :=
  match s.me.frag.wait with
  | .migrating p _ => if p = page then s else s.waitFor (.migrating page s.ticket) |>.nextTicket
  | _ => (s.waitFor (.migrating page s.ticket)).nextTicket

/-- The state waits for a job that is not resident (R164). -/
def State.waitPeer (s : State) (j : JobId) : State :=
  match s.me.frag.wait with
  | .peer k _ => if k = j then s else s.waitFor (.peer j s.ticket) |>.nextTicket
  | _ => (s.waitFor (.peer j s.ticket)).nextTicket

/-- Two ranges of one space overlap. -/
def lockHit (l : RangeLock) (x : Space) (a n : Nat) (writes : Bool) : Bool :=
  l.space == x && decide (a < l.hi) && decide (l.lo < a + n) && (l.write || writes)

/-- An access of the issuing job overlaps a live entry of its own core (R210). -/
def State.locked (s : State) (x : Space) (a n : Nat) (writes : Bool) : Bool :=
  s.locks.any fun l => l.core == some s.core && l.job == s.myJob.id && lockHit l x a n writes

/-- Row 4 of R356 for one lane. -/
def checkPlace (s : State) (q : Req) (a : Word) : Except Result (State × Spot) :=
  match q.space with
  | .global =>
    match s.translate a q.size q.kind with
    | (.ok p, s) => .ok (s, .mem p)
    | (.fault c, s) => .error (trap s (accessFault q c a))
    | (.migrating page, s) => .error (.next (s.waitPage page))
    | (.walking, s) => .error (.next s.stall)
  | .scratch =>
    if s.myJob.grant < a.toNat + q.size then .error (trap s (accessFault q causePermission a))
    else .ok (s, .pool s.myJob.id a.toNat)
  | .peer r =>
    match s.peer r with
    | none => .error (trap s (accessFault q causePermission a))
    | some j =>
      if j.grant < a.toNat + q.size then .error (trap s (accessFault q causePermission a))
      else .ok (s, .pool j.id a.toNat)

/-- Row 4 of R356 for every lane in order. -/
def checkPlaces (s : State) (q : Req) (lanes : List (Nat × Word)) : Except Result (State × List (Nat × Spot)) :=
  match lanes with
  | [] => .ok (s, [])
  | (l, a) :: rest =>
    match checkPlace s q a with
    | .error r => .error r
    | .ok (s, p) =>
      match checkPlaces s q rest with
      | .error r => .error r
      | .ok (s, ps) => .ok (s, (l, p) :: ps)

/-- A spot that lies in the register space and may not be reached so (R356 row 5). -/
def badRegister (q : Req) (p : Spot) : Bool :=
  match p with
  | .mem x => x.isReg && !(q.bus && (q.size == 4 || q.size == 8))
  | .pool _ _ => false

/-- An access of the issuing stream to the line is under way, by whatever address it was made (R218, R228). -/
def State.spotBusy (s : State) (p : Spot) : Bool :=
  match p with
  | .mem x => s.locBusy s.me.id x.loc
  | .pool _ _ => false

/-- The checks of R356, rows 2 to 7, over the active lanes: the first row that any lane fails decides. -/
def checkAccess (s : State) (q : Req) (lanes : List (Nat × Word)) : Except Result (State × List (Nat × Spot)) :=
  let first := (lanes.head?.map fun x => x.2).getD 0#64
  let pool := q.space != .global
  let noPeer := match q.space with
    | .peer r => (s.peer r).isNone
    | _ => false
  if lanes.isEmpty then .ok (s, [])
  else if (pool && s.isMgmt) || noPeer then .error (trap s (accessFault q causePermission first))
  else
    match lanes.find? fun x => decide (x.2.toNat % q.align ≠ 0) with
    | some x => .error (trap s (accessFault q causeAlignment x.2))
    | none =>
      match checkPlaces s q lanes with
      | .error r => .error r
      | .ok (s, ps) =>
        match (lanes.zip ps).find? fun x => badRegister q x.2.2 with
        | some x => .error (trap s (accessFault q causePermission x.1.2))
        | none =>
          match lanes.find? fun x => s.locked q.space x.2.toNat q.size (accessWrites q.kind) with
          | some x => .error (trap s (accessFault q causeRangeConflict x.2))
          | none =>
            match q.space with
            | .peer r =>
              match s.peer r with
              | some j => if j.away then .error (.next (s.waitPeer j.id)) else .ok (s, ps)
              | none => .ok (s, ps)
            | _ => if ps.any fun p => s.spotBusy p.2 then .error (.next s.stall) else .ok (s, ps)

/-! ### Order with what the stream has under way -/

/-- An acquire of the stream has not taken its value (R221), or an access of the stream to one of these lines is under
way (R219); one that names the line by another address shows in the access checks. -/
def State.mustWait (s : State) (lanes : List (Nat × Word)) : Bool :=
  s.myTxns.any fun t => t.acq.isSome || lanes.any fun x => x.2.toNat / 128 == t.va.toNat / 128

/-- The acquire half once the value is taken (R221). -/
def State.acquired (s : State) (acq : Bool) (scope : Nat) : State :=
  if acq then acquireAt s s.core scope else s

/-! ### Points of performance -/

/-- A line that a load or store of these bytes needs at its slice must be waited for: for the host (R119), or a load for its
reconstruction (R64). -/
def spotHeld (s : State) (scope : Nat) (load : Bool) (p : Spot) (n : Nat) : Bool :=
  match p with
  | .mem x =>
    match x.apt with
    | 0 => load && s.readHeld x.pa && !allCached s s.core scope x.pa n
    | 1 => !x.isReg && (if load then s.readHeld x.pa else s.hostHolds x.pa)
    | _ => false
  | .pool _ _ => false

/-- The access meets poison at its slice (R66). -/
def spotPoisoned (s : State) (scope : Nat) (p : Spot) (n : Nat) : Bool :=
  match p with
  | .mem x =>
    match x.apt with
    | 0 => !allCached s s.core scope x.pa n && s.poisonedAt x.pa n
    | 1 => !x.isReg && s.poisonedAt x.pa n
    | _ => false
  | .pool _ _ => false

/-- The spot lies on another module. -/
def Spot.remote (p : Spot) : Bool :=
  match p with
  | .mem x => x.apt == 4
  | .pool _ _ => false

/-- Bytes that a core reads past the caches, where its buffer or its cluster cache holds none newer (R218 rule 2). -/
def uncachedBytes (s : State) (core loc : Nat) (bs : List Byte) : List Byte :=
  bs.zipIdx.map fun b => (cachedByte s core 5 (loc + b.2)).getD b.1

/-- A write that goes past the caches comes after the bytes of its range that the issuing core's buffer and its cluster
cache hold: they are superseded, and no older copy stays there (R218 rules 2 and 3). -/
def State.supersede (s : State) (loc n : Nat) : State :=
  let clu := coreCluster s.core
  let within (key base : Nat) : Bool := base * cacheStride + loc ≤ key && decide (key < base * cacheStride + loc + n)
  { s with mm := { s.mm with
      wcb := s.mm.wcb.filter fun b => !(b.core == s.core && loc ≤ b.loc && decide (b.loc < loc + n)),
      cluDirty := s.mm.cluDirty.filter fun e => !within e.1 clu,
      cluClean := s.mm.cluClean.filter fun e => !within e.1 clu,
      l1Clean := s.mm.l1Clean.filter fun e => !within e.1 s.core } }

/-- Group tag of the issuing stream's requests (R70). -/
def State.groupTag (s : State) : Nat := s.tagOf s.core s.me.id

/-- A packet of the issuing stream to the slice of an address, or to the core of a job's pool (R81). -/
def State.myParcel (s : State) (cls pa len sect : Nat) : State :=
  s.parcel (coreParcel s cls s.core s.me.id pa len s.slack sect)

def State.peerParcel (s : State) (cls len : Nat) (j : JobId) : State :=
  match (s.job j).bind fun x => x.core with
  | some c =>
    if c = s.core then s
    else s.parcel ⟨cls, 0, len, s.slack, s.groupTag, 0, coreStop s.core, coreStop c, corePort s.core, [s.me.id]⟩
  | none => s

/-- The address at which a load of these bytes reads a slice: none where the caches above hold them all. -/
def Spot.slicePa (s : State) (scope n : Nat) (p : Spot) : Option Nat :=
  match p with
  | .mem x =>
    if x.isReg then none
    else if (x.apt = 0 && !allCached s s.core scope x.pa n) || x.apt = 1 then some x.pa
    else none
  | .pool _ _ => none

/-- The lines that accesses of an instruction touch at their slices, each with SECT, the number of the instruction's sectors bound
for its channel, and the number of its own (R70). -/
def State.coalesced (s : State) (pas : List Nat) : List (Nat × Nat × Nat) :=
  let sectors := (pas.map fun pa => pa / 32).eraseDups
  let lines := (sectors.map fun k => k / 4).eraseDups.map fun l =>
    (l, (s.fillChannels (128 * l)).head?.map fun c => c.1, (sectors.filter fun k => k / 4 == l).length)
  lines.map fun x => (x.1, ((lines.filter fun y => y.2.1 == x.2.1).map fun y => y.2.2).sum, x.2.2)

/-- What the lines that must come first wait for is asked; the host, for a load's data or to invalidate. -/
def holdAll (s : State) (load : Bool) (ps : List (Nat × Spot)) : State :=
  let held := ps.filterMap fun p => match p.2 with
    | .mem x => if decide (x.apt ≤ 1) && s.readHeld x.pa then some x.pa else none
    | .pool _ _ => none
  (s.coalesced held).foldl (fun s x => s.askLine (128 * x.1) s.groupTag x.2.2 (!load)) s

/-- The lines that loads of an instruction read at their slices (R47, R70). -/
def State.readSpots (s : State) (scope n : Nat) (ps : List Spot) : State :=
  (s.coalesced (ps.filterMap (Spot.slicePa s scope n))).foldl
    (fun s x => (s.readLine s.groupTag x.2.1 x.2.2 (128 * x.1)).myParcel 0 (128 * x.1) 0 x.2.1) s

/-- A load that performs here (R215), its lines having been read at their slices. -/
def loadHere (s : State) (scope : Nat) (p : Spot) (n : Nat) : List Byte × State :=
  match p with
  | .pool j off => (s.poolRead j off n, s.peerParcel 0 0 j)
  | .mem x =>
    if x.isReg then
      let (v, s) := busRead s (x.pa - regBase) n
      (leBytes n v.toNat, s)
    else
      match x.apt with
      | 1 => (uncachedBytes s s.core x.loc (sliceRead s x.pa n), s)
      | 3 => (uncachedBytes s s.core x.loc (cellsGet s.mm.hostMem x.pa n), s)
      | _ => loadBytes s s.core scope x.loc n

/-- A load of one place. -/
def loadSpot (s : State) (scope : Nat) (p : Spot) (n : Nat) : List Byte × State :=
  loadHere (s.readSpots scope n [p]) scope p n

/-- The address at which a store past the caches writes at a slice. -/
def Spot.writePa (p : Spot) : Option Nat :=
  match p with
  | .mem x => if x.apt = 1 && !x.isReg then some x.pa else none
  | .pool _ _ => none

/-- The lines that stores of an instruction write at their slices past the caches: a packet each, and one write counted for each that
is poisoned (R66, R70, R81). -/
def State.writeSpots (s : State) (n : Nat) (ps : List Spot) : State :=
  let pas := ps.filterMap Spot.writePa
  (s.coalesced (pas ++ pas.map fun pa => pa + (n - 1))).foldl
    (fun s x =>
      let halves := ((pas.filter fun pa => pa / 128 == x.1).map fun pa => pa / 64).eraseDups.length
      (s.countLost (natOfBool (s.poisonedLine x.1))).myParcel 2 (128 * x.1) halves x.2.1) s

/-- A store that performs here, its lines having been told of it, or enters the core's write-combining buffer (R215). -/
def storeHere (s : State) (scope : Nat) (p : Spot) (bs : List Byte) : State :=
  match p with
  | .pool j off => (s.peerParcel 2 1 j).poolWrite j off bs
  | .mem x =>
    if x.isReg then busWrite s (x.pa - regBase) bs.length (BitVec.ofNat 64 (leNat bs))
    else
      match x.apt with
      | 0 => bufferStore s s.core s.me.id scope x.loc x.cmp s.slack bs
      | 1 => pointBytes ((s.supersede x.loc bs.length).noteCmp x.pa x.cmp) x.pa bs
      | 2 => bufferStore s s.core s.me.id scope x.loc x.cmp s.slack bs
      | _ => hostWrite (s.supersede x.loc bs.length) x.pa bs

/-- A store of one place. -/
def storeSpot (s : State) (scope : Nat) (p : Spot) (bs : List Byte) : State :=
  storeHere (s.writeSpots bs.length [p]) scope p bs

/-! ### Fabric requests (R90, R93) -/

/-- Sectors of a line that a range covers. -/
def sectorMask (pa n : Nat) : Nat :=
  (List.range 4).foldl
    (fun m k => if decide (32 * k < pa % 128 + n) && decide (pa % 128 < 32 * (k + 1)) then m + 2 ^ k else m) 0

/-- A read of another module's memory. -/
def readMessage (s : State) (x : Place) (n tag : Nat) : FabricMessage :=
  message 0 0 0 (sectorMask x.pa n) (x.pa / 128 * 128) tag x.mod_ s.modId []

/-- A write to another module's memory: the mask, then the data slots from the first one written. -/
def writeMessage (s : State) (x : Place) (bs : List Byte) (tag : Nat) : FabricMessage :=
  let off := x.pa % 128
  let first := off / 16 * 16
  let data := bytesSlots 9 (List.replicate (off - first) blankByte ++ bs)
  let mask : BitVec 128 := BitVec.ofNat 128 ((2 ^ bs.length - 1) * 2 ^ off)
  message 2 (1 + data.length) 0 0 (x.pa / 16 * 16) tag x.mod_ s.modId (mask :: data)

/-- A fetch-and-operate on another module's memory (R111). -/
def fetchMessage (s : State) (x : Place) (aop : Nat) (w : Bool) (order : Nat) (nc : Bool) (c v : BitVec 64)
    (tag : Nat) : FabricMessage :=
  message 4 2 0 0 x.pa tag x.mod_ s.modId (fetchSlots aop w order 7 nc false 1 c v)

/-- A transaction of the issuing fragment begins. -/
def State.begin (s : State) (t : Txn) : State :=
  { s with
    net := { s.net with txns := s.net.txns ++ [t] },
    me := { s.me with flights := s.me.flights ++ [t.id] } }

/-- The transaction that an access of the issuing fragment makes. -/
def State.txn (s : State) (va : Word) (kind : TxnKind) (give : Option (BitVec 3)) (acq : Option Nat) : Txn :=
  ⟨s.ticket, s.me.id, s.me.frag.id, s.me.frag.mask, s.pc, va, kind, give, acq, none⟩

/-- The core that an owner's streams run on. -/
def State.ownerAt (s : State) (o : Owner) : Option Nat :=
  match o with
  | .mgmt n => some (544 + n)
  | .job j => (s.job j).bind fun x => x.core

/-- An armed store is performed at its scope before it gives (R230): the core's buffer drains, and where bytes of the stream
stay in it, or parts of the instruction have left the module, the give waits for them. -/
def State.performed (s : State) (group : Nat) (give : Option (BitVec 3)) : State :=
  match give with
  | none => s
  | some _ =>
    let s := drainCore s s.core
    if s.mm.wcb.any fun b => b.core == s.core && b.strm == s.me.id then
      s.nextTicket.begin { s.txn (BitVec.allOnes 64) (.buffered group) give none with mask := 0#128 }
    else if s.net.txns.any fun t => match t.kind with
        | .store g => g == group
        | _ => false
    then s
    else s.giveFor s.myJob.id give

/-- A request for a place of another module leaves; one without a route is answered with STATUS 3 (R93). -/
def State.sendRemote (s : State) (t : Txn) (x : Place) (m : Nat → FabricMessage) : State :=
  let s := s.nextTicket.begin { t with loc := some x.loc }
  sendMessage s (coreStop s.core) (corePort s.core) s.slack [s.me.id] s.groupTag (m (fabricTag t.id))

/-- A register that a pending result will write (R205). -/
def State.pend (s : State) (r : RegName) : State :=
  if r = .s 0 then s else { s with me := { s.me with pending := s.me.pending ++ [r] } }

end Sys2Proof.Machine
end

