-- ==== Sys2Proof/Machine/MemInstr.lean ====
section
/-!
DEFINITION. Scalar and vector loads and stores (R356 to R362), and the replies of accesses that leave the module
(R205, R237, R436).
-/

namespace Sys2Proof.Machine

/-! ### Scalar forms -/

/-- A scalar load (R359, R360): checked, performed at its point, extended into sD. -/
def scalarLoad (s : State) (q : Req) (a : Word) (scope : Nat) (acq : Bool) (d : SReg) (sx : Bool) : Result :=
  armed s fun s =>
    if s.mustWait [(0, a)] then .next s.stall
    else
      match checkAccess s q [(0, a)] with
      | .error r => r
      | .ok (s, ps) =>
        match ps with
        | [(_, p)] =>
          if spotHeld s scope true p q.size then .next (holdAll s true ps).stall
          else if spotPoisoned s scope p q.size then trap s (accessFault q causeDataLost a)
          else
            let g := s.armGive
            let s := s.takeArm
            match p with
            | .mem ⟨4, pa, cmp, m⟩ =>
              let t := s.txn a (.load d q.size sx) g (if acq then some scope else none)
              .next (((s.pend (.s d.toNat)).sendRemote t ⟨4, pa, cmp, m⟩
                fun tag => readMessage s ⟨4, pa, cmp, m⟩ q.size tag).advance)
            | _ =>
              let r := loadSpot s scope p q.size
              .next ((((r.2.acquired acq scope).setS d (extendBytes r.1 sx)).giveFor s.myJob.id g).advance)
        | _ => .next s

/-- A scalar store (R359, R360): checked, then after its release half performed at its point or buffered. -/
def scalarStore (s : State) (q : Req) (a : Word) (scope : Nat) (rel : Bool) (v : Word) : Result :=
  armed s fun s =>
    if s.mustWait [(0, a)] then .next s.stall
    else
      match checkAccess s q [(0, a)] with
      | .error r => r
      | .ok (s, ps) =>
        match ps with
        | [(_, p)] =>
          if spotHeld s scope false p q.size then .next (holdAll s false ps).stall
          else
            releaseThen s rel scope fun s =>
              let g := s.armGive
              let s := s.takeArm
              let bs := leBytes q.size v.toNat
              match p with
              | .mem ⟨4, pa, cmp, m⟩ =>
                let t := s.txn a (.store s.ticket) g none
                .next ((s.sendRemote t ⟨4, pa, cmp, m⟩ fun tag => writeMessage s ⟨4, pa, cmp, m⟩ bs tag).advance)
              | _ => .next ((storeSpot s scope p bs).performed s.ticket g).advance
        | _ => .next s

/-- The request of a scalar access to the global space. -/
def globalReq (k : AccessKind) (n : Nat) : Req := ⟨.global, k, n, n, true⟩

/-- LD (R359). -/
def execLd (d a : SReg) (i : BitVec 6) (z : BitVec 2) (x o : BitVec 1) (c : BitVec 3) (s : State) : Result :=
  scalarLoad s (globalReq .read (sizeOf_ z)) (s.offsetAddr a i z) c.toNat (o = 1#1) d (x = 1#1)

/-- ST (R359). -/
def execSt (d a : SReg) (i : BitVec 6) (z : BitVec 2) (o : BitVec 1) (c : BitVec 3) (s : State) : Result :=
  scalarStore s (globalReq .write (sizeOf_ z)) (s.offsetAddr a i z) c.toNat (o = 1#1) (s.sreg d)

/-- The request of a scalar access to a scratchpad (R360). -/
def poolReq (sp : Space) (k : AccessKind) (n : Nat) : Req := ⟨sp, k, n, n, false⟩

/-- LDX, local (R360): scope .core. -/
def execLdx (d a : SReg) (z : BitVec 2) (x o : BitVec 1) (s : State) : Result :=
  scalarLoad s (poolReq .scratch .read (sizeOf_ z)) (s.sreg a) 1 (o = 1#1) d (x = 1#1)

/-- LDX, peer (R360): scope .dev. -/
def execLdxPeer (d a b : SReg) (z : BitVec 2) (x o : BitVec 1) (s : State) : Result :=
  scalarLoad s (poolReq (.peer (s.sreg b).toNat) .read (sizeOf_ z)) (s.sreg a) 5 (o = 1#1) d (x = 1#1)

/-- STX, local (R360). -/
def execStx (d a : SReg) (z : BitVec 2) (o : BitVec 1) (s : State) : Result :=
  scalarStore s (poolReq .scratch .write (sizeOf_ z)) (s.sreg a) 1 (o = 1#1) (s.sreg d)

/-- STX, peer (R360). -/
def execStxPeer (d a b : SReg) (z : BitVec 2) (o : BitVec 1) (s : State) : Result :=
  scalarStore s (poolReq (.peer (s.sreg b).toNat) .write (sizeOf_ z)) (s.sreg a) 5 (o = 1#1) (s.sreg d)

/-! ### Vector forms (R361, R362) -/

/-- The space that SP selects, the rank coming from sA[63:32] (R245, R361). -/
def State.vectorSpace (s : State) (a : BitVec 3) (sp : BitVec 2) : Space :=
  match sp.toNat with
  | 0 => .global
  | 1 => .scratch
  | _ => .peer (bitsOf (s.sreg (wideReg a)) 63 32)

/-- The base that lane addresses start from: sA, or its low half for a peer's offset (R361). -/
def State.vectorBase (s : State) (a : BitVec 3) (sp : BitVec 2) : Word :=
  if sp.toNat = 2 then BitVec.ofNat 64 (bitsOf (s.sreg (wideReg a)) 31 0) else s.sreg (wideReg a)

/-- Lane addresses of VLD and VST: sA + sB + 4l (R361). -/
def State.unitLanes (s : State) (b : SReg) (a : BitVec 3) (sp : BitVec 2) (m : LaneMask) : List (Nat × Word) :=
  (lanesOf m).map fun l => (l, s.vectorBase a sp + s.sreg b + BitVec.ofNat 64 (4 * l))

/-- Lane addresses of VLDS and VSTS: sA + l x sB (R361). -/
def State.stridedLanes (s : State) (b : SReg) (a : BitVec 3) (sp : BitVec 2) (m : LaneMask) : List (Nat × Word) :=
  (lanesOf m).map fun l => (l, s.vectorBase a sp + BitVec.ofNat 64 l * s.sreg b)

/-- Lane addresses of VGATH, VSCAT and the vector atomics: sA + ZeroExtend(vb[l]) (R361, R364). -/
def State.indexedLanes (s : State) (b : VNum) (a : BitVec 3) (sp : BitVec 2) (m : LaneMask) : List (Nat × Word) :=
  (lanesOf m).map fun l => (l, s.vectorBase a sp + (laneOf (s.vreg b) l).zeroExtend 64)

/-- The lanes that are answered on this module, read in ascending order (R362). -/
def loadLanes (s : State) (scope : Nat) (ps : List (Nat × Spot)) (v : VReg) : VReg × State :=
  match ps with
  | [] => (v, s)
  | (l, p) :: rest =>
    if p.remote then loadLanes s scope rest v
    else
      let r := loadHere s scope p 4
      loadLanes r.2 scope rest (setLane v l (BitVec.ofNat 32 (leNat r.1)))

/-- Requests for the lanes that lie on other modules. -/
def requestLanes (s : State) (d : VNum) (group : Nat) (give : Option (BitVec 3)) (acq : Option Nat)
    (lanes : List ((Nat × Word) × (Nat × Spot))) : State :=
  match lanes with
  | [] => s
  | ((l, a), (_, .mem x)) :: rest =>
    if x.apt = 4 then
      let t := s.txn a (.vload d l group) give acq
      requestLanes (s.sendRemote t x fun tag => readMessage s x 4 tag) d group give acq rest
    else requestLanes s d group give acq rest
  | _ :: rest => requestLanes s d group give acq rest

/-- A vector load (R361): every active lane checked, then read in ascending order into VD. -/
def vectorLoad (s : State) (sp : Space) (lanes : List (Nat × Word)) (scope : Nat) (acq : Bool) (d : VNum) : Result :=
  armed s fun s =>
    if s.mustWait lanes then .next s.stall
    else
      match checkAccess s ⟨sp, .read, 4, 4, false⟩ lanes with
      | .error r => r
      | .ok (s, ps) =>
        if ps.any fun p => spotHeld s scope true p.2 4 then .next (holdAll s true ps).stall
        else
          match (lanes.zip ps).find? fun x => spotPoisoned s scope x.2.2 4 with
          | some x => trap s (accessFault ⟨sp, .read, 4, 4, false⟩ causeDataLost x.1.2)
          | none =>
            let g := s.armGive
            let s := s.takeArm
            let r := loadLanes (s.readSpots scope 4 (ps.map fun p => p.2)) scope ps (s.vreg d)
            if ps.any fun p => p.2.remote then
              let group := s.ticket
              let here := (ps.filter fun p => !p.2.remote).map fun p => (group, p.1, some (laneOf r.1 p.1))
              let s := r.2.nextTicket.modNet fun n => { n with lanesBack := n.lanesBack ++ here }
              .next ((requestLanes (s.pend (.v (s.after d).toNat)) (s.after d) group g (if acq then some scope else none)
                (lanes.zip ps)).advance)
            else .next ((((r.2.acquired acq scope).setV d r.1).giveFor s.myJob.id g).advance)

/-- The lanes of a store performed in ascending order (R362); those that leave the module carry the instruction's number and
its give. -/
def storeLanes (s : State) (scope : Nat) (v : VReg) (group : Nat) (give : Option (BitVec 3))
    (lanes : List ((Nat × Word) × (Nat × Spot))) : State :=
  match lanes with
  | [] => s
  | ((l, a), (_, p)) :: rest =>
    let bs := leBytes 4 (laneOf v l).toNat
    match p with
    | .mem ⟨4, pa, cmp, m⟩ =>
      let t := s.txn a (.store group) give none
      storeLanes (s.sendRemote t ⟨4, pa, cmp, m⟩ fun tag => writeMessage s ⟨4, pa, cmp, m⟩ bs tag) scope v group give rest
    | p => storeLanes (storeHere s scope p bs) scope v group give rest

/-- A vector store (R361): every active lane checked, then written. -/
def vectorStore (s : State) (sp : Space) (lanes : List (Nat × Word)) (scope : Nat) (rel : Bool) (d : VNum) : Result :=
  armed s fun s =>
    if s.mustWait lanes then .next s.stall
    else
      match checkAccess s ⟨sp, .write, 4, 4, false⟩ lanes with
      | .error r => r
      | .ok (s, ps) =>
        if ps.any fun p => spotHeld s scope false p.2 4 then .next (holdAll s false ps).stall
        else
          releaseThen s rel scope fun s =>
            let g := s.armGive
            let s := s.takeArm
            .next ((storeLanes (s.writeSpots 4 (ps.map fun p => p.2)) scope (s.vreg d) s.ticket g
              (lanes.zip ps)).performed s.ticket g).advance

/-- VLD (R361). -/
def execVld (d : VNum) (b : SReg) (a : BitVec 3) (p : BitVec 4) (sp : BitVec 2) (o : BitVec 1) (c : BitVec 3)
    (s : State) : Result :=
  vectorLoad s (s.vectorSpace a sp) (s.unitLanes b a sp (s.active p)) c.toNat (o = 1#1) d

/-- VST (R361). -/
def execVst (d : VNum) (b : SReg) (a : BitVec 3) (p : BitVec 4) (sp : BitVec 2) (o : BitVec 1) (c : BitVec 3)
    (s : State) : Result :=
  vectorStore s (s.vectorSpace a sp) (s.unitLanes b a sp (s.active p)) c.toNat (o = 1#1) d

/-- VLDS (R361). -/
def execVlds (d : VNum) (b : SReg) (a : BitVec 3) (p : BitVec 4) (sp : BitVec 2) (o : BitVec 1) (c : BitVec 3)
    (s : State) : Result :=
  vectorLoad s (s.vectorSpace a sp) (s.stridedLanes b a sp (s.active p)) c.toNat (o = 1#1) d

/-- VSTS (R361). -/
def execVsts (d : VNum) (b : SReg) (a : BitVec 3) (p : BitVec 4) (sp : BitVec 2) (o : BitVec 1) (c : BitVec 3)
    (s : State) : Result :=
  vectorStore s (s.vectorSpace a sp) (s.stridedLanes b a sp (s.active p)) c.toNat (o = 1#1) d

/-- VGATH (R361). -/
def execVgath (d b : VNum) (a : BitVec 3) (p : BitVec 4) (sp : BitVec 2) (o : BitVec 1) (c : BitVec 3) (s : State) :
    Result :=
  vectorLoad s (s.vectorSpace a sp) (s.indexedLanes b a sp (s.active p)) c.toNat (o = 1#1) d

/-- VSCAT (R361, R362). -/
def execVscat (d b : VNum) (a : BitVec 3) (p : BitVec 4) (sp : BitVec 2) (o : BitVec 1) (c : BitVec 3) (s : State) :
    Result :=
  vectorStore s (s.vectorSpace a sp) (s.indexedLanes b a sp (s.active p)) c.toNat (o = 1#1) d

/-! ### Replies -/

/-- A transaction has been answered: it is no longer under way, and its stream's destination is not pending for it. -/
def State.endTxn (s : State) (t : Txn) (r : Option RegName) : State :=
  let s := s.modNet fun n => { n with txns := n.txns.filter fun x => x.id ≠ t.id }
  s.modStream t.strm fun st =>
    { st with
      flights := st.flights.erase t.id,
      pending := match r with
        | some r => st.pending.erase r
        | none => st.pending }

/-- The acquire half of a load or atomic whose reply has come (R221). -/
def State.acquireFor (s : State) (t : Txn) : State :=
  match t.acq, t.strm.owner with
  | some scope, .job j => match (s.job j).bind fun x => x.core with
    | some c => acquireAt s c scope
    | none => s
  | _, _ => s

/-- The give armed on an access whose reply has come (R230). -/
def State.giveOf (s : State) (t : Txn) : State :=
  match t.strm.owner with
  | .job j => s.giveFor j t.give
  | .mgmt _ => s

/-- The stream of a transaction becomes current, with the fragment that issued it; where that has fused, the one that holds its
lanes; where these wait at a region, the stream's current one (R436; log entry 185). -/
def State.selectTxn (s : State) (t : Txn) : State :=
  match s.stream t.strm with
  | none => s
  | some st =>
    let fs := st.frag :: st.frags
    let f := (fs.find? fun f => f.id == t.frag).or (fs.find? fun f => f.mask &&& t.mask != 0#128)
    s.select t.strm (f.getD st.frag).id

/-- A failed reply reaches its stream (R105, R436): STATUS 2 is DATA_LOST, which ends the job; 1 and 3 PERMISSION, which parks the
stream, unless that has ended and has no instruction to park before (log entry 185). -/
def replyFault (s : State) (t : Txn) (status : Nat) (k : AccessKind) : State :=
  match s.stream t.strm with
  | none => s
  | some st =>
    let u := s.selectTxn t
    if u.myJob.hardStop || (st.ended && decide (status ≠ 2)) then s
    else
      takeReplyFault u
        { cause := if status = 2 then causeDataLost else causePermission, kind := 1, space := 0,
          akind := akindCode k, addr := t.va, lanes := some t.mask, pc := some t.pc }

/-- The bytes of an access within the sectors that a read reply carries. -/
def replyBytes (t : Txn) (bs : List Byte) (n : Nat) : List Byte := (bs.drop (t.va.toNat % 32)).take n

/-- Results of a lane group that have come. -/
def State.groupBack (s : State) (g : Nat) : List (Nat × Option (BitVec 32)) :=
  (s.net.lanesBack.filter fun x => x.1 == g).map fun x => x.2

/-- A member of a group of requests that one instruction sent. -/
def txnGroup (t : Txn) : Option Nat :=
  match t.kind with
  | .lanes _ _ _ g => some g
  | .vload _ _ g => some g
  | .store g => some g
  | .buffered g => some g
  | _ => none

/-- The last answer of a group is in: unless one failed, every lane is written (R364, R436). -/
def finishGroup (s : State) (t : Txn) (d : VNum) (g : Nat) : State :=
  if s.net.txns.any fun x => txnGroup x == some g then s
  else
    let back := s.groupBack g
    let s := s.modNet fun n => { n with lanesBack := n.lanesBack.filter fun x => x.1 ≠ g }
    let s := s.modStream t.strm fun st => { st with pending := st.pending.erase (.v d.toNat) }
    if back.any fun x => x.2.isNone then s
    else
      let s := s.modStream t.strm fun st =>
        st.setVAfter d.toNat (back.foldl (fun v x => setLane v x.1 (x.2.getD 0#32)) (st.vregAfter d.toNat))
      (s.acquireFor t).giveOf t

/-- The packet that carried an answer leaves the network; none did where arg.c is 0. -/
def State.dropCarrier (s : State) : State := if s.arg.c = 0 then s else s.dropPacket (s.arg.c - 1)

/-- The answer to what an engine or a unit has asked stands until the operation goes on. -/
def takeAnswer (s : State) (t : Txn) (status : Nat) (bs : List Byte) : State :=
  s.modNet fun n =>
    { n with
      txns := n.txns.filter fun x => x.id ≠ t.id,
      asked := n.asked.map fun a => if a.txn = t.id then { a with answer := some (status, bs) } else a }

/-- LOAD_REPLY (R205): the data of transaction a returns with status b; packet c - 1 carried it. -/
def execLoadReply (s : State) : Result :=
  let s := s.dropCarrier
  match s.net.txns.find? fun t => t.id == s.arg.a with
  | none => .next s
  | some t =>
    match t.kind with
    | .load d n sx =>
      let u := s.endTxn t (some (.s d.toNat))
      if s.arg.b = 0 then
        let u := u.modStream t.strm fun st => st.setS d (extendBytes (replyBytes t s.arg.bytes n) sx)
        .next ((u.acquireFor t).giveOf t)
      else .next (replyFault u t s.arg.b .read)
    | .image g =>
      let u := s.endTxn t (some (.g g))
      if s.arg.b = 0 then
        let u := match t.strm.owner with
          | .job j => u.modJob j fun x => x.setGreg g (StreamReg.ofBytes (replyBytes t s.arg.bytes 64))
          | .mgmt _ => u
        .next (u.giveOf t)
      else .next (replyFault u t s.arg.b .read)
    | .asked => .next (takeAnswer s t s.arg.b s.arg.bytes)
    | .vload d l g =>
      let v := if s.arg.b = 0 then some (BitVec.ofNat 32 (leNat (replyBytes t s.arg.bytes 4))) else none
      let u := (s.endTxn t none).modNet fun n => { n with lanesBack := n.lanesBack ++ [(g, l, v)] }
      let u := if s.arg.b = 0 then u else replyFault u t s.arg.b .read
      .next (finishGroup u t d g)
    | _ => .next s

/-- The last part of a store has performed: its give is, unless a part failed (R230, R436). -/
def finishStore (s : State) (t : Txn) (g : Nat) : State :=
  if s.net.txns.any fun x => txnGroup x == some g then s
  else
    let u := s.modNet fun n => { n with lanesBack := n.lanesBack.filter fun x => x.1 ≠ g }
    if (s.groupBack g).isEmpty then u.giveOf t else u

/-- Bytes of armed stores that have left the buffer of a core have performed (R230). -/
def settleBuffered (s : State) (core : Nat) : State :=
  (s.net.txns.filter fun t => match t.kind with
      | .buffered _ => s.ownerAt t.strm.owner == some core && !(s.mm.wcb.any fun b => b.core == core && b.strm == t.strm)
      | _ => false).foldl
    (fun s t => match t.kind with
      | .buffered g => finishStore (s.endTxn t none) t g
      | _ => s) s

/-- WC_DRAIN (R225): the buffer of core a drains to its stores' points of performance. -/
def execWcDrain (s : State) : Result := .next (settleBuffered (drainCore s s.arg.a) s.arg.a)

/-- WRITE_ACKNOWLEDGEMENT (R93, R237): the write of transaction a is acknowledged with status b; packet c - 1
carried it. -/
def execWriteAcknowledgement (s : State) : Result :=
  let s := s.dropCarrier
  match s.net.txns.find? fun t => t.id == s.arg.a with
  | none => .next s
  | some t =>
    match t.kind with
    | .asked => .next (takeAnswer s t s.arg.b [])
    | .store g =>
      let u := s.endTxn t none
      if s.arg.b = 0 then .next (finishStore u t g)
      else
        let u := if t.give.isSome then u.modNet fun n => { n with lanesBack := n.lanesBack ++ [(g, 0, none)] } else u
        .next (finishStore (replyFault u t s.arg.b .write) t g)
    | _ => .next s

end Sys2Proof.Machine
end

