-- ==== Sys2Proof/Machine/Atomics.lean ====
section
/-!
DEFINITION. Atomics: the scalar forms (R363), VATOM and VCAS with the load-store aggregator (R364, R365), their places of
performance (R227), and the replies of far ones (R205, R436).
-/

namespace Sys2Proof.Machine

/-! ### Places of performance (R227) -/

/-- The job sets its EXT bit (R166). -/
def State.markExt (s : State) : State := s.setJob fun j => { j with ext := true }

/-- The bytes of a line that the issuing core's buffer holds drain (R227, R218). -/
def State.drainLine (s : State) (loc : Nat) : State := drainWhere s s.core fun b => b.loc / 128 == loc / 128

/-- The issuing core's buffer holds a byte of a line. -/
def State.bufferedLine (s : State) (loc : Nat) : Bool :=
  s.mm.wcb.any fun b => b.core == s.core && b.loc / 128 == loc / 128

/-- The cluster cache of the issuing core holds a byte of a line dirty. -/
def State.dirtyLine (s : State) (loc : Nat) : Bool :=
  s.mm.cluDirty.any fun e =>
    e.1 / cacheStride == coreCluster s.core && e.1 % cacheStride / 128 == loc / 128

/-- Clean copies of a line in the L1 of a core are invalidated. -/
def dropLine (s : State) (core loc : Nat) : State :=
  { s with mm := { s.mm with
      l1Clean := s.mm.l1Clean.filter fun e => !(e.1 / cacheStride == core && e.1 % cacheStride / 128 == loc / 128) } }

/-- Clean copies of a line in a cluster cache are invalidated. -/
def dropCluLine (s : State) (clu loc : Nat) : State :=
  { s with mm := { s.mm with
      cluClean := s.mm.cluClean.filter fun e => !(e.1 / cacheStride == clu && e.1 % cacheStride / 128 == loc / 128) } }

/-- Where an atomic is performed (R215, R227): the issuing core's L1, the cluster cache, a slice reached over the loops, the host,
another module. -/
inductive AtomicPoint where
  | core | cluster | far | host | fabric
  deriving DecidableEq, Repr

def atomicPoint (x : Place) (scope : Nat) : AtomicPoint :=
  match x.apt with
  | 0 => if scope ≤ 2 then .cluster else .far
  | 1 => .far
  | 2 => if scope ≤ 1 then .core else if scope = 2 then .cluster else .host
  | 3 => .host
  | _ => .fabric

/-- Before an atomic performs, the stream's own earlier bytes of the line are at its point (R218 rule 3, R227). -/
def clearWay (s : State) (x : Place) (scope : Nat) : State :=
  if atomicPoint x scope = .core then s else
  let s := s.drainLine x.loc
  match atomicPoint x scope with
  | .cluster => s
  | .fabric => s
  | _ => writeBackWhere s (coreCluster s.core) fun loc => loc / 128 == x.loc / 128

/-- What still stands in the way: bytes that wait for the host's answer (R119). -/
def wayBlocked (s : State) (x : Place) (scope : Nat) : Bool :=
  match atomicPoint x scope with
  | .core => false
  | .cluster => s.bufferedLine x.loc || (decide (x.apt = 0) && s.readHeld x.pa)
  | .fabric => false
  | _ => s.bufferedLine x.loc || s.dirtyLine x.loc

/-- A byte at a cluster cache: what it holds dirty, else what its point holds. -/
def clusterByte (s : State) (clu loc : Nat) : Byte :=
  (s.cluDirtyAt clu loc).getD ((pointRead s loc 1).headD blankByte)

/-- An atomic's value written dirty into a cluster cache. -/
def clusterWrite (s : State) (clu loc : Nat) (cmp : Bool) (bs : List Byte) : State :=
  bs.zipIdx.foldl (fun s b => ((s.putDirty clu (loc + b.2) b.1 true cmp).dropClu clu (loc + b.2)).fireHostLine (loc + b.2)) s

/-- A compare-and-swap writes only where the old value is the one compared with (R363, R364). -/
def aopWrites (aop : Nat) (old c : BitVec 64) : Bool := aop != 10 || old == c

/-- An atomic that performs at the L1, the cluster cache or the host: none when it meets poison (R66). -/
def performHere (s : State) (x : Place) (scope aop n : Nat) (v c : BitVec 64) : Option (BitVec 64) × State :=
  let clu := coreCluster s.core
  let w := n == 8
  match atomicPoint x scope with
  | .cluster =>
    if x.apt = 0 && (List.range n).any (fun k => (s.cluDirtyAt clu (x.loc + k)).isNone && s.poisonedAt (x.pa + k) 1) then
      (none, s)
    else
      let s := s.settleAtomics x.loc n (some clu)
      let held := (List.range n).all fun k => (s.cluDirtyAt clu (x.loc + k)).isSome
      let old := BitVec.ofNat 64 (leNat ((List.range n).map fun k => clusterByte s clu (x.loc + k)))
      let s := if x.apt = 0 && !held then (s.readLine s.groupTag 1 1 x.pa).myParcel 0 x.pa 0 1 else s
      let s := if aopWrites aop old c then clusterWrite s clu x.loc x.cmp (leBytes n (aopNew aop w old v c).toNat) else s
      (some old, dropLine s s.core x.loc)
  | .core =>
    let r := loadBytes s s.core scope x.loc n
    let old := BitVec.ofNat 64 (leNat r.1)
    (some old,
      if aopWrites aop old c then
        bufferStore r.2 s.core s.me.id scope x.loc x.cmp s.slack (leBytes n (aopNew aop w old v c).toNat)
      else r.2)
  | _ =>
    let s := s.settleAtomics x.loc n none
    let old := BitVec.ofNat 64 (leNat (pointRead s x.loc n))
    let s := pointWrite s x.loc (leBytes n (aopNew aop w old v c).toNat)
    (some old, dropCluLine (dropLine s s.core x.loc) clu x.loc)

/-- A far or fabric atomic leaves the core as a request (R80, R90, R102, R111). -/
def sendAtomic (s : State) (x : Place) (t : Txn) (scope aop n order : Nat) (nc : Bool) (v c : BitVec 64) : State :=
  let w := n == 8
  match atomicPoint x scope with
  | .far =>
    let s := s.nextTicket.begin { t with loc := some x.loc }
    s.sendPacket
      { Packet.make 4 (coreStop s.core) (sliceStop x.pa) (.fetchOp v c 1 aop w order scope nc false) with
        pa := x.pa, txn := t.id, slack := s.slack, sect := 1, gtag := s.groupTag, strms := [s.me.id],
        cmp := some x.cmp } (corePort s.core)
  | _ => s.sendRemote t x fun tag => fetchMessage s x aop w order nc c v tag

/-- The atomic leaves the core. -/
def leavesCore (x : Place) (scope : Nat) : Bool :=
  match atomicPoint x scope with
  | .far => true
  | .fabric => true
  | _ => false

/-! ### Scalar atomics (R363) -/

/-- The order code has its release half, and its acquire half (R102). -/
def ordReleases (o : BitVec 2) : Bool := o.getLsbD 1
def ordAcquires (o : BitVec 2) : Bool := o.getLsbD 0

/-- A scalar atomic: checked; after its release half and the clearing of its line it performs, or leaves the core. -/
def scalarAtomic (s : State) (aop : Nat) (d a b : SReg) (o : BitVec 2) (scope : Nat) (nc w : Bool) : Result :=
  armed s fun s =>
    let n := if w then 8 else 4
    let va := s.sreg a
    if s.mustWait [(0, va)] then .next s.stall
    else
      match checkAccess s ⟨.global, .atomic, n, n, false⟩ [(0, va)] with
      | .error r => r
      | .ok (s, ps) =>
        match ps with
        | [(_, .mem x)] =>
          releaseThen s (ordReleases o) scope fun s =>
            let s := clearWay s x scope
            if wayBlocked s x scope then .next (holdAll s false ps).stall
            else
              let trim (v : Word) : BitVec 64 := if w then v else v &&& 0xFFFFFFFF#64
              let v := trim (s.sreg b)
              let c := if aop = 10 then trim (s.sreg d) else 0#64
              let g := s.armGive
              let ext (s : State) : State := if 3 ≤ scope then s.markExt else s
              if leavesCore x scope then
                let s := ext s.takeArm
                let t := s.txn va (.atomic d w) g (if ordAcquires o then some scope else none)
                .next ((sendAtomic (s.pend (.s d.toNat)) x t scope aop n o.toNat nc v c).advance)
              else
                match performHere s x scope aop n v c with
                | (none, s) => trap s (accessFault ⟨.global, .atomic, n, n, false⟩ causeDataLost va)
                | (some old, s) =>
                  let s := (ext s.takeArm).acquired (ordAcquires o) scope
                  .next (((s.setS d old).giveFor s.myJob.id g).advance)
        | _ => .next s

/-- ATOM.ADD (R363). -/
def execAtomAdd (d a b : SReg) (o : BitVec 2) (c : BitVec 3) (n w : BitVec 1) (s : State) : Result :=
  scalarAtomic s 0 d a b o c.toNat (n = 1#1) (w = 1#1)

/-- ATOM.AND (R363). -/
def execAtomAnd (d a b : SReg) (o : BitVec 2) (c : BitVec 3) (n w : BitVec 1) (s : State) : Result :=
  scalarAtomic s 1 d a b o c.toNat (n = 1#1) (w = 1#1)

/-- ATOM.OR (R363). -/
def execAtomOr (d a b : SReg) (o : BitVec 2) (c : BitVec 3) (n w : BitVec 1) (s : State) : Result :=
  scalarAtomic s 2 d a b o c.toNat (n = 1#1) (w = 1#1)

/-- ATOM.XOR (R363). -/
def execAtomXor (d a b : SReg) (o : BitVec 2) (c : BitVec 3) (n w : BitVec 1) (s : State) : Result :=
  scalarAtomic s 3 d a b o c.toNat (n = 1#1) (w = 1#1)

/-- ATOM.MIN (R363). -/
def execAtomMin (d a b : SReg) (o : BitVec 2) (c : BitVec 3) (n w : BitVec 1) (s : State) : Result :=
  scalarAtomic s 4 d a b o c.toNat (n = 1#1) (w = 1#1)

/-- ATOM.MAX (R363). -/
def execAtomMax (d a b : SReg) (o : BitVec 2) (c : BitVec 3) (n w : BitVec 1) (s : State) : Result :=
  scalarAtomic s 5 d a b o c.toNat (n = 1#1) (w = 1#1)

/-- ATOM.MINU (R363). -/
def execAtomMinu (d a b : SReg) (o : BitVec 2) (c : BitVec 3) (n w : BitVec 1) (s : State) : Result :=
  scalarAtomic s 6 d a b o c.toNat (n = 1#1) (w = 1#1)

/-- ATOM.MAXU (R363). -/
def execAtomMaxu (d a b : SReg) (o : BitVec 2) (c : BitVec 3) (n w : BitVec 1) (s : State) : Result :=
  scalarAtomic s 7 d a b o c.toNat (n = 1#1) (w = 1#1)

/-- ATOM.FADD (R363): W = 0 only, rounded to nearest-even whatever FPCTL holds. -/
def execAtomFadd (d a b : SReg) (o : BitVec 2) (c : BitVec 3) (n : BitVec 1) (s : State) : Result :=
  scalarAtomic s 8 d a b o c.toNat (n = 1#1) false

/-- ATOM.SWAP (R363). -/
def execAtomSwap (d a b : SReg) (o : BitVec 2) (c : BitVec 3) (n w : BitVec 1) (s : State) : Result :=
  scalarAtomic s 9 d a b o c.toNat (n = 1#1) (w = 1#1)

/-- ATOM.CAS (R363): sD carries the compare value in and the old value out. -/
def execAtomCas (d a b : SReg) (o : BitVec 2) (c : BitVec 3) (n w : BitVec 1) (s : State) : Result :=
  scalarAtomic s 10 d a b o c.toNat (n = 1#1) (w = 1#1)

/-! ### Vector atomics (R364) -/

/-- One request of a vector atomic: the lanes that it stands for with their operands, its address and place, its
operand and compare value. -/
structure LaneRequest where
  lanes : List (Nat × BitVec 32)
  va    : Word
  place : Place
  v     : BitVec 64
  c     : BitVec 64
  deriving DecidableEq, Repr

/-- The left fold of operands in 32 bits (R109). -/
def laneFold (aop : Nat) (xs : List (BitVec 32)) : BitVec 64 :=
  match xs with
  | [] => 0#64
  | x :: rest => rest.foldl (fun p y => aopApply aop false p (y.zeroExtend 64)) (x.zeroExtend 64)

/-- The requests of an instruction (R364): one per distinct address in ascending order of its lowest lane; for SWAP and
CAS one per lane, those of one address together. `x` and `c` give a lane's operand and compare value. -/
def laneRequests (fuel aop : Nat) (x c : Nat → BitVec 32) (lanes : List (Nat × Word × Place)) : List LaneRequest :=
  match fuel with
  | 0 => []
  | fuel + 1 =>
    match lanes with
    | [] => []
    | (l, a, p) :: rest =>
      let same := (l, a, p) :: rest.filter fun y => y.2.1 == a
      let others := rest.filter fun y => y.2.1 != a
      let reqs :=
        if 9 ≤ aop then
          same.map fun y => ⟨[(y.1, x y.1)], y.2.1, y.2.2, (x y.1).zeroExtend 64, (c y.1).zeroExtend 64⟩
        else [⟨same.map fun y => (y.1, x y.1), a, p, laneFold aop (same.map fun y => x y.1), 0#64⟩]
      reqs ++ laneRequests fuel aop x c others

/-- What the lanes of a request receive on its reply v (R364): each lane the running value before it in the lane order, which
for FADD rounds at each lane and not over the fold of the lower ones (log entry 174). -/
def laneResults (aop : Nat) (p : BitVec 64) (lanes : List (Nat × BitVec 32)) : List (Nat × BitVec 32) :=
  match lanes with
  | [] => []
  | (l, x) :: rest => (l, p.truncate 32) :: laneResults aop (aopApply aop false p (x.zeroExtend 64)) rest

/-- The requests leave in order; those that perform here do so at once. Beside the state stands the address of the first that met
poison: it leaves a mark for its group, of which no lane is then written. -/
def issueRequests (s : State) (d : VNum) (scope aop order : Nat) (nc : Bool) (g : Nat) (give : Option (BitVec 3))
    (acq : Option Nat) (rs : List LaneRequest) : Option Word × State :=
  match rs with
  | [] => (none, s)
  | r :: rest =>
    if leavesCore r.place scope then
      let t := s.txn r.va (.lanes d r.lanes aop g) give acq
      issueRequests (sendAtomic s r.place t scope aop 4 order nc r.v r.c) d scope aop order nc g give acq rest
    else
      match performHere s r.place scope aop 4 r.v r.c with
      | (none, s) =>
        let s := s.modNet fun n => { n with lanesBack := n.lanesBack ++ r.lanes.map fun y => (g, y.1, none) }
        (some r.va, (issueRequests s d scope aop order nc g give acq rest).2)
      | (some old, s) =>
        let back := (laneResults aop old r.lanes).map fun y => (g, y.1, some y.2)
        issueRequests (s.modNet fun n => { n with lanesBack := n.lanesBack ++ back }) d scope aop order nc g give acq rest

/-- The place of a checked lane of the global space. -/
def laneOfSpot (y : (Nat × Word) × (Nat × Spot)) : Option (Nat × Word × Place) :=
  match y.2.2 with
  | .mem p => some (y.1.1, y.1.2, p)
  | .pool _ _ => none

/-- A vector atomic over the lanes of the fragment (R364). -/
def vectorAtomic (s : State) (aop : Nat) (d b : VNum) (a : BitVec 3) (o : BitVec 2) (scope : Nat) (nc : Bool)
    (x c : Nat → BitVec 32) : Result :=
  armed s fun s =>
    let q : Req := ⟨.global, .atomic, 4, 4, false⟩
    let lanes := s.indexedLanes b a 0#2 s.mask
    if s.mustWait lanes then .next s.stall
    else
      match checkAccess s q lanes with
      | .error r => r
      | .ok (s, ps) =>
        releaseThen s (ordReleases o) scope fun s =>
          let at_ := (lanes.zip ps).filterMap laneOfSpot
          let s := at_.foldl (fun s y => clearWay s y.2.2 scope) s
          if at_.any fun y => wayBlocked s y.2.2 scope then .next (holdAll s false ps).stall
          else
            let g := s.armGive
            let s := if 3 ≤ scope then s.takeArm.markExt else s.takeArm
            let acq := if ordAcquires o then some scope else none
            let t : Txn := s.txn 0#64 (.vload (s.after d) 0 s.ticket) g acq
            let away := at_.any fun y => leavesCore y.2.2 scope
            let u := if away then s.nextTicket.pend (.v (s.after d).toNat) else s.nextTicket
            let r := issueRequests u (s.after d) scope aop o.toNat nc t.id g acq (laneRequests 128 aop x c at_)
            let u := if away then r.2 else finishGroup r.2 t (s.after d) t.id
            match r.1 with
            | some va => trap u (accessFault q causeDataLost va)
            | none => .next u.advance

/-- VATOM (R364): AOP 0 to 9; others are refused by the decoder. -/
def execVatom (d b : VNum) (a : BitVec 3) (op : BitVec 4) (o : BitVec 2) (c : BitVec 3) (n : BitVec 1) (s : State) :
    Result :=
  vectorAtomic s op.toNat d b a o c.toNat (n = 1#1) (fun l => laneOf (s.vreg d) l) fun _ => 0#32

/-- The even register of a pair (R253). -/
def pairReg (d : BitVec 5) : VNum := d.zeroExtend 6 <<< 1

/-- VCAS (R364): lane l compares with VD and writes VD + 1; VD is even. -/
def execVcas (d : BitVec 5) (b : VNum) (a : BitVec 3) (o : BitVec 2) (c : BitVec 3) (n : BitVec 1) (s : State) : Result :=
  vectorAtomic s 10 (pairReg d) b a o c.toNat (n = 1#1) (fun l => laneOf (s.vregAt (pairReg d) 1) l)
    fun l => laneOf (s.vreg (pairReg d)) l

/-! ### Replies -/

/-- Clean copies of an atomic's line that its own core holds are older than what the stream now knows (R218 rule 2). -/
def State.dropReplied (s : State) (t : Txn) : State :=
  match s.ownerAt t.strm.owner, t.loc with
  | some c, some l => dropCluLine (dropLine s c l) (coreCluster c) l
  | _, _ => s

end Sys2Proof.Machine
end

