-- ==== Sys2Proof/Machine/Branches.lean ====
section
/-!
DEFINITION. Branches and hardware loops (R194, R297 to R301).
-/

namespace Sys2Proof.Machine

/-- An address that is 4-byte aligned and lies in the executing engine's section; a management core runs its firmware
image, which is no section (R194, R297). -/
def State.targetOk (s : State) (t : Word) : Bool :=
  t.toNat % 4 == 0 &&
    (s.isMgmt || match s.myJob.section s.me.engine with
      | some x => decide (x.base.toNat ≤ t.toNat) && decide (t.toNat < x.base.toNat + x.size)
      | none => false)

/-- A branch that is taken (R297): to a wrong address it raises ILLEGAL_INSTRUCTION at the branch. -/
def takeBranch (s : State) (t : Word) : Result :=
  if s.targetOk t then .next (s.goto t) else trapIllegal s

/-- A branch that saves its return address in s63, when it goes (R297). -/
def takeCall (s : State) (t : Word) : Result :=
  if s.targetOk t then .next ((s.setS 63#6 (s.pc + 4#64)).goto t) else trapIllegal s

/-- A conditional branch: one not taken checks nothing (R297). -/
def branchIf (s : State) (c : Bool) (t : Word) : Result :=
  if c then takeBranch s t else .next s.advance

/-- A branch target: a signed word offset from the branch's own address (R297). -/
def State.target {n : Nat} (s : State) (o : BitVec n) : Word := s.pc + 4#64 * o.signExtend 64

/-- B (R297). -/
def execB (o : BitVec 25) (s : State) : Result := takeBranch s (s.target o)

/-- BL (R297). -/
def execBl (o : BitVec 25) (s : State) : Result := takeCall s (s.target o)

/-- BC (R297): COND 8 to 15 raise ILLEGAL_INSTRUCTION; 6 and 7 are BC.BSET and BC.BCLR. -/
def execBc (c : BitVec 4) (a : SReg) (o : BitVec 15) (s : State) : Result :=
  match condHolds c (s.sreg a) with
  | some h => branchIf s h (s.target o)
  | none => trapIllegal s

/-- BC.BSET (R297). -/
def execBcBset (a : SReg) (n : BitVec 6) (o : BitVec 9) (s : State) : Result :=
  branchIf s (bitOf (s.sreg a) n.toNat) (s.target o)

/-- BC.BCLR (R297). -/
def execBcBclr (a : SReg) (n : BitVec 6) (o : BitVec 9) (s : State) : Result :=
  branchIf s (!bitOf (s.sreg a) n.toNat) (s.target o)

/-- BR (R297). -/
def execBr (a : SReg) (s : State) : Result := takeBranch s (s.sreg a)

/-- BLR (R297): the target is read before s63 is written. -/
def execBlr (a : SReg) (s : State) : Result := takeCall s (s.sreg a)

/-- RET (R297). -/
def execRet (s : State) : Result := takeBranch s (s.sreg 63#6)

/-! ### Loops -/

/-- Slots, most recently started first, with one started (R298): any earlier activity of the slot is replaced. -/
def startSlot (ls : List LoopSlot) (l : LoopSlot) : List LoopSlot :=
  l :: ls.filter fun x => x.lc ≠ l.lc

/-- A loop instruction at the program counter (R298, R300): with no iterations execution goes on after the body and the
slot is left as it was; else the slot starts, its counter is loaded and the body is entered. What the instruction prepares it
prepares either way (R301, log entry 196). -/
def startLoop (s : State) (l : BitVec 2) (iterations : Nat) (counter : Word) (kind : LoopKind) (len : BitVec 12)
    (prepare : Stream → Stream) : Result :=
  if len = 0#12 || (s.me.isVector && !s.me.whole) then trapIllegal s
  else
    let last := s.pc + 4#64 * len.zeroExtend 64
    if iterations = 0 then .next ({ s with me := prepare s.me }.goto (last + 4#64))
    else
      let st := prepare (s.me.setLc l.toNat counter)
      .next ({ s with me := { st with loops := startSlot st.loops ⟨l.toNat, s.pc + 4#64, last, kind⟩ } }.advance)

/-- LOOP (R299): counted by sN. -/
def execLoop (l : BitVec 2) (n : SReg) (e : BitVec 12) (s : State) : Result :=
  startLoop s l (s.sreg n).toNat (s.sreg n) .counted e id

/-- LOOPI (R299): an immediate count. -/
def execLoopi (l : BitVec 2) (c : BitVec 11) (e : BitVec 12) (s : State) : Result :=
  startLoop s l c.toNat (c.zeroExtend 64) .counted e id

/-- LOOPX (R299): the body is always entered; the counter counts up from 0 and sN is read at the end word. -/
def execLoopx (l : BitVec 2) (n : SReg) (e : BitVec 12) (s : State) : Result :=
  startLoop s l 1 0#64 (.conditional n) e id

/-- Stage predicates at the start of LOOP.SP (R301): p8 all ones, p9 to p15 zeros. -/
def firstStage (st : Stream) : Stream :=
  (List.range 7).foldl (fun (t : Stream) k => t.setPred (9 + k) 0#128) (st.setPred 8 (BitVec.allOnes 128))

/-- LOOP.SP (R299, R301): sN + st - 1 iterations over sN items, none when sN = 0; only a vector stream rotates. -/
def execLoopSp (l : BitVec 2) (n : SReg) (st : BitVec 5) (e : BitVec 12) (s : State) : Result :=
  let items := s.sreg n
  if st = 0#5 || 8 < st.toNat then trapIllegal s
  else
    let count := if items = 0#64 then 0 else items.toNat + st.toNat - 1
    startLoop s l count (BitVec.ofNat 64 count) (.pipelined items 0) e fun x => if s.me.isVector then firstStage x else x

end Sys2Proof.Machine
end

