-- ==== Sys2Proof/Machine/Parity.lean ====
section
/-!
DEFINITION. The parity groups beneath the slices (R55, R58 to R69, R75, R434): deltas, reconstruction, repairs, losses and
degraded mode, scrub. A line's cells in a group hold the newest value that its data agent has written or, for a lost
unit, would have written: what the agent sent its last delta for.
-/

namespace Sys2Proof.Machine

/-! ### Lines of a group -/

def State.dataCells (s : State) (lp : Bool) : List Host.Cell := if lp then s.dram.dataL else s.dram.dataH
def State.parityCells (s : State) (lp : Bool) : List Host.Cell := if lp then s.dram.parityL else s.dram.parityH

def State.setData (s : State) (lp : Bool) (m : List Host.Cell) : State :=
  if lp then { s with dram := { s.dram with dataL := m } } else { s with dram := { s.dram with dataH := m } }

def State.setParity (s : State) (lp : Bool) (m : List Host.Cell) : State :=
  if lp then { s with dram := { s.dram with parityL := m } } else { s with dram := { s.dram with parityH := m } }

/-- The stripe line that holds a group address. -/
def stripeLineOf (lp : Bool) (a : Nat) : StripeLine := ⟨lp, stripeOf lp a, a % 512 / 128⟩

/-- The data unit of a stripe that a member holds, for a member other than its parity member. -/
def unitHeld (lp : Bool) (n member : Nat) : Nat :=
  (member + groupSize lp - 1 - parityMember lp n) % groupSize lp

/-- Where a stripe's parity line lies in its member: at the soff of the stripe's units (R56). -/
def parityAddr (l : StripeLine) : Nat := 512 * l.stripe + 128 * l.line

/-- Group address of a member's line. -/
def dataAddr (l : StripeLine) (member : Nat) : Nat :=
  unitAddress l.lpddr l.stripe (unitHeld l.lpddr l.stripe member) (128 * l.line)

/-- The members that hold data units of a stripe, in order of d. -/
def dataMembers (l : StripeLine) : List Nat := (List.range (stripeData l.lpddr)).map (dataMember l.lpddr l.stripe)

/-- The unit of a member is lost, or its channel is being entered (R63). -/
def State.unitDown (s : State) (lp : Bool) (n m : Nat) : Bool :=
  s.unitLost lp n m || s.dram.entering.contains (parIndex lp m, stripeChannel lp n)

def State.parityLost (s : State) (l : StripeLine) : Bool :=
  s.unitDown l.lpddr l.stripe (parityMember l.lpddr l.stripe)

def xorBytes (a b : List Byte) : List Byte := List.zipWith (fun x y => x ^^^ y) a b

/-- A stripe is captured in PAR_EVT_STRIPE (R75). -/
def State.captureStripe (s : State) (lp : Bool) (n : Nat) : State :=
  s.setReg (parReg 0x010) (placeField 63 1 (natOfBool lp) ||| placeField 0 28 n)

/-! ### Parity lines (R55, R59) -/

/-- The agent of a stripe's parity line: group, member and channel. -/
def parityAgent (l : StripeLine) : Bool × Nat × Nat := (l.lpddr, parityMember l.lpddr l.stripe, stripeChannel l.lpddr l.stripe)

/-- The copy of a parity line in its agent's cache. -/
def State.cachedParity (s : State) (l : StripeLine) : Option ParityLine := s.dram.parLines.find? fun p => decide (p.line = l)

/-- A parity line as its agent holds it: cached, or in DRAM. -/
def State.parityLine (s : State) (l : StripeLine) : List Byte :=
  match s.cachedParity l with
  | some p => p.bytes
  | none => cellsGet (s.parityCells l.lpddr) (parityAddr l) 128

/-- Parity lines that an agent caches: 128 KiB at a sector agent, a slice's 1 MiB at an HBM-side slice (log entry 177). -/
def parityCapacity (lpddr : Bool) : Nat := if lpddr then 1024 else 8192

/-- A parity line with a new value in its agent's cache; what the cache cannot hold goes to DRAM, the oldest first (R59). -/
def State.putParity (s : State) (l : StripeLine) (bs : List Byte) : State :=
  let rest := s.dram.parLines.filter fun p => decide (p.line ≠ l)
  let mine := rest.filter fun p => decide (parityAgent p.line = parityAgent l)
  let out := mine.drop (parityCapacity l.lpddr - 1)
  let s := out.foldl (fun s p => s.setParity l.lpddr (cellsSet (s.parityCells l.lpddr) (parityAddr p.line) p.bytes)) s
  { s with dram := { s.dram with parLines := ⟨l, bs⟩ :: rest.filter fun p => !out.contains p } }

/-! ### Deltas (R59, R60) -/

def Delta.is (l : StripeLine) (m : Nat) (d : Delta) : Bool := decide (d.line = l) && d.member == m

/-- The parity-consistent image of a member's line (R60 rule 1): the pre-image while a delta has not been applied. -/
def State.image (s : State) (l : StripeLine) (m : Nat) : List Byte :=
  match s.dram.deltas.find? fun d => d.is l m && !d.applied with
  | some d => d.old
  | none => cellsGet (s.dataCells l.lpddr) (dataAddr l m) 128

/-- What the others of a stripe give for a member's line: parity XOR the images of the other data members, or for the parity
member the XOR of them all (R61). -/
def State.rebuild (s : State) (l : StripeLine) (m : Nat) : List Byte :=
  let start := if m = parityMember l.lpddr l.stripe then leBytes 128 0 else s.parityLine l
  ((dataMembers l).filter fun x => x != m).foldl (fun x y => xorBytes x (s.image l y)) start

/-- The old contents that a data agent takes for a lost unit's line: reconstructed, with its own deltas that are still on their
way (R60 rule 4). -/
def State.rebuiltOld (s : State) (l : StripeLine) (m : Nat) : List Byte :=
  (s.dram.deltas.filter fun d => d.is l m && !d.applied).foldl (fun x d => xorBytes x (xorBytes d.old d.new)) (s.rebuild l m)

/-- A data agent writes a line to DRAM (R59): the delta goes to the parity agent, unless the parity member is lost (R60
rule 5); for a unit on a lost member nothing but the delta goes out, from the old contents reconstructed (R60 rule 4, R61). -/
def writeDram (s : State) (lp : Bool) (a : Nat) (new : List Byte) : State :=
  let l := stripeLineOf lp a
  let m := memberOf lp a
  let gone := s.unitLost lp l.stripe m && !s.lineLost lp a
  let old := if gone then s.rebuiltOld l m else cellsGet (s.dataCells lp) (a / 128 * 128) 128
  let s := if gone then s.count (parReg 0x030) 48 1 else s
  let s := s.setData lp (cellsSet (s.dataCells lp) (a / 128 * 128) new)
  if s.parityLost l then s
  else
    let d : Delta := ⟨l, m, old, new, false, false⟩
    let s := s.parcel (agentParcel lp l.stripe 2 m (parityMember lp l.stripe))
    { s with dram := { s.dram with deltas := s.dram.deltas ++ [d] } }.event .parityDelta { line := l, a := m }

/-- The first element that a predicate picks, changed; or taken out. -/
def updateFirst {α : Type} (p : α → Bool) (f : α → Option α) (xs : List α) : List α :=
  match xs with
  | [] => []
  | x :: rest => if p x then (f x).toList ++ rest else x :: updateFirst p f rest

/-- A reconstruction of the line is under way. -/
def State.reconOf (s : State) (l : StripeLine) : Option Recon := s.dram.recons.find? fun r => decide (r.line = l)

/-! ### Lines that are lost for good (R65, R67, R434) -/

/-- PAR_STATE.DLOST of two members, PAR_EVT.SECOND and the stripe (R65). -/
def noteSecond (s : State) (lp : Bool) (n m1 m2 : Nat) : State :=
  ((((s.setField (parState (parIndex lp m1)) 3 3 1).setField (parState (parIndex lp m2)) 3 3 1).raise parEvt 2)).captureStripe
    lp n

/-- Blocks of the LPDDR tier whose map entry is not all zero. -/
def State.mappedBlocks (s : State) : List Nat :=
  ((s.dram.dataL.filter fun c => decide (c.1 < 0x1E00000 * 256)).map fun c => c.1 / 8).eraseDups

/-- The logical lines that a block loses by the lost sector lines of its run (R434). -/
def State.lostLines (s : State) (lbn : Nat) : List Nat :=
  let e := s.mapEntry lbn
  if !mapV e || mapZ e then []
  else if mapU e then
    ((List.range 32).filter fun k => s.sectorLineLost (256 * mapSector e + 128 * k)).map fun k => blockLine lbn + k
  else if (List.range (2 * mapCount e)).any fun k => s.sectorLineLost (256 * mapSector e + 128 * k) then
    (List.range 32).map fun k => blockLine lbn + k
  else []

/-- The logical lines of the LPDDR tier that are lost are recorded at their slices (R434). -/
def poisonLogical (s : State) : State :=
  let lost := (s.mappedBlocks.flatMap s.lostLines).filter fun k => !s.mm.poison.contains k
  { s with mm := { s.mm with poison := s.mm.poison ++ lost } }

/-- A sector that holds an unrecoverable line (R434). -/
def State.sectorLost (s : State) (k : Nat) : Bool := s.sectorLineLost (256 * k) || s.sectorLineLost (256 * k + 128)

/-- Free sectors of both managers that are not lost, counted anew (R49, R434). -/
def State.countFree (s : State) : Nat :=
  (s.dram.free.map fun f =>
    ((List.range (f.2.stop - f.2.next)).filter fun k => !s.sectorLost (f.2.next + k)).length +
      (f.2.runs.map fun r => ((List.range r.2).filter fun k => !s.sectorLost (r.1 + k)).length).sum).sum

/-- MEM_LP_FREE takes a number: LOW and CRIT are set where it lies below their watermarks (R51). -/
def noteFree (s : State) (free : Nat) : State :=
  let s := s.setReg (memReg 0x010) (BitVec.ofNat 64 free)
  let s := if free < s.field (memReg 0x018) 33 0 then s.raise memEvt 0 else s
  if free < s.field (memReg 0x020) 33 0 then s.raise memEvt 1 else s

/-- Lines of the sector space have been lost: the logical lines in them are poisoned, and their sectors are free no more
(R434). -/
def sectorsLost (s : State) : State := noteFree (poisonLogical s) s.countFree

/-- Members of a group that are lost in a stripe, other than one. -/
def otherLosses (s : State) (lp : Bool) (n member : Nat) : List Nat :=
  (List.range (groupSize lp)).filter fun m => m != member && s.unitLost lp n m

/-- Lines of one stripe line become unrecoverable, those that these members hold data of (R65, R67); two of the members are
reported. -/
def loseLines (s : State) (l : StripeLine) (members : List Nat) : State :=
  let lines := (members.filter fun m => m != parityMember l.lpddr l.stripe).map fun m => dataAddr l m / 128
  let s := if l.lpddr then
      sectorsLost { s with dram := { s.dram with lostSectorLines := lines ++ s.dram.lostSectorLines } }
    else { s with mm := { s.mm with poison := lines ++ s.mm.poison } }
  let s := { s with dram := { s.dram with erring := s.dram.erring.filter fun e => !(e.1 == l.lpddr && lines.contains e.2) } }
  noteSecond s l.lpddr l.stripe (members.headD 0) (members.getD 1 (members.headD 0))

/-! ### Errors and reconstruction (R60 rule 3, R61, R62, R67) -/

/-- A unit of a stripe raised an uncorrectable error: the sixty-fourth of its channel within 1 ms declares the channel lost (R62).
A unit is known by its channel offset in units of 512 bytes (R56, R57). -/
def noteErred (s : State) (lp : Bool) (n member : Nat) : State :=
  let i := parIndex lp member
  let ch := stripeChannel lp n
  let unit := channelOffset lp (unitAddress lp n 0 0) / 512
  let recent := s.dram.erred.filter fun e => decide (s.time.ticks < e.2.2.2 + 1000 * Config.ticksPerMicrosecond)
  let kept := recent.filter fun e => !(e.1 == i && e.2.1 == ch && e.2.2.1 == unit)
  let all := kept ++ [(i, ch, unit, s.time.ticks)]
  let s := { s with dram := { s.dram with erred := all } }
  if 64 ≤ (all.filter fun e => e.1 == i && e.2.1 == ch).length then s.event .channelLoss { a := i, b := ch } else s

/-- A line is asked of its parity agent. -/
def askReconstruction (s : State) (lp : Bool) (a : Nat) : State :=
  s.event .reconstructionRequest { line := stripeLineOf lp a, a := memberOf lp a }

/-- The line of a unit that errs is repaired; where another member of its stripe is lost, both members' lines are (R65, R67). -/
def repairLine (s : State) (lp : Bool) (a : Nat) : State :=
  match otherLosses s lp (stripeOf lp a) (memberOf lp a) with
  | [] => askReconstruction s lp a
  | ms => loseLines s (stripeLineOf lp a) (memberOf lp a :: ms)

/-- A DRAM read of a line: of a lost unit by reconstruction (R64), of one whose channel is being entered not now (R63); an
uncorrectable error is repaired (R67). In a stripe with a lost member a fill waits for the read, which has now been made. -/
def readDram (s : State) (lp : Bool) (a : Nat) (erred : Bool) : State :=
  let n := stripeOf lp a
  let m := memberOf lp a
  if s.lineLost lp a || s.dram.rebuilt.contains (lp, a / 128) then s
  else if s.unitLost lp n m then askReconstruction s lp a
  else if s.unitDown lp n m then s
  else if s.dram.erring.contains (lp, a / 128) then repairLine s lp a
  else if erred then
    repairLine { noteErred s lp n m with dram := { (noteErred s lp n m).dram with
      erring := (lp, a / 128) :: s.dram.erring } } lp a
  else if 1 ≤ s.stripeLosses lp n then { s with dram := { s.dram with rebuilt := (lp, a / 128) :: s.dram.rebuilt } }
  else s

/-- The data members that answer a reconstruction. -/
def Recon.survivors (r : Recon) : List Nat := (dataMembers r.line).filter fun m => m != r.requester

/-- The request that a line which errs goes on making until it is repaired or lost (R67). -/
def erringRequest (e : Bool × Nat) : EventArg := { line := stripeLineOf e.1 (128 * e.2), a := memberOf e.1 (128 * e.2) }

/-- RECONSTRUCTION_REQUEST (R61): for member a's line; a line has one reconstruction at a time, and who finds one under way, for
another member or itself, asks again. -/
def execReconstructionRequest (s : State) : Result :=
  let l := s.arg.line
  let a := dataAddr l s.arg.a
  if (s.reconOf l).isSome || !s.lineAway l.lpddr a then .next s
  else if s.dram.erring.contains (l.lpddr, a / 128) && !(otherLosses s l.lpddr l.stripe s.arg.a).isEmpty then
    .next (repairLine s l.lpddr a)
  else if s.parityLost l || !(otherLosses s l.lpddr l.stripe s.arg.a).isEmpty then .next s
  else
    let r : Recon := ⟨l, s.arg.a, []⟩
    let p := parityMember l.lpddr l.stripe
    let ask (s : State) (m : Nat) : State := s.parcel (agentParcel l.lpddr l.stripe 0 p m)
    .next (r.survivors.foldl (fun s m => (ask s m).event .reconstructionAnswer { line := l, a := m })
      { s with dram := { s.dram with recons := s.dram.recons ++ [r] } })

/-- The reconstruction has every answer. -/
def Recon.complete (r : Recon) : Bool := r.survivors.all fun m => r.answers.any fun x => x.1 == m

/-- The deltas of a line that are held are released (R61). -/
def releaseDeltas (s : State) (l : StripeLine) : State :=
  let held := s.dram.deltas.filter fun d => decide (d.line = l) && d.held
  let s := { s with dram := { s.dram with
    deltas := s.dram.deltas.map fun d => if d.line = l then { d with held := false } else d } }
  held.foldl (fun s d => s.event .parityDelta { line := l, a := d.member }) s

/-- A reconstruction that meets an uncorrectable error of one more member ends, and what it held is released: the lines of its
requester and of that member cannot be had any more (R65, R67, log entry 178). -/
def failRecon (s : State) (r : Recon) (m : Nat) : State :=
  let s := noteErred s r.line.lpddr r.line.stripe m
  let s := { s with dram := { s.dram with recons := s.dram.recons.filter fun x => decide (x.line ≠ r.line) } }
  releaseDeltas (loseLines s r.line [r.requester, m]) r.line

/-- RECONSTRUCTION_ANSWER (R60 rule 3): member a answers once its own deltas for the line are acknowledged; with flag its read
met an uncorrectable error (R67). -/
def execReconstructionAnswer (s : State) : Result :=
  let l := s.arg.line
  let m := s.arg.a
  match s.reconOf l with
  | none => .next s
  | some r =>
    if !r.survivors.contains m || r.answers.any (fun x => x.1 == m) || s.dram.deltas.any (Delta.is l m) then .next s
    else if s.arg.flag then .next (failRecon s r m)
    else
      let r' := { r with answers := r.answers ++ [(m, cellsGet (s.dataCells l.lpddr) (dataAddr l m) 128)] }
      let s := { s with dram := { s.dram with recons := updateFirst (fun x => decide (x.line = l)) (fun _ => some r') s.dram.recons } }
      .next (if r'.complete then s.event .reconstructionComplete { line := l } else s)

/-- A repair under R67 is counted. -/
def noteFix (s : State) (lp : Bool) (n : Nat) : State :=
  ((s.count (parReg 0x038) 48 1).raise parEvt 1).captureStripe lp n

/-- The line that a reconstruction gives back is the agent's image, for the fill that asked for it (R61); a repaired line is
written back to its unit (R67). A write of the agent's own whose delta is still on its way is newer than what comes back, and
stands (R68). -/
def installLine (s : State) (l : StripeLine) (m : Nat) (bs : List Byte) : State :=
  let a := dataAddr l m
  let newer := s.dram.deltas.any fun d => d.is l m && !d.applied
  let s := if newer then s else s.setData l.lpddr (cellsSet (s.dataCells l.lpddr) a bs)
  let s := if newer || l.lpddr || s.mm.dirty.contains (a / 128) then s
    else { s with mm := { s.mm with mem := cellsSet s.mm.mem a bs } }
  if s.dram.erring.contains (l.lpddr, a / 128) then
    noteFix { s with dram := { s.dram with erring := s.dram.erring.erase (l.lpddr, a / 128) } } l.lpddr l.stripe
  else { s with dram := { s.dram with rebuilt := (l.lpddr, a / 128) :: s.dram.rebuilt } }

/-- RECONSTRUCTION_COMPLETE (R61): parity XOR the images goes to the requester, then the held deltas are released; with flag the
read of a parity line that was not cached met an uncorrectable error (R67). -/
def execReconstructionComplete (s : State) : Result :=
  let l := s.arg.line
  match s.reconOf l with
  | none => .next s
  | some r =>
    if !r.complete then .next s
    else if s.arg.flag && (s.cachedParity l).isNone then .next (failRecon s r (parityMember l.lpddr l.stripe))
    else
      let bs := r.answers.foldl (fun x y => xorBytes x y.2) (s.parityLine l)
      let s := installLine s l r.requester bs
      let s := s.count (parReg 0x030) 48 1
      .next (releaseDeltas { s with dram := { s.dram with
        recons := updateFirst (fun x => decide (x.line = l)) (fun _ => none) s.dram.recons } } l)

/-- A parity line that is not cached is fetched (R59); with a read that errs it is formed anew from the images and counted as a
repair, and where a data unit of its stripe is lost, that unit's line is lost too (R65, R67). -/
def fetchParity (s : State) (l : StripeLine) (erred : Bool) : State :=
  let p := parityMember l.lpddr l.stripe
  if (s.cachedParity l).isSome then s
  else if !erred then s.putParity l (s.parityLine l)
  else
    let s := (noteErred s l.lpddr l.stripe p).putParity l (s.rebuild l p)
    match otherLosses s l.lpddr l.stripe p with
    | [] => (noteFix s l.lpddr l.stripe).count (parReg 0x030) 48 1
    | m :: _ => loseLines s l [m, p]

/-- PARITY_DELTA (R59, R60): the oldest delta of member a for a line that has not been applied reaches the parity agent: it
is held when a reconstruction has that member's answer, discarded when the parity unit is lost, else applied to the cached
parity line and acknowledged; with flag the fetch of that line met an uncorrectable error (R67). -/
def execParityDelta (s : State) : Result :=
  let l := s.arg.line
  let m := s.arg.a
  let mine (d : Delta) : Bool := d.is l m && !d.applied && !d.held
  let put (f : Delta → Option Delta) (s : State) : State :=
    { s with dram := { s.dram with deltas := updateFirst mine f s.dram.deltas } }
  let applied (d : Delta) : State := apply l d (put (fun d => some { d with applied := true }) (fetchParity s l s.arg.flag))
  match s.dram.deltas.find? mine with
  | none => .next s
  | some d =>
    if s.parityLost l then .next (put (fun _ => none) s)
    else
      match s.reconOf l with
      | some r =>
        if r.answers.any fun x => x.1 == m then .next (put (fun d => some { d with held := true }) s)
        else .next (applied d)
      | none => .next (applied d)
where
  /-- the delta goes into the parity line, and the acknowledgement back -/
  apply (l : StripeLine) (d : Delta) (s : State) : State :=
    (s.putParity l (xorBytes (s.parityLine l) (xorBytes d.old d.new))).event .deltaAck { line := l, a := d.member }

/-- DELTA_ACK (R59): the oldest applied delta of member a for the line is acknowledged, and its image is the new value; an
answer that waited for it can go out (R60 rule 3). -/
def execDeltaAck (s : State) : Result :=
  let l := s.arg.line
  let m := s.arg.a
  let left := updateFirst (fun d => d.is l m && d.applied) (fun _ => none) s.dram.deltas
  let s := { s with dram := { s.dram with deltas := left } }
  .next (if (s.reconOf l).isSome && !left.any (Delta.is l m) then s.event .reconstructionAnswer { line := l, a := m }
    else s)

/-! ### Losses (R62, R63, R65) -/

/-- Whether a PAR_STATE index is an LPDDR package. -/
def isPackage (i : Nat) : Bool := decide (12 ≤ i)

def indexMember (i : Nat) : Nat := if isPackage i then i - 12 else i

/-- Channels of a member are declared lost (R62, R63): ENTER reads 1, deltas whose parity unit lies on them are discarded,
and the entry runs. -/
def declareLost (s : State) (i : Nat) (chans : List Nat) : State :=
  let lp := isPackage i
  let new := chans.filter fun c => !s.channelLost i c && !s.dram.entering.contains (i, c)
  if new.isEmpty then s
  else
    let dead (d : Delta) : Bool :=
      d.line.lpddr == lp && parityMember lp d.line.stripe == indexMember i && new.contains (stripeChannel lp d.line.stripe)
    let s := s.setField (parState i) 2 2 1
    { s with dram := { s.dram with
        entering := s.dram.entering ++ new.map (fun c => (i, c)),
        deltas := s.dram.deltas.filter fun d => !dead d } }.event .degradedEntryDone { a := i }

/-- Every channel of a member. -/
def allChannels (i : Nat) : List Nat := List.range (memberChannels (isPackage i))

/-- Lost channels of a member. -/
def State.lostChannels (s : State) (i : Nat) : List Nat := (allChannels i).filter fun c => s.channelLost i c

/-- Of newly lost channels (member index, channel), those of a channel number that another member of the group has lost too: with
that member's index. -/
def doubleLosses (s : State) (new : List (Nat × Nat)) : List (Nat × Nat × Nat) :=
  new.flatMap fun e =>
    ((List.range 28).filter fun j => j != e.1 && isPackage j == isPackage e.1 && s.channelLost j e.2).map fun j =>
      (e.1, j, e.2)

/-- R65 for every stripe that channels lost in one event have given a second lost member: channel c's lowest stripe is stripe c
(R56, R57), and the lowest of all is captured, of the HBM4E group where both have some (log entry 170). -/
def noteDoubles (s : State) (new : List (Nat × Nat)) : State :=
  let ds := doubleLosses s new
  let first (a b : Nat × Nat × Nat) : Bool :=
    if isPackage a.1 == isPackage b.1 then decide (a.2.2 ≤ b.2.2) else isPackage b.1
  match firstBy first ds with
  | none => s
  | some low =>
    let s := ds.foldl (fun s d => noteSecond s (isPackage d.1) d.2.2 (indexMember d.1) (indexMember d.2.1)) s
    let s := s.captureStripe (isPackage low.1) low.2.2
    if ds.any fun d => isPackage d.1 then sectorsLost s else s

/-- The mask and state of a member with more channels lost: over half of them lose the member (R62), and
CHLOST shows the single channels (log entry 172). -/
def State.setLost (s : State) (i : Nat) (chans : List Nat) : State :=
  let s := chans.foldl (fun s c => s.setField (parState i) (32 + c) (32 + c) 1) s
  let n := ((allChannels i).filter fun c => bitOf (s.reg (parState i)) (32 + c)).length
  if s.field (parState i) 1 0 = 2 || memberChannels (isPackage i) < 2 * n then s.setField (parState i) 1 0 2
  else if n = 0 then s
  else s.setField (parState i) 1 0 1

/-- Losses of a member take effect (R63 step 4, R65). -/
def enterLost (s : State) (i : Nat) (chans : List Nat) : State :=
  let before := s.lostChannels i
  let s := s.setLost i chans
  noteDoubles s (((s.lostChannels i).filter fun c => !before.contains c).map fun c => (i, c))

/-- DEGRADED_ENTRY_DONE (R63): of member index a. A reconstruction that can no longer be done ends, and what it held is released;
who needs the line asks again. -/
def execDegradedEntryDone (s : State) : Result :=
  let i := s.arg.a
  let chans := (s.dram.entering.filter fun e => e.1 == i).map fun e => e.2
  if chans.isEmpty then .next s
  else
    let s := (enterLost s i chans).setField (parState i) 2 2 0
    let s := s.raise parEvt 0
    let s := { s with dram := { s.dram with entering := s.dram.entering.filter fun e => e.1 != i } }
    let stands (r : Recon) : Bool :=
      !s.parityLost r.line && (otherLosses s r.line.lpddr r.line.stripe r.requester).isEmpty
    let ended := s.dram.recons.filter fun r => !stands r
    let s := { s with dram := { s.dram with recons := s.dram.recons.filter stands } }
    .next (ended.foldl (fun s r => releaseDeltas s r.line) s)

/-- CHANNEL_LOSS (R62): channel b of member index a. -/
def execChannelLoss (s : State) : Result := .next (declareLost s s.arg.a [s.arg.b])

/-- PHY_TRAINING_FAIL (R62): member index a is lost. -/
def execPhyTrainingFail (s : State) : Result := .next (declareLost s s.arg.a (allChannels s.arg.a))

/-- PAR_DECLARE_CHANNEL_LOST (R62, R75). -/
def execParDeclareChannelLost (s : State) : Result := .next (declareLost s s.arg.a [s.arg.b])

/-- PAR_DECLARE_MEMBER_LOST (R62, R75). -/
def execParDeclareMemberLost (s : State) : Result := .next (declareLost s s.arg.a (allChannels s.arg.a))

/-! ### Scrub (R69) -/

/-- The images of a line cannot be gathered now: a delta of it is on its way, or a reconstruction of it runs (R60 rule 3). -/
def State.lineBusy (s : State) (l : StripeLine) : Bool :=
  (s.dram.deltas.any fun d => decide (d.line = l)) || (s.reconOf l).isSome

/-- One line of a stripe scrubbed, with every delta of it acknowledged; `bad` is a member, the parity member among them, whose
read was uncorrectable. -/
def scrubLine (s : State) (l : StripeLine) (bad : Option Nat) : State :=
  let lp := l.lpddr
  if 1 ≤ s.stripeLosses lp l.stripe then s
  else
    match bad with
    | some m =>
      let bs := s.rebuild l m
      let s := (noteErred s lp l.stripe m).count (parReg 0x030) 48 1
      let s := if m = parityMember lp l.stripe then s.putParity l bs
        else s.setData lp (cellsSet (s.dataCells lp) (dataAddr l m) bs)
      let s := { s with dram := { s.dram with erring := s.dram.erring.filter fun e =>
        !(m != parityMember lp l.stripe && e == (lp, dataAddr l m / 128)) } }
      noteFix s lp l.stripe
    | none =>
      let x := s.rebuild l (parityMember lp l.stripe)
      if x = s.parityLine l then s
      else (((s.putParity l x).count (parReg 0x040) 48 1).raise parEvt 3).captureStripe lp l.stripe

/-- The member whose unit errs at a line: one that a read met before, or the one reported (numbered from 1). -/
def State.badMember (s : State) (l : StripeLine) (reported : Nat) : Option Nat :=
  ((dataMembers l).find? fun m => s.dram.erring.contains (l.lpddr, dataAddr l m / 128)).or
    (if reported = 0 || groupSize l.lpddr < reported then none else some (reported - 1))

/-- SCRUB_LINE (R69): a group's next line (flag: the LPDDR group), once its images can be gathered; b is one more than a member
whose read errs. -/
def execScrubLine (s : State) : Result :=
  let lp := s.arg.flag
  let pos := if lp then parReg 0x028 else parReg 0x020
  let n := s.field pos 27 0
  let line := tableGet s.dram.scrub (natOfBool lp) 0
  let l : StripeLine := ⟨lp, n, line⟩
  if s.field (parReg 0x018) 32 32 = 0 || s.lineBusy l then .next s
  else
    let s := scrubLine s l (s.badMember l s.arg.b)
    let s := { s with dram := { s.dram with scrub := tableSet s.dram.scrub (natOfBool lp) ((line + 1) % 4) 0 } }
    if line < 3 then .next s
    else if n + 1 = stripeCount lp then .next ((s.setField pos 27 0 0).raise parEvt 4)
    else .next (s.setField pos 27 0 (n + 1))

/-- PAR_SCRUB_STRIPE (R75): stripe b of the group of member index a, as soon as the images of its lines can be gathered; c is one
more than a member whose read of line arg.line errs. -/
def execParScrubStripe (s : State) : Result :=
  let lp := isPackage s.arg.a
  let at_ (k : Nat) : StripeLine := ⟨lp, s.arg.b, k⟩
  if 27 < s.arg.a || stripeCount lp ≤ s.arg.b then .next (s.raise parEvt 5)
  else if (List.range 4).any fun k => s.lineBusy (at_ k) then .next (s.event .parScrubStripe s.arg)
  else
    .next ((List.range 4).foldl
      (fun s k => scrubLine s (at_ k) (s.badMember (at_ k) (if k = s.arg.line.line then s.arg.c else 0))) s)

end Sys2Proof.Machine
end

