-- ==== Sys2Proof/Machine/LpTier.lean ====
section
/-!
DEFINITION. What reaches the slices and what lies between them and DRAM: slice requests and DRAM reads (R41, R47, R54,
R71), the compressed LPDDR tier with its block map and free space (R45 to R53), and the hotness sweep (R42).
-/

namespace Sys2Proof.Machine

/-! ### Free space (R49, R51) -/

def State.freeCount (s : State) : Nat := s.field (memReg 0x010) 33 0

/-- No sector of a run is lost. -/
def State.runClean (s : State) (r : Nat × Nat) : Bool := (List.range r.2).all fun k => !s.sectorLost (r.1 + k)

/-- The sectors of a run that are not lost, as runs of one (R434). -/
def State.survivingRuns (s : State) (start n : Nat) : List (Nat × Nat) :=
  if s.runClean (start, n) then (if n = 0 then [] else [(start, n)])
  else ((List.range n).filter fun k => !s.sectorLost (start + k)).map fun k => (start + k, 1)

/-- A run of n sectors out of one of at least n; the rest returns to its class. -/
def FreeSpace.carve (f : FreeSpace) (r : Nat × Nat) (n : Nat) : Nat × FreeSpace :=
  let rest := if r.2 = n then [] else [(r.1 + n, r.2 - n)]
  (r.1, { f with runs := f.runs.erase r ++ rest })

/-- A run from the smallest class of at least n sectors that has a clean one; sectors that were never allocated stand in
class 16. -/
def takeRun (fuel : Nat) (s : State) (f : FreeSpace) (n : Nat) : Option (Nat × FreeSpace) :=
  match (List.range (17 - n)).findSome? fun k => f.runs.find? fun r => r.2 == n + k && s.runClean r with
  | some r => some (f.carve r n)
  | none =>
    match fuel with
    | 0 => none
    | fuel + 1 =>
      if f.next + 16 ≤ f.stop then
        takeRun fuel s { f with next := f.next + 16, runs := f.runs ++ s.survivingRuns f.next 16 } n
      else none

/-- Fuel that reaches the end of a manager's untouched sectors. -/
def FreeSpace.fuel (f : FreeSpace) : Nat := (f.stop - f.next) / 16 + 1

/-- A run of n sectors, first from a die's own manager (R49). -/
def allocate (s : State) (die n : Nat) : Option (Nat × State) :=
  [die, 1 - die].findSome? fun d =>
    (tableFind s.dram.free d).bind fun f =>
      (takeRun f.fuel s f n).map fun r => (r.1, { s with dram := { s.dram with free := tablePut s.dram.free d r.2 } })

/-- A run goes back to the manager of its half; lost sectors are withdrawn (R434). -/
def freeRun (s : State) (start n : Nat) : State :=
  let d := if start < 0xF0000000 then 0 else 1
  let back := s.survivingRuns start n
  match tableFind s.dram.free d with
  | none => s
  | some f =>
    let s := { s with dram := { s.dram with free := tablePut s.dram.free d { f with runs := f.runs ++ back } } }
    s.setReg (memReg 0x010) (BitVec.ofNat 64 (s.freeCount + (back.map fun r => r.2).sum))

/-- Sorted runs joined where they are adjacent and the sum stays within 16. -/
def joinRuns (rs : List (Nat × Nat)) : List (Nat × Nat) :=
  match rs with
  | [] => []
  | r :: rest =>
    match joinRuns rest with
    | [] => [r]
    | q :: more => if r.1 + r.2 = q.1 && decide (r.2 + q.2 ≤ 16) then (r.1, r.2 + q.2) :: more else r :: q :: more

/-- LP_FREE_MERGE (R49): while MERGE = 1. -/
def execLpFreeMerge (s : State) : Result :=
  if s.field (memReg 0x000) 1 1 = 0 then .next s
  else
    let merge (f : FreeSpace) : FreeSpace := { f with runs := joinRuns (sortBy (fun a b => decide (a.1 ≤ b.1)) f.runs) }
    .next { s with dram := { s.dram with free := s.dram.free.map fun e => (e.1, merge e.2) } }

/-! ### The block map (R45, R46) and write-back (R48) -/

/-- Bytes written to the sector space, line by line, as its sector agents do (R55). -/
def writeSectors (s : State) (a : Nat) (bs : List Byte) : State :=
  (splitLines (bs.length + 1) a bs).foldl
    (fun s p =>
      let base := p.1 / 128 * 128
      writeDram s true base (((cellsGet s.dram.dataL base 128).take (p.1 - base)) ++ p.2 ++
        (cellsGet s.dram.dataL base 128).drop (p.1 - base + p.2.length))) s

/-- A map entry written. -/
def setMapEntry (s : State) (lbn : Nat) (e : BitVec 64) : State := writeSectors s (8 * lbn) (leBytes 8 e.toNat)

/-- The logical contents of a block, poisoned lines as zero bytes (R48, R434). -/
def blockBytes (s : State) (lbn : Nat) : List Byte :=
  (List.range 32).flatMap fun k =>
    if s.poisonedLine (blockLine lbn + k) then leBytes 128 0 else cellsGet s.mm.mem (128 * (blockLine lbn + k)) 128

/-- How a block is stored (R48): all zero, in 16 sectors as it is, or encoded in fewer. -/
inductive Encoding where
  | zero
  | plain
  | coded (n : Nat)
  deriving DecidableEq, Repr

def Encoding.sectors (e : Encoding) : Nat :=
  match e with
  | .zero => 0
  | .plain => 16
  | .coded n => n

def encodeBlock (s : State) (lbn : Nat) (bs : List Byte) : Encoding :=
  let n := Config.codecSectors bs % 16 + 1
  if bs.all fun b => b = 0#8 then .zero
  else if s.field (memReg 0x000) 0 0 = 0 || s.mm.plainBlocks.contains lbn || n = 16 then .plain
  else .coded n

/-- The map entry of an encoding at a run (R46). -/
def Encoding.entry (e : Encoding) (bs : List Byte) (sector : Nat) : BitVec 64 :=
  let v := placeField 63 1 1
  match e with
  | .zero => v ||| placeField 62 1 1
  | .plain => v ||| placeField 61 1 1 ||| placeField 33 4 15 ||| placeField 0 33 sector
  | .coded n => v ||| placeField 40 16 (Config.codecState bs) ||| placeField 33 4 (n - 1) ||| placeField 0 33 sector

/-- The bytes of an encoding's run. -/
def Encoding.bytes (e : Encoding) (bs : List Byte) : List Byte :=
  match e with
  | .zero => []
  | .plain => bs
  | .coded n => (List.range (256 * n)).map (Config.codecBytes bs)

/-- Sectors of the run that a map entry names. -/
def entrySectors (e : BitVec 64) : Nat := if mapV e && !mapZ e then mapCount e else 0

/-- A block is no longer dirty in its slice, nor stalled. -/
def cleanBlock (s : State) (lbn : Nat) : State :=
  { s with
    mm := { s.mm with dirty := s.mm.dirty.filter fun l => l / 32 != blockLine lbn / 32 },
    dram := { s.dram with stalled := s.dram.stalled.filter fun b => b != lbn } }

/-- A write-back stalls at its slice (R51). -/
def stallBlock (s : State) (lbn : Nat) : State :=
  if s.dram.stalled.contains lbn then s else { s with dram := { s.dram with stalled := s.dram.stalled ++ [lbn] } }

/-- LP_BLOCK_WRITEBACK (R48, R51): encode, allocate, write the run, then the map entry, then free the old run. -/
def writeBackBlock (s : State) (lbn : Nat) : State :=
  let old := s.mapEntry lbn
  if !mapV old then cleanBlock s lbn
  else
    let bs := blockBytes s lbn
    let enc := encodeBlock s lbn bs
    let n := enc.sectors
    let had := entrySectors old
    if decide (had < n) && decide (s.freeCount < s.field (memReg 0x020) 33 0) then stallBlock s lbn
    else
      let free (s : State) : State := if had = 0 then s else freeRun s (mapSector old) had
      if n = 0 then free (setMapEntry (cleanBlock s lbn) lbn (enc.entry bs 0))
      else
        match allocate s (lpddrSlice lbn / 32) n with
        | none => stallBlock (s.raise memEvt 2) lbn
        | some (sector, s) =>
          let s := noteFree s (s.freeCount - n)
          let s := writeSectors s (256 * sector) (enc.bytes bs)
          free (setMapEntry (cleanBlock s lbn) lbn (enc.entry bs sector))

/-- LP_WRITEBACK_RESUME (R51): the stalled write-back of block a tries again. -/
def execLpWritebackResume (s : State) : Result :=
  if s.dram.stalled.contains s.arg.a then .next (writeBackBlock s s.arg.a) else .next s

/-! ### Commit and decommit (R50) -/

/-- The blocks of a range. -/
def blockRange (lbn n : Nat) : List Nat := (List.range n).map fun k => lbn + k

/-- The effective commit limit. -/
def State.commitLimit (s : State) : Nat :=
  min (min (s.field (memReg 0x028) 29 0) 0x3C000000) (if s.field (memReg 0x000) 0 0 = 0 then 0x1DE20000 else 0x3C000000)

/-- LP_COMMIT (R50): b blocks from a; refused whole when the limit would be passed. -/
def execLpCommit (s : State) : Result :=
  let new := (blockRange s.arg.a s.arg.b).filter fun l => !s.committed l
  let now := s.field (memReg 0x030) 30 0 + new.length
  if new ≠ [] ∧ s.commitLimit < now then .next ((s.raise memEvt 3).setField (memReg 0x000) 2 2 0)
  else
    let s := new.foldl (fun s l => setMapEntry s l (s.mapEntry l ||| placeField 63 1 1 ||| placeField 62 1 1)) s
    let s := s.setField (memReg 0x030) 30 0 now
    .next ({ s with dram := { s.dram with command := some (1, s.arg.a, s.arg.b) } }.event .lpCmdDone {})

/-- A block is decommitted: its run is freed and V cleared; from now on it reads as zeros (R47). -/
def decommitBlock (s : State) (lbn : Nat) : State :=
  let e := s.mapEntry lbn
  let s := cleanBlock s lbn
  let s := { s with mm := { s.mm with
    mem := cellsClear s.mm.mem (128 * blockLine lbn) 4096, l2 := s.mm.l2.filter fun l => l / 32 != blockLine lbn / 32 } }
  let s := setMapEntry s lbn (e &&& ~~~ placeField 63 1 1)
  if entrySectors e = 0 then s else freeRun s (mapSector e) (entrySectors e)

/-- LP_DECOMMIT (R50): b blocks from a. -/
def execLpDecommit (s : State) : Result :=
  let old := (blockRange s.arg.a s.arg.b).filter s.committed
  let s := old.foldl decommitBlock s
  let s := s.setField (memReg 0x030) 30 0 (s.field (memReg 0x030) 30 0 - old.length)
  .next ({ s with dram := { s.dram with command := some (2, s.arg.a, s.arg.b) } }.event .lpCmdDone {})

/-- LP_CMD_DONE (R50): CMDBUSY clears and CMDDONE is set. -/
def execLpCmdDone (s : State) : Result :=
  match s.dram.command with
  | none => .next s
  | some _ =>
    .next { ((s.setField (memReg 0x000) 2 2 0).raise memEvt 5) with dram := { s.dram with command := none } }

/-! ### Hotness (R41, R42) -/

/-- The physical address of a page's counter. -/
def State.hotCounter (s : State) (pa : Nat) : Nat :=
  if inLpddr pa then s.field (memReg 0x058) 51 16 * 65536 + (pa - lpddrBase) / 65536
  else s.field (memReg 0x050) 51 16 * 65536 + pa / 65536

/-- The map cache of a slice takes in the entry of a block; it holds 4,096, and the oldest leave (R47, log entry 169). -/
def State.cacheMap (s : State) (lbn : Nat) : State :=
  let same (b : Nat) : Bool := lpddrSlice b == lpddrSlice lbn
  if s.dram.mapCache.contains lbn then s
  else
    { s with dram := { s.dram with
        mapCache := (lbn :: s.dram.mapCache.filter same).take 4096 ++ s.dram.mapCache.filter fun b => !same b } }

/-- A counter is raised, and stops at 255 (R41); where the host holds its line, once the host has given that back (R119). -/
def raiseCounter (s : State) (c : Nat) : State :=
  if s.hostHolds c then { s with dram := { s.dram with hotWaits := s.dram.hotWaits ++ [c] } }.backInvalidate c
  else
    let v := cellGet s.mm.mem c
    if v = 255#8 then s else sliceWrite s c [v + 1#8]

/-- The increments that waited for a line. -/
def settleCounters (s : State) (line : Nat) : State :=
  let mine := s.dram.hotWaits.filter fun c => c / 128 == line
  mine.foldl raiseCounter { s with dram := { s.dram with hotWaits := s.dram.hotWaits.filter fun c => c / 128 != line } }

/-- A fill is counted at its slice; every sixteenth raises the counter of the page that was filled (R41). -/
def noteFill (s : State) (pa : Nat) : State :=
  if s.field (memReg 0x048) 0 0 = 0 then s
  else
    let sl := if inLpddr pa then 384 + lpddrSlice (lbnOf pa) else hbmSlice pa
    let n := (tableGet s.dram.fills sl 0 + 1) % 16
    let s := { s with dram := { s.dram with fills := tableSet s.dram.fills sl n 0 } }
    if n = 0 then raiseCounter s (s.hotCounter pa) else s

/-- The byte at an address lies in one of the two counter arrays. -/
def State.inHotArrays (s : State) (a : Nat) : Bool :=
  let h := s.field (memReg 0x050) 51 16 * 65536
  let l := s.field (memReg 0x058) 51 16 * 65536
  (decide (h ≤ a) && decide (a < h + 11534336)) || (decide (l ≤ a) && decide (a < l + 62914560))

/-- HOT_DECAY (R42): every counter is halved; increments from now on come after. A sweep that meets lines which the host holds
goes on (with the flag) once the host has given them back (R119). -/
def execHotDecay (s : State) : Result :=
  if s.field (memReg 0x048) 2 2 = 1 && !s.arg.flag then .next s
  else
    let hot := s.mm.mem.filter fun c => s.inHotArrays c.1
    let held := hot.filter fun c => s.hostHolds c.1
    let s := s.setField (memReg 0x048) 2 2 1
    if held.isEmpty then .next ((hot.foldl (fun s c => sliceWrite s c.1 [c.2.ushiftRight 1]) s).event .hotSweepEnd {})
    else .next ((held.foldl (fun s c => s.backInvalidate c.1) s).event .hotDecay { flag := true })

/-- HOT_SWEEP_END (R42). -/
def execHotSweepEnd (s : State) : Result := .next (s.setField (memReg 0x048) 2 2 0)

/-! ### Slice requests and DRAM reads (R47, R54) -/

/-- WINDOW in controller cycles (R76): 0 and values above 64 act as 64. -/
def State.groupCycles (s : State) : Nat :=
  let n := s.field (memReg 0x208) 6 0
  if n = 0 || 64 < n then 64 else n

/-- So many controller cycles of a channel have passed since a tick: of 0.625 ns in the HBM4E group, 0.833 ns in the LPDDR group
(R71). -/
def State.cyclesPast (s : State) (chan n since : Nat) : Bool :=
  let cycle := if chan < 384 then 625 else 833
  decide (n * cycle * Config.ticksPerMicrosecond ≤ (s.time.ticks - since) * 1000000)

/-- WINDOW controller cycles have passed since a group's first sector was served (R71). -/
def State.windowPast (s : State) (w : GroupWindow) : Bool := s.cyclesPast w.chan s.groupCycles w.since

/-- A read of a line joins the queues of its channels (R70, R71): its group's tag, SECT and its own sectors; in the LPDDR tier
its sectors of the sector space at each channel. -/
def queueRead (s : State) (pa tag sect own : Nat) : State :=
  let lp := inLpddr pa
  let new := ((s.fillChannels pa).filter fun c => !s.dram.queue.any fun r => r.chan == c.1 && r.pa / 128 == pa / 128).map fun c =>
    (⟨c.1, tag, if lp then c.2 else max 1 sect, if lp then c.2 else max 1 own, pa, s.time.ticks⟩ : ChannelRequest)
  { s with dram := { s.dram with queue := s.dram.queue ++ new } }

/-- A refresh, refresh management or a row swap of a channel stands on the agenda: it goes ahead of every read (R71). -/
def State.channelHeld (s : State) (chan : Nat) : Bool :=
  s.agenda.any fun t => match t with
    | .event i a => (i == .refresh || i == .alertBackoff || i == .rowSwap) && a.a == chan
    | _ => false

/-- The read that a channel serves next (R71): one that has waited 1,024 controller cycles, else with GRP = 1 one of the group
that the channel serves, else the oldest; of those of one line the oldest. -/
def State.nextRead (s : State) (chan : Nat) : Option ChannelRequest :=
  let q := s.dram.queue.filter fun r => r.chan == chan
  let late := q.find? fun r => s.cyclesPast chan 1024 r.since
  let window := if s.field (memReg 0x208) 7 7 = 0 then none else s.dram.windows.find? fun w => w.chan == chan && !s.windowPast w
  let grouped := window.bind fun w => q.find? fun r => r.tag == w.tag
  if s.channelHeld chan then none
  else (late.or (grouped.or q.head?)).bind fun r => q.find? fun x => x.pa / 128 == r.pa / 128

/-- A read is served at a channel: it opens a group's window, or takes its sectors from what the open window has left
(R71). -/
def serveRead (s : State) (r : ChannelRequest) : State :=
  let s := { s with dram := { s.dram with queue := s.dram.queue.filter fun x => x ≠ r } }
  let rest := s.dram.windows.filter fun x => x.chan != r.chan
  let put (ws : List GroupWindow) : State := { s with dram := { s.dram with windows := ws } }
  if s.field (memReg 0x208) 7 7 = 0 then s
  else
    match s.dram.windows.find? fun w => w.chan == r.chan && !s.windowPast w with
    | none => if r.sect ≤ r.own then put rest else put (⟨r.chan, r.tag, r.sect - r.own, s.time.ticks⟩ :: rest)
    | some w =>
      if w.tag ≠ r.tag then s
      else put (if w.left ≤ r.own then rest else { w with left := w.left - r.own } :: rest)

/-- The channels at which a line's read comes next serve it. -/
def serveLine (s : State) (pa : Nat) : State :=
  let mine := s.dram.queue.filter fun r => r.pa / 128 == pa / 128
  mine.foldl (fun s r => if s.nextRead r.chan = some r then serveRead s r else s) s

/-- A line's read still waits at a channel. -/
def State.readWaits (s : State) (pa : Nat) : Bool := s.dram.queue.any fun r => r.pa / 128 == pa / 128

/-- The eviction of a line (R48, R54, R59): a dirty one goes to DRAM, with its whole block in the LPDDR tier. -/
def evictLine (s : State) (pa : Nat) : State :=
  let l := pa / 128
  let s := { s with mm := { s.mm with l2 := s.mm.l2.filter fun x => x != l } }
  if !s.mm.dirty.contains l then s
  else if inLpddr pa then writeBackBlock s (lbnOf pa)
  else
    let s := { s with mm := { s.mm with dirty := s.mm.dirty.erase l } }
    if s.poisonedLine l then s else writeDram s false (128 * l) (cellsGet s.mm.mem (128 * l) 128)

/-- SLICE_REQUEST (R54): a read of so many sectors (with flag: one that misses; its group has tag a and SECT b), a write, or an
eviction.
A device access to a line that the host holds waits for the host's answer (R119). -/
def execSliceRequest (s : State) : Result :=
  match s.arg.slice with
  | .read pa own =>
    if s.hostHolds pa && !s.linePresent (pa / 128) then .next (s.backRead pa)
    else .next (if s.arg.flag then (queueRead s pa s.arg.a s.arg.b own).event .dramReadDone { a := pa } else s.noteRead pa own)
  | .write pa bs => if s.hostHolds pa then .next (s.backInvalidate pa) else .next (sliceWrite s pa bs)
  | .evict pa => .next (evictLine s pa)

/-- The lines that a fill installs (R47): its own, or all 32 of a compressed block. -/
def State.filledLines (s : State) (pa : Nat) : List Nat :=
  let e := s.mapEntry (lbnOf pa)
  if inLpddr pa && mapV e && !mapZ e && !mapU e then (List.range 32).map fun k => blockLine (lbnOf pa) + k
  else [pa / 128]

/-- A fill ends: its lines stand in the slice, its map entry in the map cache, and it is counted where it read DRAM for data. -/
def endFill (s : State) (pa : Nat) : State :=
  let used := (s.dramLines pa).map fun x => (x.1, x.2 / 128)
  let new := (s.filledLines pa).filter fun l => !s.mm.l2.contains l
  let counted := inHbm pa || !(s.runLines pa).isEmpty
  let s := if inLpddr pa then s.cacheMap (lbnOf pa) else s
  let s := { s with
    mm := { s.mm with l2 := s.mm.l2 ++ new },
    dram := { s.dram with rebuilt := s.dram.rebuilt.filter fun x => !used.contains x } }
  if counted then noteFill s pa else s

/-- A DRAM read for the line at arg.a ends (R47, R67); flag: its line number arg.v, of those that it reads, met an uncorrectable
error. The fill ends when none of its lines has still to be reconstructed. -/
def dramReadDone (s : State) : State :=
  let pa := s.arg.a
  if !inTiers pa || s.poisonedLine (pa / 128) then s
  else if s.uncommittedAt pa then s.noteUncommitted (lbnOf pa)
  else
    let lines := (s.dramLines pa).zipIdx
    let s := lines.foldl (fun s x => readDram s x.1.1 x.1.2 (s.arg.flag && x.2 == s.arg.v.toNat)) s
    if s.mustRebuild pa then s else endFill s pa

/-! ### The slices' capacity (R9, R54) -/

/-- Slice of a physical line, LPDDR-side slices from 384 on, and its set there: 512 sets of a 1 MiB slice by the line's place in
the channel, 1,024 of a 2 MiB slice by its block and line (log entry 169). -/
def l2Set (line : Nat) : Nat × Nat :=
  let pa := 128 * line
  if inLpddr pa then (384 + lpddrSlice (lbnOf pa), (lbnOf pa / 64 * 32 + line % 32) % 1024)
  else (hbmSlice pa, channelOffset false pa / 128 % 512)

/-- Each set has 16 ways: what it cannot hold is evicted, the oldest first. -/
def trimSlices (s : State) : State :=
  let held := (s.mm.l2 ++ s.mm.dirty.reverse).eraseDups
  if held.length ≤ 16 then s
  else
    let sets := held.map l2Set
    let out := (held.zipIdx.filter fun x => decide (16 < ((sets.drop x.2).filter fun y => y == l2Set x.1).length)).map fun x => x.1
    out.foldl (fun s l => evictLine s (128 * l)) s

end Sys2Proof.Machine
end

