-- ==== Sys2Proof/Machine/Channels.lean ====
section
/-!
DEFINITION. What a DRAM channel controller does of itself (R71 to R74): group windows, row activations and swaps, refresh
and activation-count alerts. Banks and rows are numbered by whoever reports an activation: the manual does not place
addresses in them.
-/

namespace Sys2Proof.Machine

/-- GROUP_WINDOW_CLOSE (R71): channel a's window has passed, and its group's remaining sectors compete by age. -/
def execGroupWindowClose (s : State) : Result :=
  .next { s with dram := { s.dram with windows := s.dram.windows.filter fun w => w.chan != s.arg.a || !s.windowPast w } }

/-- A bank of a channel. -/
def State.bank (s : State) (chan bank : Nat) : Bank :=
  (s.dram.banks.find? fun b => b.chan == chan && b.bank == bank).getD ⟨chan, bank, [], [], 0, 0⟩

def State.setBank (s : State) (b : Bank) : State :=
  { s with dram := { s.dram with banks := b :: s.dram.banks.filter fun x => !(x.chan == b.chan && x.bank == b.bank) } }

/-- MEM_RH_SWAP counts a swap (R72). -/
def noteSwap (s : State) (chan : Nat) : State := s.count (memReg (0x2000 + 8 * chan)) 32 1

/-- The row that the controller's generator gives for a swap: not the aggressor, and not in the indirection table. -/
def swapPartner (b : Bank) (row draw : Nat) : Option Nat :=
  ((List.range 256).map fun k => Config.swapRow b.chan b.bank (draw + k)).find? fun r =>
    r != row && !b.swaps.any fun w => w.1 == r || w.2 == r

/-- ROW_SWAP (R72): row c of bank b of channel a has reached THRESH activations, and has not been swapped since. Where 256 draws of
the generator give no partner it draws again. Only the aggressor's count restarts (log entry 179). -/
def execRowSwap (s : State) : Result :=
  let b := s.bank s.arg.a s.arg.b
  let limit := s.field (memReg 0x200) 15 0
  if limit = 0 || decide (tableGet b.counts s.arg.c 0 < limit) then .next s
  else
    let (b, s) := if 64 ≤ b.swaps.length then ({ b with swaps := b.swaps.drop 1 }, noteSwap s b.chan) else (b, s)
    match swapPartner b s.arg.c s.draw with
    | none => .next ({ s.setBank b with draw := s.draw + 256 }.event .rowSwap s.arg)
    | some r =>
      let b := { b with swaps := b.swaps ++ [(s.arg.c, r)], counts := tableErase b.counts s.arg.c }
      .next (noteSwap { s.setBank b with draw := s.draw + 256 } b.chan)

/-- An activation of a row is counted; one that finds THRESH reached swaps the row (R72). At a debt of 8 a refresh of the bank
comes first (R73). -/
def noteActivation (s : State) (chan bank row : Nat) : State :=
  let limit := s.field (memReg 0x200) 15 0
  let b := s.bank chan bank
  let s := if b.debt < 8 then s else s.setBank { b with debt := b.debt - 1 }
  if limit = 0 then s
  else
    let b := s.bank chan bank
    let n := tableGet b.counts row 0 + 1
    let s := s.setBank { b with counts := tablePut b.counts row n }
    if limit ≤ n then s.event .rowSwap { a := chan, b := bank, c := row } else s

/-- DRAM_READ_DONE (R47, R67, R71, R72): the read for the line at a ends, once each of its channels has served it: line v of those
read took an activation of row c of bank b of its channel where c is not 0 (numbered from 1), and with flag met an
uncorrectable error. -/
def execDramReadDone (s : State) : Result :=
  let s := serveLine s s.arg.a
  if s.readWaits s.arg.a then .next s
  else
    match (s.dramLines s.arg.a)[s.arg.v.toNat]? with
    | some x => .next (dramReadDone (if s.arg.c = 0 then s else noteActivation s (lineChannel x) s.arg.b s.arg.c))
    | none => .next (dramReadDone s)

/-- A refresh falls due at a bank: every 8,192nd ends a refresh window, and its rows are counted anew (R72, log entry 171). -/
def Bank.fall (b : Bank) : Bank :=
  if 8192 ≤ b.fallen + 1 then { b with fallen := 0, counts := [] } else { b with fallen := b.fallen + 1 }

/-- REFRESH (R72, R73): one falls due at bank b of channel a; with flag traffic is pending and it is postponed, up to a debt of 8;
else it is issued, with c of those owed. -/
def execRefresh (s : State) : Result :=
  let b := (s.bank s.arg.a s.arg.b).fall
  if s.arg.flag && decide (b.debt < 8) then .next (s.setBank { b with debt := b.debt + 1 })
  else .next (s.setBank { b with debt := b.debt - s.arg.c })

/-- ALERT_BACKOFF (R74): an alert for bank b of channel a, for which activations stop for c controller cycles; at a debt of 8
the owed refreshes are issued first. -/
def execAlertBackoff (s : State) : Result :=
  let b := s.bank s.arg.a s.arg.b
  let s := if 8 ≤ b.debt then s.setBank { b with debt := 0 } else s
  .next (s.count (memReg (0x1000 + 8 * s.arg.a)) 48 s.arg.c)

end Sys2Proof.Machine
end

