-- ==== Sys2Proof/Machine/Special.lean ====
section
/-!
DEFINITION. The functions of FUN, correctly rounded (R327). An irrational result is computed with 704 fraction bits,
beyond what any operand of the three formats needs, and rounded with its sticky bit set; the rational results are exact.
-/

namespace Sys2Proof.Machine

/-- Fraction bits of the fixed-point computations. -/
def funBits : Nat := 704

/-- Floor of pi x 2^704. -/
def piFixed : Nat :=
  0x3243f6a8885a308d313198a2e03707344a4093822299f31d0082efa98ec4e6c89452821e638d01377be5466cf34e90c6cc0ac29b7c97c50dd3f84d5b5b54709179216d5d98979fb1bd1310ba698dfb5ac2ffd72dbd01adfb7

/-- Floor of ln 2 x 2^704. -/
def ln2Fixed : Nat :=
  0xb17217f7d1cf79abc9e3b39803f2f6af40f343267298b62d8a0d175b8baafa2be7b876206debac98559552fb4afa1b10ed2eae35c138214427573b291169b8253e96ca16224ae8c51acbda11317c387eb9ea9bc3b136603b

/-- A result: sign, significand and exponent, and whether the exact value lies above it by less than one unit. -/
structure Approx where
  neg    : Bool
  m      : Nat
  e      : Int
  sticky : Bool
  deriving DecidableEq, Repr

/-- Floor of a square root, bit by bit from bit k - 1. -/
def isqrtFrom (k n r : Nat) : Nat :=
  match k with
  | 0 => r
  | k + 1 => isqrtFrom k n (if (r + 2 ^ k) * (r + 2 ^ k) ≤ n then r + 2 ^ k else r)

/-- Floor of a square root. -/
def isqrt (n : Nat) : Nat := isqrtFrom (bitLength n / 2 + 1) n 0

/-- 1 / x for a non-zero finite x. -/
def rcpOf (neg : Bool) (m : Nat) (e : Int) : Approx := ⟨neg, 2 ^ 128 / m, -128 - e, decide (2 ^ 128 % m ≠ 0)⟩

/-- A value as an even power of two times a number. -/
def evenPower (m : Nat) (e : Int) : Nat × Int := if e % 2 = 0 then (m, e / 2) else (2 * m, (e - 1) / 2)

/-- 1 / sqrt x for a positive x. -/
def rsqOf (m : Nat) (e : Int) : Approx :=
  let (m, h) := evenPower m e
  let q := isqrt (2 ^ 256 / m)
  ⟨false, q, -128 - h, decide (m * (q * q) ≠ 2 ^ 256)⟩

/-- sqrt x for a positive x. -/
def sqrtOf (m : Nat) (e : Int) : Approx :=
  let (m, h) := evenPower m e
  let q := isqrt (m * 2 ^ 256)
  ⟨false, q, h - 128, decide (q * q ≠ m * 2 ^ 256)⟩

/-- Sum of the terms t^k / k! from a term on, in fixed point. -/
def expTerms (fuel k t term : Nat) : Nat :=
  match fuel with
  | 0 => term
  | fuel + 1 => term + expTerms fuel (k + 1) t (term * t / 2 ^ funBits / k)

/-- e^t in fixed point for 0 <= t < 1. -/
def expFixed (t : Nat) : Nat := expTerms 200 1 t (2 ^ funBits)

/-- A finite value in fixed point, as a signed integer; exact where its exponent is at least -704. -/
def toFixed (neg : Bool) (m : Nat) (e : Int) : Int := signedOf neg (scaleFloor m (e + funBits))

/-- 2^x (R327): exact for an integer x; an exponent beyond the range of every format is cut to plus or minus 2000. -/
def exp2Of (neg : Bool) (m : Nat) (e : Int) : Approx :=
  if 2 ^ 11 * 2 ^ funBits ≤ scaleFloor m (min e 64 + funBits) then ⟨false, 1, if neg then -2000 else 2000, true⟩
  else
    let v := toFixed neg m e
    let i := v / 2 ^ funBits
    let f := (v % 2 ^ funBits).toNat
    if f = 0 then ⟨false, 1, i, false⟩ else ⟨false, expFixed (f * ln2Fixed / 2 ^ funBits), i - funBits, true⟩

/-- Sum of z^(2j+1) / (2j+1) from a power on, in fixed point. -/
def atanhTerms (fuel k z2 pow : Nat) : Nat :=
  match fuel with
  | 0 => 0
  | fuel + 1 => pow / k + atanhTerms fuel (k + 2) z2 (pow * z2 / 2 ^ funBits)

/-- log2 of a positive value (R327): exact for a power of two. -/
def log2Of (m : Nat) (e : Int) : Approx :=
  let b := m.log2
  let k : Int := e + b
  if m = 2 ^ b then ⟨decide (k < 0), k.natAbs, 0, false⟩
  else
    let z := (m - 2 ^ b) * 2 ^ funBits / (m + 2 ^ b)
    let ln := 2 * atanhTerms 260 1 (z * z / 2 ^ funBits) z
    let v : Int := k * 2 ^ funBits + (ln * 2 ^ funBits / ln2Fixed : Nat)
    ⟨decide (v < 0), v.natAbs, -funBits, true⟩

/-- The alternating series from a term on: the sum of the terms of even and of odd place. -/
def altTerms (fuel k a2 term : Nat) (even : Bool) (pos neg : Nat) : Nat :=
  match fuel with
  | 0 => pos - neg
  | fuel + 1 =>
    altTerms fuel (k + 2) a2 (term * a2 / 2 ^ funBits / (k * (k + 1))) (!even)
      (if even then pos + term else pos) (if even then neg else neg + term)

/-- sin a and cos a in fixed point for 0 <= a < 2. -/
def sinFixed (a : Nat) : Nat := altTerms 120 2 (a * a / 2 ^ funBits) a true 0 0
def cosFixed (a : Nat) : Nat := altTerms 120 1 (a * a / 2 ^ funBits) (2 ^ funBits) true 0 0

/-- sin (pi (q / 2 + f)) for a quarter turn q and a fraction f of a half turn, in fixed point. -/
def turnSin (q f : Nat) : Approx :=
  let neg := decide (2 ≤ q % 4)
  if f = 0 then ⟨neg, q % 2, 0, false⟩
  else
    let a := f * piFixed / 2 ^ funBits
    ⟨neg, if q % 2 = 0 then sinFixed a else cosFixed a, -funBits, true⟩

/-- Quarter turn and fraction of pi |x|. -/
def turnOf (m : Nat) (e : Int) : Nat × Nat :=
  let r := scaleFloor m (min e 2 + funBits) % 2 ^ (funBits + 1)
  (r / 2 ^ (funBits - 1), r % 2 ^ (funBits - 1))

/-- sin (pi x): zero at the integers, +0 for x >= 0 and -0 for x < 0 (R327). -/
def sinOf (neg : Bool) (m : Nat) (e : Int) : Approx :=
  let (q, f) := turnOf m e
  let a := turnSin q f
  if a.m = 0 && !a.sticky then ⟨neg && decide (m ≠ 0), 0, 0, false⟩ else { a with neg := a.neg != neg }

/-- cos (pi x): +0 where x + 0.5 is an integer (R327). -/
def cosOf (m : Nat) (e : Int) : Approx :=
  let (q, f) := turnOf m e
  let a := turnSin (q + 1) f
  if a.m = 0 && !a.sticky then ⟨false, 0, 0, false⟩ else a

/-- tanh |x|, by e^(-2|x|); beyond 128 it lies below 1 by less than any format shows. -/
def tanhOf (neg : Bool) (m : Nat) (e : Int) : Approx :=
  if 128 * 2 ^ funBits ≤ scaleFloor m (min e 64 + funBits) then ⟨neg, 2 ^ 300 - 1, -300, true⟩
  else
    let y := scaleFloor m (e + 1 + funBits)
    let i := y / ln2Fixed
    let u := 2 ^ (2 * funBits) / expFixed (y % ln2Fixed) / 2 ^ i
    ⟨neg, (2 ^ funBits - u) * 2 ^ funBits / (2 ^ funBits + u), -funBits, true⟩

/-- An approximation rounded into a format (R327). -/
def Approx.into (a : Approx) (f : Format) (r : Rounding) : Nat := f.round r a.neg a.m a.e a.sticky

/-- FUN's function of an operand, with the special values of R327. -/
def funOf (op : Nat) (f : Format) (r : Rounding) (x : Num) : Nat :=
  match x with
  | .nan => f.nanCode
  | .inf neg =>
    match op with
    | 0 => f.signed neg 0
    | 1 => if neg then f.nanCode else f.signed false 0
    | 2 => if neg then f.nanCode else f.signed false f.infCode
    | 3 => if neg then f.signed false 0 else f.signed false f.infCode
    | 4 => if neg then f.nanCode else f.signed false f.infCode
    | 5 => f.nanCode
    | 6 => f.nanCode
    | _ => f.ofNum r (.fin neg 1 0)
  | .fin neg m e =>
    if m = 0 then
      match op with
      | 0 => f.signed neg f.infCode
      | 1 => f.signed neg f.infCode
      | 2 => f.signed neg 0
      | 3 => f.ofNum r (.fin false 1 0)
      | 4 => f.signed true f.infCode
      | 5 => f.signed false 0
      | 6 => f.ofNum r (.fin false 1 0)
      | _ => f.signed neg 0
    else
      match op with
      | 0 => (rcpOf neg m e).into f r
      | 1 => if neg then f.nanCode else (rsqOf m e).into f r
      | 2 => if neg then f.nanCode else (sqrtOf m e).into f r
      | 3 => (exp2Of neg m e).into f r
      | 4 => if neg then f.nanCode else (log2Of m e).into f r
      | 5 => (sinOf neg m e).into f r
      | 6 => (cosOf m e).into f r
      | _ => (tanhOf neg m e).into f r

end Sys2Proof.Machine
end

