-- ==== Sys2Proof/Machine/VecOps.lean ====
section
/-!
DEFINITION. What the vector instructions share: elementwise writes (R317, R318), predicate writes (R325), roundings with
the stream's generator (R276), the integer types (R267, R268) and QSTAT (R288).
-/

namespace Sys2Proof.Machine

/-! ### Elements -/

/-- The element count of a width in a register (R317). -/
def elemCount (w : Nat) : Nat := 4096 / w

/-- A register whose element e is f e. -/
def mapElems (w : Nat) (f : Nat → Nat) : VReg := ofElems w ((List.range (elemCount w)).map f)

/-- Lane of an element (R317). -/
def laneOfElem (w e : Nat) : Nat := e / (32 / w)

/-- A lane mask from a predicate on lanes. -/
def maskOf (f : Nat → Bool) : LaneMask :=
  BitVec.ofNat 128 ((List.range 128).foldr (fun l n => natOfBool (f l) + 2 * n) 0)

/-- VD with the elements of the active lanes written, and the instruction completed. -/
def State.writeActive (s : State) (d : VNum) (m : LaneMask) (v : VReg) : State := (s.setLanes d 0 v m).advance

/-- Predicate PD with the lanes of the fragment's mask written (R317, R325, R346). -/
def State.setPredLanes (s : State) (q : BitVec 4) (v : LaneMask) : State :=
  { s with me := s.me.setPred q.toNat ((s.me.pred q.toNat &&& ~~~ s.mask) ||| (v &&& s.mask)) }

/-- The lanes all of whose elements satisfy a condition (R325, R331). -/
def lanesWhere (w : Nat) (f : Nat → Bool) : LaneMask :=
  maskOf fun l => (List.range (32 / w)).all fun k => f (32 / w * l + k)

/-- A compare's effect: the condition in active lanes, 0 in the fragment's other lanes (R325). -/
def State.compareLanes (s : State) (q : BitVec 4) (p : BitVec 4) (w : Nat) (f : Nat → Bool) : State :=
  (s.setPredLanes q (lanesWhere w f &&& s.active p)).advance

/-! ### Rounding -/

/-- The generator steps once per instruction that rounds in stochastic mode (R276). -/
def State.stepGen (s : State) (mode : Nat) : State :=
  if mode = 4 then { s with me := { s.me with srgen := srgenStep s.me.srgen } } else s

/-- The rounding of element number E under a mode; the draw comes from the stepped generator (R276). -/
def State.rounding (s : State) (mode e : Nat) : Rounding :=
  ⟨mode, if mode = 4 then srDraw s.me.srgen e else 0⟩

/-- Element e of a register as an operand of an operation under FTZ (R271). -/
def State.operand (s : State) (f : Format) (v : VReg) (e : Nat) : Num := f.read s.me.ftz (elemOf v f.width e)

/-! ### Integers -/

/-- TY's signedness: codes 0 to 3 are the signed types (R245). -/
def tySigned (t : BitVec 3) : Bool := decide (t.toNat < 4)

/-- A w-bit pattern as an integer. -/
def toInt (w : Nat) (signed : Bool) (x : Nat) : Int :=
  if signed && x.testBit (w - 1) then (x : Int) - 2 ^ w else x

/-- An integer modulo 2^w. -/
def ofInt (w : Nat) (v : Int) : Nat := (v % 2 ^ w).toNat

/-- The bounds of an integer type. -/
def loBound (w : Nat) (signed : Bool) : Int := if signed then -(2 ^ (w - 1)) else 0
def hiBound (w : Nat) (signed : Bool) : Int := if signed then 2 ^ (w - 1) - 1 else 2 ^ w - 1

/-- An integer clamped to a range (R267). -/
def clampInt (lo hi v : Int) : Int := if v < lo then lo else if hi < v then hi else v

/-- Element e of a register as an integer of TY. -/
def intElem (t : BitVec 3) (v : VReg) (e : Nat) : Int :=
  toInt (intWidth t) (tySigned t) (elemOf v (intWidth t) e)

/-- An elementwise integer operation of TY on the active lanes; I4 and UI4 raise ILLEGAL_TYPE (R268, R321). -/
def integerOp (s : State) (d : VNum) (m : LaneMask) (t : BitVec 3) (f : Nat → Int) : Result :=
  if intWidth t = 4 then trapType s
  else .next (s.writeActive d m (mapElems (intWidth t) fun e => ofInt (intWidth t) (f e)))

/-! ### QSTAT (R288) -/

/-- QSTAT after an instruction that saturated n elements, met a NaN, or quantised a block to zero. -/
def Stream.noteQuant (st : Stream) (sat : Nat) (nan uf : Bool) : Stream :=
  let v := satAdd32 (st.qstat.toNat % 2 ^ 32) sat
  let hi := st.qstat.toNat / 2 ^ 32
  { st with qstat := BitVec.ofNat 35 (v + 2 ^ 32 * (hi ||| natOfBool uf ||| 2 * natOfBool nan)) }

end Sys2Proof.Machine
end

