-- ==== Sys2Proof/Machine/VecFloat.lean ====
section
/-!
DEFINITION. Floating-point arithmetic of the vector engine (R323 to R327) on FP32, FP16 and BF16; other codes of TY raise
ILLEGAL_TYPE (R272, R321).
-/

namespace Sys2Proof.Machine

/-- An elementwise operation that rounds (R323): the generator steps in stochastic mode, operands and results are
flushed under FTZ, element e of the active lanes is rounded once with E = e. The function is given the mode and the
element number. -/
def floatOp (s : State) (d : VNum) (p : BitVec 4) (t : BitVec 3) (op : State → Format → Nat → Num) : Result :=
  if 3 ≤ t.toNat then trapType s
  else
    let f := floatFormat t.toNat
    let s := s.stepGen s.me.rmode
    .next (s.writeActive d (s.active p)
      (mapElems f.width fun e => f.result s.me.ftz (s.rounding s.me.rmode e) (op s f e)))

/-- FADD (R323). -/
def execFadd (d a b : VNum) (p : BitVec 4) (t : BitVec 3) (s : State) : Result :=
  floatOp s d p t fun s f e => Num.add s.me.rmode (s.operand f (s.vreg a) e) (s.operand f (s.vreg b) e)

/-- FSUB (R323). -/
def execFsub (d a b : VNum) (p : BitVec 4) (t : BitVec 3) (s : State) : Result :=
  floatOp s d p t fun s f e => Num.add s.me.rmode (s.operand f (s.vreg a) e) (s.operand f (s.vreg b) e).neg

/-- FMUL (R323). -/
def execFmul (d a b : VNum) (p : BitVec 4) (t : BitVec 3) (s : State) : Result :=
  floatOp s d p t fun s f e => Num.mul (s.operand f (s.vreg a) e) (s.operand f (s.vreg b) e)

/-- FFMA (R323): a x b + d with one rounding. -/
def execFfma (d a b : VNum) (p : BitVec 4) (t : BitVec 3) (s : State) : Result :=
  floatOp s d p t fun s f e =>
    Num.add s.me.rmode (Num.mul (s.operand f (s.vreg a) e) (s.operand f (s.vreg b) e)) (s.operand f (s.vreg d) e)

/-- FFMS (R323): d - a x b with one rounding. -/
def execFfms (d a b : VNum) (p : BitVec 4) (t : BitVec 3) (s : State) : Result :=
  floatOp s d p t fun s f e =>
    Num.add s.me.rmode (s.operand f (s.vreg d) e) (Num.mul (s.operand f (s.vreg a) e) (s.operand f (s.vreg b) e)).neg

/-! ### Minimum, maximum, comparison -/

/-- x comes before y, with -0 below +0 (R324). -/
def Format.below (f : Format) (x y : Nat) : Bool :=
  (f.decode x).lt (f.decode y) ||
    ((f.decode x).eq (f.decode y) && x.testBit (f.exp + f.frac) && !y.testBit (f.exp + f.frac))

/-- FMIN's or FMAX's choice of two patterns already flushed (R324): one NaN yields the other operand, two the canonical
NaN. -/
def Format.pick (f : Format) (greater : Bool) (x y : Nat) : Nat :=
  if (f.decode x).isNan then (if (f.decode y).isNan then f.nanCode else y)
  else if (f.decode y).isNan then x
  else if greater then (if f.below x y then y else x)
  else if f.below y x then y else x

/-- FMIN and FMAX (R324): no rounding, and so no step of the generator. -/
def floatPick (s : State) (greater : Bool) (d a b : VNum) (p : BitVec 4) (t : BitVec 3) : Result :=
  if 3 ≤ t.toNat then trapType s
  else
    let f := floatFormat t.toNat
    .next (s.writeActive d (s.active p) (mapElems f.width fun e =>
      f.pick greater (f.flush s.me.ftz (elemOf (s.vreg a) f.width e)) (f.flush s.me.ftz (elemOf (s.vreg b) f.width e))))

/-- FMIN (R324). -/
def execFmin (d a b : VNum) (p : BitVec 4) (t : BitVec 3) (s : State) : Result := floatPick s false d a b p t

/-- FMAX (R324). -/
def execFmax (d a b : VNum) (p : BitVec 4) (t : BitVec 3) (s : State) : Result := floatPick s true d a b p t

/-- The conditions of FCMP: 0 EQ, 1 NE, 2 LT, 3 LE; with a NaN only NE holds (R325). -/
def floatCompare (c : Nat) (x y : Num) : Bool :=
  match c with
  | 0 => x.eq y
  | 1 => !x.eq y
  | 2 => x.lt y
  | _ => x.lt y || x.eq y

/-- FCMP (R325). -/
def execFcmp (c : BitVec 2) (q : BitVec 4) (a b : VNum) (p : BitVec 4) (t : BitVec 3) (s : State) : Result :=
  if 3 ≤ t.toNat then trapType s
  else
    let f := floatFormat t.toNat
    .next (s.compareLanes q p f.width fun e =>
      floatCompare c.toNat (s.operand f (s.vreg a) e) (s.operand f (s.vreg b) e))

/-! ### Sign and functions -/

/-- FSGN on the patterns of elements (R326): no canonical NaN, no flush. -/
def signOp (s : State) (d : VNum) (x : BitVec 3) (t : BitVec 3) (f : Nat → Nat → Nat) : Result :=
  if 3 ≤ t.toNat then trapType s
  else
    let w := (floatFormat t.toNat).width
    .next (s.writeActive d (s.active (x.zeroExtend 4)) (mapElems w (f w)))

/-- FSGN.CPY (R326). -/
def execFsgnCpy (d a b : VNum) (x : BitVec 3) (t : BitVec 3) (s : State) : Result :=
  signOp s d x t fun w e =>
    elemOf (s.vreg a) w e % 2 ^ (w - 1) + elemOf (s.vreg b) w e / 2 ^ (w - 1) * 2 ^ (w - 1)

/-- FSGN.XOR (R326). -/
def execFsgnXor (d a b : VNum) (x : BitVec 3) (t : BitVec 3) (s : State) : Result :=
  signOp s d x t fun w e =>
    Nat.xor (elemOf (s.vreg a) w e) (elemOf (s.vreg b) w e / 2 ^ (w - 1) * 2 ^ (w - 1))

/-- FUN (R327); OP 8 to 63 are reserved. -/
def execFunSpecial (d a : VNum) (o : BitVec 6) (p : BitVec 4) (t : BitVec 3) (s : State) : Result :=
  if 8 ≤ o.toNat then trapIllegal s
  else if 3 ≤ t.toNat then trapType s
  else
    let f := floatFormat t.toNat
    let s := s.stepGen s.me.rmode
    .next (s.writeActive d (s.active p) (mapElems f.width fun e =>
      f.flush s.me.ftz (funOf o.toNat f (s.rounding s.me.rmode e) (s.operand f (s.vreg a) e))))

end Sys2Proof.Machine
end

