-- ==== Sys2Proof/Machine/VecInt.lean ====
section
/-!
DEFINITION. Integer arithmetic, logic and shifts of the vector engine (R328 to R334).
-/

namespace Sys2Proof.Machine

/-- IADD (R328). -/
def execIadd (d a b : VNum) (p : BitVec 4) (t : BitVec 3) (s : State) : Result :=
  integerOp s d (s.active p) t fun e => intElem t (s.vreg a) e + intElem t (s.vreg b) e

/-- ISUB (R328). -/
def execIsub (d a b : VNum) (p : BitVec 4) (t : BitVec 3) (s : State) : Result :=
  integerOp s d (s.active p) t fun e => intElem t (s.vreg a) e - intElem t (s.vreg b) e

/-- IMUL (R328). -/
def execImul (d a b : VNum) (p : BitVec 4) (t : BitVec 3) (s : State) : Result :=
  integerOp s d (s.active p) t fun e => intElem t (s.vreg a) e * intElem t (s.vreg b) e

/-- IMAD (R328). -/
def execImad (d a b : VNum) (p : BitVec 4) (t : BitVec 3) (s : State) : Result :=
  integerOp s d (s.active p) t fun e =>
    intElem t (s.vreg a) e * intElem t (s.vreg b) e + intElem t (s.vreg d) e

/-! ### IMADW (R329) -/

/-- The sum in register VD + j of lane l: source element r l + j multiplied and added, modulo 2^32. -/
def wideSum (s : State) (d a b : VNum) (t : BitVec 3) (r j l : Nat) : Nat :=
  ofInt 32 (intElem t (s.vreg a) (r * l + j) * intElem t (s.vreg b) (r * l + j) + elemOf (s.vregAt d j) 32 l)

/-- The 64-bit sum of lane l for 32-bit sources. -/
def wideSum64 (s : State) (d a b : VNum) (t : BitVec 3) (l : Nat) : Nat :=
  ofInt 64 (intElem t (s.vreg a) l * intElem t (s.vreg b) l +
    (elemOf (s.vregAt d 0) 32 l + 2 ^ 32 * elemOf (s.vregAt d 1) 32 l : Nat))

/-- Registers VD to VD + n - 1 with the active lanes written, from values computed before any of them. -/
def State.writeGroup (s : State) (d : VNum) (m : LaneMask) (vs : List VReg) : State :=
  vs.zipIdx.foldl (fun s v => s.setLanes d v.2 v.1 m) s

/-- IMADW (R329). -/
def execImadw (d a b : VNum) (p : BitVec 4) (t : BitVec 3) (s : State) : Result :=
  let w := intWidth t
  if w = 4 then trapType s
  else
    let vs := if w = 32 then
        [mapElems 32 fun l => wideSum64 s d a b t l % 2 ^ 32, mapElems 32 fun l => wideSum64 s d a b t l / 2 ^ 32]
      else (List.range (32 / w)).map fun j => mapElems 32 (wideSum s d a b t (32 / w) j)
    .next (s.writeGroup d (s.active p) vs).advance

/-! ### Saturating sums, minimum, maximum, compare -/

/-- A value clamped to TY's bounds. -/
def saturate (t : BitVec 3) (v : Int) : Int :=
  clampInt (loBound (intWidth t) (tySigned t)) (hiBound (intWidth t) (tySigned t)) v

/-- IADDS (R330). -/
def execIadds (d a b : VNum) (x : BitVec 3) (t : BitVec 3) (s : State) : Result :=
  integerOp s d (s.active (x.zeroExtend 4)) t fun e => saturate t (intElem t (s.vreg a) e + intElem t (s.vreg b) e)

/-- ISUBS (R330). -/
def execIsubs (d a b : VNum) (x : BitVec 3) (t : BitVec 3) (s : State) : Result :=
  integerOp s d (s.active (x.zeroExtend 4)) t fun e => saturate t (intElem t (s.vreg a) e - intElem t (s.vreg b) e)

/-- IMIN (R330). -/
def execImin (d a b : VNum) (x : BitVec 3) (t : BitVec 3) (s : State) : Result :=
  integerOp s d (s.active (x.zeroExtend 4)) t fun e => min (intElem t (s.vreg a) e) (intElem t (s.vreg b) e)

/-- IMAX (R330). -/
def execImax (d a b : VNum) (x : BitVec 3) (t : BitVec 3) (s : State) : Result :=
  integerOp s d (s.active (x.zeroExtend 4)) t fun e => max (intElem t (s.vreg a) e) (intElem t (s.vreg b) e)

/-- ICMP (R331). -/
def execIcmp (c : BitVec 2) (q : BitVec 4) (a b : VNum) (p : BitVec 4) (t : BitVec 3) (s : State) : Result :=
  if intWidth t = 4 then trapType s
  else .next (s.compareLanes q p (intWidth t) fun e =>
    intCompare c.toNat (intElem t (s.vreg a) e) (intElem t (s.vreg b) e))

/-! ### Logic, shifts, single operands -/

/-- LOGIC's operation on whole registers, bit by bit (R332); the codes 6 and 7 are reserved. -/
def logicOf (o : Nat) (a b : VReg) : Option VReg :=
  match o with
  | 0 => some (a &&& b)
  | 1 => some (a ||| b)
  | 2 => some (a ^^^ b)
  | 3 => some (a &&& ~~~b)
  | 4 => some (a ||| ~~~b)
  | 5 => some (~~~(a ^^^ b))
  | _ => none

/-- LOGIC (R332). -/
def execLogic (d a b : VNum) (p : BitVec 4) (o : BitVec 3) (s : State) : Result :=
  match logicOf o.toNat (s.vreg a) (s.vreg b) with
  | some v => .next (s.writeActive d (s.active p) v)
  | none => trapIllegal s

/-- SHIFT (R333): by vb[e] mod w; a right shift is arithmetic for signed TY. -/
def execShift (d a b : VNum) (x : BitVec 3) (f : BitVec 1) (t : BitVec 3) (s : State) : Result :=
  integerOp s d (s.active (x.zeroExtend 4)) t fun e =>
    let n := elemOf (s.vreg b) (intWidth t) e % intWidth t
    if f = 0#1 then intElem t (s.vreg a) e * 2 ^ n else intElem t (s.vreg a) e / 2 ^ n

/-- IABS (R334). -/
def execIabs (d a : VNum) (p : BitVec 4) (t : BitVec 3) (s : State) : Result :=
  integerOp s d (s.active p) t fun e => ((intElem t (s.vreg a) e).natAbs : Int)

/-- POPC (R334). -/
def execPopcV (d a : VNum) (p : BitVec 4) (t : BitVec 3) (s : State) : Result :=
  integerOp s d (s.active p) t fun e => (onesIn (intWidth t) (elemOf (s.vreg a) (intWidth t) e) : Int)

/-- CLZ (R334). -/
def execClzV (d a : VNum) (p : BitVec 4) (t : BitVec 3) (s : State) : Result :=
  integerOp s d (s.active p) t fun e => (leadingZeros (intWidth t) (elemOf (s.vreg a) (intWidth t) e) : Int)

end Sys2Proof.Machine
end

