-- ==== Sys2Proof/Machine/Convert.lean ====
section
/-!
DEFINITION. Conversions (R277, R335) and block formats: quantising (R286 to R288, R338), decoding (R278, R279, R339) and
rescaling (R285, R340).
-/

namespace Sys2Proof.Machine

/-! ### CVT -/

/-- Bits of an element that hold a floating-point pattern; FP6 ignores the upper two of its position (R273). -/
def Format.readBits (f : Format) (x : Nat) : Nat := x % 2 ^ f.width

/-- Lower formats without NaN, whose NaN results set QSTAT.NAN (R277, R288). -/
def losesNan (t : Nat) : Bool := decide (t = 3) || decide (5 ≤ t)

/-- One element converted (R277): the result, and whether QSTAT.NAN is set. -/
def convertElem (sf : BitVec 1) (sty : BitVec 3) (df : BitVec 1) (dty : BitVec 3) (r : Rounding) (x : Nat) :
    Nat × Bool :=
  if sf = 0#1 then
    let v := (floatFormat sty.toNat).decode ((floatFormat sty.toNat).readBits x)
    if df = 0#1 then ((floatFormat dty.toNat).ofNum r v, v.isNan && losesNan dty.toNat)
    else
      let w := intWidth dty
      (ofInt w (v.toIntSat r (loBound w (tySigned dty)) (hiBound w (tySigned dty))), v.isNan)
  else
    let v := toInt (intWidth sty) (tySigned sty) x
    if df = 0#1 then ((floatFormat dty.toNat).ofNum r (numOfInt false v 0), false)
    else (ofInt (intWidth dty) v, false)

/-- RM 7 selects the stream's mode (R274). -/
def State.modeOf (s : State) (r : BitVec 3) : Nat := if r = 7#3 then s.me.rmode else r.toNat

/-- Source element number e of a CVT that does not narrow, or destination element number e of one that narrows (R335):
the element read. -/
def cvtSource (s : State) (a : VNum) (ws wd e : Nat) : Nat :=
  if ws ≤ wd then elemOf (s.vreg a) ws e else elemOf (s.vregAt a (e % (ws / wd))) ws (e / (ws / wd))

/-- CVT (R335). -/
def execCvt (d a : VNum) (sf : BitVec 1) (sty : BitVec 3) (df : BitVec 1) (rm : BitVec 3) (dty : BitVec 3) (s : State) :
    Result :=
  if rm = 5#3 || rm = 6#3 then trapIllegal s
  else
    let ws := cvtWidth sf sty
    let wd := cvtWidth df dty
    let mode := s.modeOf rm
    let s := if sf = 1#1 && df = 1#1 then s else s.stepGen mode
    let conv (e : Nat) := convertElem sf sty df dty (s.rounding mode e) (cvtSource s a ws wd e)
    let narrow := min ws wd
    let r := max ws wd / narrow
    let vs := if ws ≤ wd then (List.range r).map fun j => mapElems wd fun i => (conv (r * i + j)).1
      else [mapElems wd fun e => (conv e).1]
    let nan := (List.range (elemCount narrow)).any fun e => s.mask.getLsbD (laneOfElem narrow e) && (conv e).2
    let s := s.writeGroup d s.mask vs
    .next ({ s with me := s.me.noteQuant 0 nan false }.advance)

/-! ### Block formats (R278, R279, R337) -/

/-- The block formats of R337's table. -/
inductive BlockFormat where
  | mxInt
  | mxFloat (f : Format)
  | aq (bits : Nat) (escape : Bool)
  deriving DecidableEq, Repr

/-- The format that Q[0] and TY name. -/
def blockFormat (aq : Bool) (t : BitVec 3) : Option BlockFormat :=
  if aq then
    match t.toNat with
    | 0 => some (.aq 8 false)
    | 1 => some (.aq 6 false)
    | 2 => some (.aq 4 false)
    | 3 => some (.aq 4 true)
    | _ => none
  else
    match t.toNat with
    | 0 => some .mxInt
    | 1 => none
    | 2 => none
    | n => some (.mxFloat (floatFormat n))

/-- Bits of an element position of a format (R337). -/
def BlockFormat.position (b : BlockFormat) : Nat :=
  match b with
  | .mxInt => 8
  | .mxFloat f => if f.width = 4 then 4 else 8
  | .aq n _ => if n = 4 then 4 else 8

/-- Zero point of a block record (R279). -/
def recordZ (rc : Nat) : Int := toInt 8 true (natBits rc 15 8)

/-- Scale byte of a block record (R278, R279). -/
def recordS (x : Nat) : Nat := x % 256

/-- Side-list index of a block record (R279). -/
def recordSide (rc : Nat) : Nat := natBits rc 31 16

/-- The codes that quantising may write (R286). -/
def BlockFormat.range (b : BlockFormat) : Int × Int :=
  match b with
  | .mxInt => (-127, 127)
  | .mxFloat _ => (0, 0)
  | .aq n esc => (if esc then -7 else -(2 ^ (n - 1)), 2 ^ (n - 1) - 1)

/-! ### QNT (R286, R287) -/

/-- A quantised element: its code, whether it was limited, and whether it counts as not zero (R286). -/
structure Quantised where
  code    : Nat
  limited : Bool
  nonzero : Bool
  deriving DecidableEq, Repr

/-- An integer code clamped into the format's range; the code Z (or 0) counts as zero. -/
def quantInt (b : BlockFormat) (bits : Nat) (z v : Int) : Quantised :=
  let c := clampInt b.range.1 b.range.2 v
  ⟨ofInt bits c, decide (c ≠ v), decide (c ≠ z)⟩

/-- A value scaled and rounded to an integer, an infinity lying beyond every range. -/
def Num.scaledInt (x : Num) (r : Rounding) (k : Int) : Int :=
  (x.scale k).toIntSat r (-(2 ^ 600)) (2 ^ 600)

/-- An element of an MX floating-point block (R286): limited where its rounded magnitude lies beyond the largest finite
one. -/
def quantFloat (f : Format) (r : Rounding) (x : Num) : Quantised :=
  match x with
  | .nan => ⟨0, false, false⟩
  | .inf neg => ⟨f.signed neg f.maxFinite, true, true⟩
  | .fin neg m e =>
    if m = 0 then ⟨f.signed neg 0, false, false⟩
    else
      let c := f.magnitude r neg m e false
      let exceeds := decide (f.maxFinite < c)
      ⟨f.signed neg (min c f.maxFinite), exceeds, decide (c ≠ 0)⟩

/-- One element quantised with a block's record (R286). -/
def quantElem (b : BlockFormat) (rc : Nat) (r : Rounding) (x : Num) : Quantised :=
  let k : Int := 127 - recordS rc
  let none' := decide (recordS rc = 255) || x.isNan
  match b with
  | .mxFloat f => if none' then ⟨0, false, false⟩ else quantFloat f r (x.scale k)
  | .mxInt => if none' then ⟨0, false, false⟩ else quantInt b 8 0 (x.scaledInt r (k + 6))
  | .aq n _ =>
    let z := recordZ rc
    if none' then ⟨ofInt n (clampInt b.range.1 b.range.2 z), false, false⟩
    else quantInt b n z (x.scaledInt r k + z)

/-- The larger of two magnitudes. -/
def maxMagnitude (x y : Num) : Num :=
  match x, y with
  | .nan, _ => .nan
  | _, .nan => .nan
  | x, y => if x.lt y then y else x

/-- A value without its sign. -/
def Num.abs (x : Num) : Num :=
  match x with
  | .nan => .nan
  | .inf _ => .inf false
  | .fin _ m e => .fin false m e

/-- Absolute maximum of a block's inputs (R287). -/
def blockMax (xs : List Num) : Nat :=
  fp32.ofNum nearestEven (xs.foldl (fun m x => maxMagnitude m x.abs) (.fin false 0 0))

/-- What a block gave: its codes and R286's flags. -/
structure QuantBlock where
  items : List Quantised
  max   : Nat
  nan   : Bool
  uf    : Bool

/-- Block b of a QNT (R286, R287). -/
def quantBlock (s : State) (f : Format) (bf : BlockFormat) (a b : VNum) (mode n : Nat) : QuantBlock :=
  let rc := elemOf (s.vreg b) 32 n
  let xs := (List.range 32).map fun i => f.decode (elemOf (s.vreg a) f.width (32 * n + i))
  let items := xs.zipIdx.map fun x => quantElem bf rc (s.rounding mode (32 * n + x.2)) x.1
  let given := xs.any fun x => !x.isNan && !x.isZero
  ⟨items, blockMax xs, decide (recordS rc = 255) || xs.any Num.isNan,
    decide (recordS rc ≠ 255) && given && items.all fun q => !q.nonzero⟩

/-- VD of a QNT (R338): codes from lane 0, zero to lane 119, block maxima from lane 120. -/
def quantRegister (w : Nat) (blocks : List QuantBlock) : VReg :=
  let codes := ofElems w (blocks.flatMap fun b => b.items.map fun q => q.code)
  codes ||| (ofElems 32 (blocks.map fun b => b.max) <<< (32 * 120))

/-- QNT (R338): the block maxima are written whatever the scale; QUANT_RANGE follows when QSTAT.TRAP is set and the
instruction saturated an element or quantised a block to zero (R288). -/
def execQnt (d a b : VNum) (q : BitVec 4) (t : BitVec 3) (s : State) : Result :=
  match blockFormat (q.getLsbD 0) t with
  | none => trapIllegal s
  | some bf =>
    if q.getLsbD 1 || q.extractLsb' 2 2 = 3#2 || !s.me.whole then trapIllegal s
    else
      let f := floatFormat (q.extractLsb' 2 2).toNat
      let mode := s.me.rmode
      let s := s.stepGen mode
      let blocks := (List.range (elemCount f.width / 32)).map (quantBlock s f bf a b mode)
      let sat := blocks.foldl (fun (n : Nat) k => n + (k.items.filter fun i => i.limited).length) 0
      let uf := blocks.any fun k => k.uf
      let s := s.setV d (quantRegister bf.position blocks)
      let s := { s with me := s.me.noteQuant sat (blocks.any fun k => k.nan) uf }
      if s.me.qstat.getLsbD 34 && (decide (sat ≠ 0) || uf) then trap s { cause := causeQuantRange }
      else .next s.advance

/-! ### DQN (R339) -/

/-- The value of a code with its block's record (R278, R279). -/
def blockValue (bf : BlockFormat) (rc q : Nat) : Num :=
  let k : Int := (recordS rc : Int) - 127
  if recordS rc = 255 then .nan
  else
    match bf with
    | .mxFloat f => (f.decode (f.readBits q)).scale k
    | .mxInt => numOfInt false (toInt 8 true q) (k - 6)
    | .aq n _ => numOfInt false (toInt n true (q % 2 ^ n) - recordZ rc) k

/-- A code that is AQ4X's escape (R279). -/
def isEscape (bf : BlockFormat) (q : Nat) : Bool :=
  match bf with
  | .aq _ true => q % 16 == 8
  | _ => false

/-- Lane l of a DQN (R339). -/
def dequantLane (s : State) (bf : BlockFormat) (a b : VNum) (h l : Nat) : Nat :=
  let e := 128 * h + l
  let rc := elemOf (s.vreg b) 32 (e / 32)
  let code (i : Nat) := elemOf (s.vreg a) bf.position i
  if isEscape bf (code e) && decide (recordS rc ≠ 255) then
    let k := ((List.range (e % 32)).filter fun i => isEscape bf (code (e / 32 * 32 + i))).length
    elemOf (s.vregAt b 1) 32 ((recordSide rc + k) % 128)
  else fp32.ofNum (s.rounding s.me.rmode l) (blockValue bf rc (code e))

/-- DQN (R339). -/
def execDqn (d a b : VNum) (q : BitVec 4) (t : BitVec 3) (s : State) : Result :=
  match blockFormat (q.getLsbD 0) t with
  | none => trapIllegal s
  | some bf =>
    if bf.position = 8 && decide (4 ≤ q.toNat / 2) then trapIllegal s
    else
      let s := s.stepGen s.me.rmode
      .next (s.writeActive d s.mask (mapElems 32 (dequantLane s bf a b (q.toNat / 2))))

/-! ### REQ (R285, R340) -/

/-- R285's t + zp for an accumulator. -/
def rescale (acc mult : Int) (sh : Nat) (zp : Int) : Int :=
  (acc * mult + (if 0 < sh then 2 ^ (sh - 1) else 0)) / 2 ^ sh + zp

/-- Lane l of a REQ before it is clamped. -/
def rescaledLane (s : State) (a b : VNum) (wide : Bool) (l : Nat) : Int :=
  let lo := elemOf (s.vreg a) 32 l
  let acc := if wide then toInt 64 true (lo + 2 ^ 32 * elemOf (s.vregAt a 1) 32 l) else toInt 32 true lo
  let p := elemOf (s.vregAt b 1) 32 l
  rescale acc (toInt 32 true (elemOf (s.vreg b) 32 l)) (p % 64) (toInt 16 true (p / 2 ^ 16))

/-- REQ (R340): out lies in lane l, sign-extended for signed TY; each saturation is counted. -/
def execReq (d a b : VNum) (q : BitVec 4) (t : BitVec 3) (s : State) : Result :=
  if q.extractLsb' 1 3 ≠ 0#3 then trapIllegal s
  else
    let v := rescaledLane s a b (q.getLsbD 0)
    let sat := ((lanesOf s.mask).filter fun l => decide (saturate t (v l) ≠ v l)).length
    let s := s.setLanes d 0 (mapElems 32 fun l => ofInt 32 (saturate t (v l))) s.mask
    .next ({ s with me := s.me.noteQuant sat false false }.advance)

end Sys2Proof.Machine
end

