-- ==== Sys2Proof/Machine/Reach.lean ====
section
/-!
DEFINITION. Reads and writes that the part makes itself through translation: of tables, records and images (R126, R153,
R170, R266, R313), of copies, matrix operands and units of the guide half (R233). They follow R35 and are performed at
the point that R215 gives.
-/

namespace Sys2Proof.Machine

/-- Who reaches memory: a core at a scope, through its TLBs and caches; or a unit of a die. -/
inductive Agent where
  | core (n scope : Nat)
  | unit (die : Nat)
  deriving DecidableEq, Repr

/-- In whose name: partition, context and privilege; a management core's addresses are physical (log entry 13). For which
stream and which operation of it: twice a fragment's identity for an instruction of it, an odd number for an operation of
an engine or a unit. -/
structure Via where
  agent : Agent
  part  : Nat
  ctx   : Nat
  user  : Bool
  phys  : Bool
  strm  : StreamId
  op    : Nat
  deriving DecidableEq, Repr

/-- How such an access ends; `held` where the host, a walk or another module must answer first. A fault's space is as its record
codes it (R213). -/
inductive Reach (α : Type) where
  | ok (v : α)
  | fault (cause : Nat) (addr : Word) (space : Nat)
  | migrating (page : PageRef)
  | held (pa : Nat)

/-- The number of an instruction of the current fragment. -/
def State.fragOp (s : State) : Nat := 2 * s.me.frag.id

/-- The issuing stream itself, at a scope. -/
def State.viaMe (s : State) (scope : Nat) : Via :=
  ⟨.core s.core scope, s.part, s.myJob.ctx.toNat, s.priv == 0, s.isMgmt, s.me.id, s.fragOp⟩

/-- A job, by an engine of its core, at a scope, for an operation of a stream of it. -/
def Job.via (j : Job) (scope strm op : Nat) : Via :=
  ⟨.core (j.core.getD 0) scope, j.id.part, j.ctx.toNat, !j.sup, false, ⟨.job j.id, strm⟩, op⟩

/-- The die whose walker pool serves an agent. -/
def Agent.die (a : Agent) : Nat :=
  match a with
  | .core c _ => coreDie c
  | .unit die => die

/-- Die and stop from which an agent's requests leave, and its port there: of a unit of a guide die the binning unit's, of any other
the management complex's. -/
def Agent.stop (a : Agent) : (Nat × Nat) × Nat :=
  match a with
  | .core c _ => (coreStop c, corePort c)
  | .unit die => (if 4 ≤ die && die < 6 then binningStop die else hostStop, 16)

/-- Translation in someone's name. -/
def translatePlain (s : State) (v : Via) (va : Word) (n : Nat) (k : AccessKind) : Xlat × State :=
  if v.phys then (translateMgmt va, s)
  else
    match v.agent with
    | .core c _ => translateCtx s c v.part v.ctx v.user va n k
    | .unit die => translateCtx s (unitWho die) v.part v.ctx v.user va n k

/-- Translation in someone's name; an operation of an engine or a unit parks on a page with MIG = 1 in the pool of its die and
stays there until a TLBI releases it (R43). -/
def translateVia (s : State) (v : Via) (va : Word) (n : Nat) (k : AccessKind) : Xlat × State :=
  match s.mm.pageWaits.find? fun w => w.strm == v.strm && w.op == v.op with
  | some w => (.migrating w.page, s)
  | none =>
    match translatePlain s v va n k with
    | (.migrating page, s) =>
      if v.op % 2 = 0 then (.migrating page, s)
      else
        (.migrating page,
          { s with mm := { s.mm with pageWaits := s.mm.pageWaits ++ [⟨v.strm, v.op, v.part, v.ctx, v.agent.die, page⟩] } })
    | r => r

/-- n bytes that the manual leaves open: free values. -/
def State.freeBytes (s : State) (n : Nat) : List Byte × State :=
  ((List.range n).map fun k => BitVec.ofNat 8 (Config.freeBits (s.draw + k)), { s with draw := s.draw + n })

/-- Group tag and SLACK of a request made in someone's name (R70, R83, R207): 0 for a unit. -/
def Via.groupTag (v : Via) (s : State) : Nat :=
  match v.agent with
  | .core c _ => s.tagOf c v.strm
  | .unit _ => 0

def Via.slack (v : Via) (s : State) : Nat :=
  match v.agent with
  | .core c _ => if v.op % 2 = 0 then s.slack else s.engineSlack c
  | .unit _ => 0

/-! ### Other modules (R33, R93, R237) -/

/-- A read or write of another module: asked once, and awaited; a failure is the operation's own (R212). -/
def State.askRemote (s : State) (v : Via) (va : Word) (x : Place) (n : Nat) (write : Bool) (m : Nat → FabricMessage) :
    Reach (List Byte) × State :=
  let mine (a : Asked) : Bool :=
    a.strm == v.strm && a.op == v.op && a.write == write && a.modl == x.mod_ && a.pa == x.pa && a.n == n
  let dropped : State := s.modNet fun n => { n with asked := n.asked.filter fun a => !mine a }
  match s.net.asked.find? mine with
  | some a =>
    match a.answer with
    | none => (.held x.pa, s)
    | some (0, bs) => (.ok ((bs.drop (x.pa % 32)).take n), s)
    | some (2, _) => (.fault causeDataLost va 0, dropped)
    | some _ => (.fault causePermission va 0, dropped)
  | none =>
    let t : Txn := ⟨s.ticket, v.strm, 0, 0#128, 0#64, va, .asked, none, none, none⟩
    let a : Asked := ⟨v.strm, v.op, write, x.mod_, x.pa, n, t.id, none⟩
    let s := s.nextTicket.modNet fun n => { n with txns := n.txns ++ [t], asked := n.asked ++ [a] }
    (.held x.pa, sendMessage s v.agent.stop.1 v.agent.stop.2 (v.slack s) [v.strm] 0 (m (fabricTag t.id)))

/-- An operation has gone on: what it has asked is no longer kept. -/
def State.answered (s : State) (id : StreamId) (op : Nat) : State :=
  s.modNet fun n => { n with asked := n.asked.filter fun a => !(a.strm == id && a.op == op) }

/-- The packet of an access made in someone's name (R81). -/
def Via.parcel (v : Via) (s : State) (cls pa len sect : Nat) : State :=
  s.parcel ⟨cls, pa, len, v.slack s, v.groupTag s, sect, v.agent.stop.1, sliceStop pa, v.agent.stop.2, [v.strm]⟩

/-- A read within one line. -/
def readPiece (s : State) (v : Via) (va : Word) (n : Nat) : Reach (List Byte) × State :=
  match translateVia s v va n .read with
  | (.fault c, s) => (.fault c va 0, s)
  | (.migrating page, s) => (.migrating page, s)
  | (.walking, s) => (.held 0, s)
  | (.ok x, s) =>
    if x.isReg then (.fault causePermission va 0, s)
    else if v.op % 2 = 0 && s.locBusy v.strm x.loc then (.held x.loc, s)
    else
      let cached := match v.agent with
        | .core c scope => decide (x.apt = 0) && allCached s c scope x.pa n
        | .unit _ => false
      if decide (x.apt ≤ 1) && s.readHeld x.pa && !cached then 
        (.held x.pa, s.askLine x.pa (v.groupTag s) (sectorsOf x.pa n) false)
      else if decide (x.apt ≤ 1) && !cached && s.poisonedAt x.pa n then (.fault causeDataLost va 0, s)
      else if x.apt = 4 then s.askRemote v va x n false fun tag => readMessage s x n tag
      else
        let sect := sectorsOf x.pa n
        let s := if decide (x.apt ≤ 1) && !cached then v.parcel (s.readLine (v.groupTag s) sect sect x.pa) 0 x.pa 0 sect else s
        match v.agent with
        | .core c scope =>
          if x.apt = 0 || x.apt = 2 then
            let r := loadBytes s c scope x.loc n
            (.ok r.1, r.2)
          else (.ok (uncachedBytes s c x.loc (pointRead s x.loc n)), s)
        | .unit _ => (.ok (pointRead s x.loc n), s)

/-- A read of a range, line by line in ascending order. -/
def readRange (fuel : Nat) (s : State) (v : Via) (va : Word) (n : Nat) : Reach (List Byte) × State :=
  match fuel with
  | 0 => (.ok [], s)
  | fuel + 1 =>
    if n = 0 then (.ok [], s)
    else
      let k := min n (128 - va.toNat % 128)
      match readPiece s v va k with
      | (.ok bs, s) =>
        match readRange fuel s v (va + BitVec.ofNat 64 k) (n - k) with
        | (.ok rest, s) => (.ok (bs ++ rest), s)
        | r => r
      | r => r

/-- A read of n bytes in someone's name. -/
def readVia (s : State) (v : Via) (va : Word) (n : Nat) : Reach (List Byte) × State :=
  readRange (n / 128 + 2) s v va n

/-- Bytes of a line written by an engine at a scope: they are performed at that scope's point (R215, R233), as one write
(R66). -/
def engineBytes (s : State) (core : Nat) (id : StreamId) (scope loc slack : Nat) (cmp : Bool) (bs : List Byte) : State :=
  let ws : List WcByte := bs.zipIdx.map fun b => ⟨core, id, loc + b.2, b.1, scope, 0, cmp, slack⟩
  let t := ws.foldl drainByte s
  writeParcels (t.countLost (t.storesLost ws)) ws

/-- A write to a checked place of this module, within one line. -/
def writePlace (s : State) (v : Via) (x : Place) (bs : List Byte) : State :=
  match v.agent with
  | .core c scope =>
    if x.apt = 0 || x.apt = 2 then engineBytes s c v.strm scope x.loc (v.slack s) x.cmp bs
    else farWrite (if v.op % 2 = 0 then s.supersede x.loc bs.length else s)
  | .unit _ => farWrite s
where
  farWrite (s : State) : State :=
    let halves := (x.pa + bs.length - 1) / 64 - x.pa / 64 + 1
    let s := if x.apt ≤ 1 then v.parcel s 2 x.pa halves (sectorsOf x.pa bs.length) else s
    pointWrite (s.noteCmp x.loc x.cmp) x.loc bs

/-- A write within one line. -/
def writePiece (s : State) (v : Via) (va : Word) (bs : List Byte) : Reach Unit × State :=
  match translateVia s v va bs.length .write with
  | (.fault c, s) => (.fault c va 0, s)
  | (.migrating page, s) => (.migrating page, s)
  | (.walking, s) => (.held 0, s)
  | (.ok x, s) =>
    if x.isReg then (.fault causePermission va 0, s)
    else if decide (x.apt ≤ 1) && s.hostHolds x.pa then (.held x.pa, s.backInvalidate x.pa)
    else if x.apt = 4 then
      match s.askRemote v va x bs.length true fun tag => writeMessage s x bs tag with
      | (.ok _, s) => (.ok (), s)
      | (.fault c a x, s) => (.fault c a x, s)
      | (.migrating page, s) => (.migrating page, s)
      | (.held a, s) => (.held a, s)
    else (.ok (), writePlace s v x bs)

/-- A write of a range, line by line in ascending order. -/
def writeRange (fuel : Nat) (s : State) (v : Via) (va : Word) (bs : List Byte) : Reach Unit × State :=
  match fuel with
  | 0 => (.ok (), s)
  | fuel + 1 =>
    if bs.isEmpty then (.ok (), s)
    else
      let k := min bs.length (128 - va.toNat % 128)
      match writePiece s v va (bs.take k) with
      | (.ok _, s) => writeRange fuel s v (va + BitVec.ofNat 64 k) (bs.drop k)
      | r => r

/-- A write in someone's name. -/
def writeVia (s : State) (v : Via) (va : Word) (bs : List Byte) : Reach Unit × State :=
  writeRange (bs.length / 128 + 2) s v va bs

/-- An instruction goes on with what it read, or what a unit of its core read for it; a fault on the read is precise at it
(R211, R212, R313, R374), and its record names the unit. -/
def withReadBy (unit : Option Nat) (s : State) (scope : Nat) (va : Word) (n : Nat) (k : State → List Byte → Result) :
    Result :=
  if s.mustWait ((List.range (n / 128 + 1)).map fun i => (i, va + BitVec.ofNat 64 (128 * i))) then .next s.stall
  else
    match readVia s (s.viaMe scope) va n with
    | (.ok bs, s) => k s bs
    | (.fault c a _, s) => trap s { accessFault ⟨.global, .read, n, 1, false⟩ c a with engine := unit }
    | (.migrating page, s) => .next (s.waitPage page)
    | (.held _, s) => .next s.stall

def withRead (s : State) (scope : Nat) (va : Word) (n : Nat) (k : State → List Byte → Result) : Result :=
  withReadBy none s scope va n k

end Sys2Proof.Machine
end

