-- ==== Sys2Proof/Machine/Governor.lean ====
section
/-!
DEFINITION. The frame governor (R188 to R191) and the GOVQ forms (R420).
-/

namespace Sys2Proof.Machine

/-- A governor with no frame, as after reset. -/
def Governor.idle : Governor :=
  { opened := false, owner := none, deadline := 0#64, tail := 0#32, est := 0#32, nsteps := 0, minEff := 0, ranks := [],
    cur := 0, nb := 0, dropped := [], ran := [], answers := [], mark := 0#64, marks := 0, stepTime := 0#32 }

/-- The governor of a partition. -/
def State.governor (s : State) (part : Nat) : Governor := tableGet s.sch.govs part Governor.idle

def State.setGovernor (s : State) (part : Nat) (g : Governor) : State :=
  { s with sch := { s.sch with govs := tableSet s.sch.govs part g Governor.idle } }

/-! ### Frame records -/

/-- A number at an offset of a record. -/
def recNat (bs : List Byte) (off n : Nat) : Nat := leNat ((bs.drop off).take n)

/-- A range of a record is zero. -/
def recZero (bs : List Byte) (off n : Nat) : Bool := recNat bs off n == 0

/-- The record keeps R188's table. -/
def frameOk (bs : List Byte) : Bool :=
  let steps := recNat bs 0x10 1
  let least := recNat bs 0x11 1
  decide (1 ≤ steps) && decide (steps ≤ 16) && decide (1 ≤ least) && decide (least ≤ steps) && recZero bs 0x12 14 &&
    recZero bs 0x30 16

/-- FLOOR (R188): 0 acts as 1. -/
def State.govFloor (s : State) (part : Nat) : Nat := max 1 (s.field (govReg part 0x000) 11 8)

/-- A frame opened from a record (R188): the mark of the last frame stays readable. -/
def openFrame (s : State) (part : Nat) (owner : Option Nat) (bs : List Byte) : State :=
  let steps := recNat bs 0x10 1
  s.setGovernor part
    { Governor.idle with
      opened := true, owner := owner, deadline := BitVec.ofNat 64 (recNat bs 0 8),
      tail := BitVec.ofNat 32 (recNat bs 8 4), est := BitVec.ofNat 32 (recNat bs 0xC 4), nsteps := steps,
      minEff := max (recNat bs 0x11 1) (min (s.govFloor part) steps),
      ranks := (List.range steps).map fun k => recNat bs (0x20 + k) 1, ran := [0],
      mark := (s.governor part).mark, stepTime := BitVec.ofNat 32 (recNat bs 0xC 4) }

/-- DTB copy that the governor of a partition reads (R189): its tile die's. -/
def State.govNow (s : State) (part : Nat) : Word := s.dtb part

/-- GOVQ.MARK's effect (R189). -/
def markFrame (s : State) (part : Nat) : State :=
  let g := s.governor part
  if !g.opened then s
  else
    let now := s.govNow part
    let step := if g.marks = 0 then g.stepTime
      else BitVec.ofNat 32 (min (now.toNat - g.mark.toNat) (2 ^ 32 - 1))
    s.setGovernor part { g with mark := now, marks := g.marks + 1, stepTime := step }

/-! ### Boundaries (R190) -/

def noFrame : Word := BitVec.allOnes 64
def outOfRange : Word := BitVec.ofNat 64 0xFFFFFFFFFFFFFFFD
def outOfOrder : Word := BitVec.ofNat 64 0xFFFFFFFFFFFFFFFE

/-- A 64-bit sum that saturates. -/
def satAdd64 (a b : Nat) : Nat := min (a + b) (2 ^ 64 - 1)

/-- Steps after the current one that stand. -/
def Governor.rest (g : Governor) : List Nat :=
  (List.range g.nsteps).filter fun k => decide (g.cur < k) && !g.dropped.contains k

/-- The step that a decision drops: of those but the final one, the highest rank, and of equals the highest number. -/
def Governor.dropPick (g : Governor) : Option Nat :=
  firstBy (fun a b => decide (g.ranks.getD b 0 < g.ranks.getD a 0) || (g.ranks.getD a 0 == g.ranks.getD b 0 && decide (b ≤ a)))
    (g.rest.filter fun k => decide (k + 1 < g.nsteps))

/-- The decision of boundary b falls on dropping a step. -/
def Governor.mustDrop (g : Governor) (b now guard : Nat) (enabled : Bool) : Bool :=
  let rem := g.rest.length
  enabled && decide (0 < rem) && decide (g.minEff + 1 ≤ b + rem) &&
    decide (g.deadline.toNat - guard < satAdd64 (satAdd64 now (rem * g.stepTime.toNat)) g.tail.toNat)

/-- An answer's word: next step, or FINISH, and the step dropped. -/
def answerWord (next drop : Option Nat) : Word :=
  placeField 0 16 (next.getD 0xFFFF) |||
    match drop with
    | some k => placeField 16 1 1 ||| placeField 20 4 k
    | none => 0#64

/-- A frame closes (R190, R191): its answers are held; LAST and LASTFIN are captured. -/
def closeFrame (s : State) (part : Nat) (now : Word) : State :=
  let g := s.governor part
  let s := s.setGovernor part { g with opened := false }
  (s.setReg (govReg part 0x038) (placeField 32 16 (bitSet g.dropped) ||| placeField 0 5 g.ran.length)).setReg
    (govReg part 0x040) now

/-- GOVQ.NEXT's effect (R190): the answer for b. -/
def nextStep (s : State) (part b : Nat) : Word × State :=
  let g := s.governor part
  let evt := govReg part 0x048
  if !g.opened then
    (if decide (1 ≤ b) && decide (b ≤ g.nb) then g.answers.getD (b - 1) 0#64 else noFrame, s)
  else if b = 0 || 16 < b then (outOfRange, s.raise evt 0)
  else if b ≤ g.nb then (g.answers.getD (b - 1) 0#64, s)
  else if b ≠ g.nb + 1 then (outOfOrder, s.raise evt 0)
  else
    let now := s.govNow part
    let guard := s.field (govReg part 0x008) 23 0
    let drop := if g.mustDrop b now.toNat guard (s.field (govReg part 0x000) 0 0 == 1) then g.dropPick else none
    let g := match drop with
      | some k => { g with dropped := k :: g.dropped }
      | none => g
    let s := if drop.isSome then (s.raise evt 1).count (govReg part 0x050) 48 1 else s
    let next := g.rest.head?
    let answer := answerWord next drop
    let g := { g with
      answers := g.answers ++ [answer], nb := b, cur := next.getD g.cur,
      ran := match next with
        | some k => g.ran ++ [k]
        | none => g.ran }
    let s := s.setGovernor part g
    match next with
    | some _ => (answer, s)
    | none =>
      let s := closeFrame s part now
      (answer, if g.deadline.toNat < now.toNat + g.tail.toNat then s.raise evt 2 else s)

/-- A launch completes whose frame is still open (R191). -/
def abandonFrame (s : State) (part acc : Nat) : State :=
  let g := s.governor part
  if g.opened && g.owner == some acc then (closeFrame s part (s.govNow part)).raise (govReg part 0x048) 3 else s

/-! ### The instructions (R420) -/

/-- The partition whose governor a GOVQ form reaches: on a management core the one that the register in B names. -/
def withGovernor (s : State) (b : SReg) (k : Nat → Result) : Result :=
  if s.isMgmt then k (s.ownerOf (bitsOf (s.sreg b) 1 0))
  else if b ≠ 0#6 then trapIllegal s
  else k s.part

/-- The launch that opens a frame. -/
def State.opener (s : State) : Option Nat := if s.isMgmt then none else some s.myJob.id.acc

/-- GOVQ.OPEN (R188, R420). -/
def execGovqOpen (d a b : SReg) (s : State) : Result :=
  withGovernor s b fun part =>
    let va := s.sreg a
    if va.toNat % 64 ≠ 0 then trap s (accessFault ⟨.global, .read, 64, 64, false⟩ causeAlignment va)
    else
      withRead s 5 va 64 fun s bs =>
        if (s.governor part).opened then .next (s.setS d 1#64).advance
        else if !frameOk bs then .next (s.setS d 2#64).advance
        else .next ((openFrame s part s.opener bs).setS d 0#64).advance

/-- GOVQ.MARK (R189, R420). -/
def execGovqMark (b : SReg) (s : State) : Result :=
  withGovernor s b fun part => .next (markFrame s part).advance

/-- GOVQ.NEXT (R190, R420). -/
def execGovqNext (d a b : SReg) (s : State) : Result :=
  withGovernor s b fun part =>
    let r := nextStep s part (s.sreg a).toNat
    .next ((r.2.setS d r.1).advance)

end Sys2Proof.Machine
end

