-- ==== Sys2Proof/Machine/Crews.lean ====
section
/-!
DEFINITION. Crews (R266, R304, R305), barriers (R306, R307) and semaphores (R369, R370).
-/

namespace Sys2Proof.Machine

/-! ### Crews -/

def allOnes64 : Word := BitVec.allOnes 64

/-- MAX of a crew in the bytes of a crew table; of two entries the first is used (R266). -/
def crewLimit (fuel : Nat) (table : List Byte) (crew : Nat) : Option Nat :=
  match fuel with
  | 0 => none
  | fuel + 1 =>
    match table with
    | c :: m :: rest => if c.toNat = crew then some m.toNat else crewLimit fuel (rest.drop 6) crew
    | _ => none

/-- The limit of a crew from the DKI of the issuing job's launch, read in the job's context. -/
def withCrewLimit (s : State) (crew : Nat) (k : State → Option Nat → Result) : Result :=
  match s.launch s.part s.myJob.id.acc with
  | none => k s none
  | some l =>
    if 255 < crew then k s none
    else
      withRead s 5 (l.kimage + BitVec.ofNat 64 l.header.crewOff) (8 * l.header.ncrew) fun s bs =>
        k s (crewLimit l.header.ncrew bs crew)

/-- Ranks held in a crew of the issuing job's launch. -/
def State.ranksHeld (s : State) (crew : Nat) : List Nat :=
  (s.allJobs.filter fun j => j.id.part == s.myJob.id.part && j.id.acc == s.myJob.id.acc).flatMap fun j =>
    (j.crews.filter fun h => h.crew == crew).map fun h => h.rank

/-- The rank of a job in a crew. -/
def Job.rankIn (j : Job) (crew : Nat) : Option Nat := (j.crews.find? fun h => h.crew == crew).map fun h => h.rank

/-- A job that joins a crew at a rank, or makes it current again. -/
def Job.join (j : Job) (crew rank : Nat) : Job :=
  { j with
    crews := if (j.rankIn crew).isSome then j.crews else ⟨crew, rank⟩ :: j.crews,
    current := some crew, ext := true }

/-- A job that leaves a crew (R304): of those still held the most recently joined becomes current. -/
def Job.leave (j : Job) (crew : Nat) : Job :=
  let rest := j.crews.filter fun h => h.crew ≠ crew
  { j with
    crews := rest,
    current := if j.current = some crew then rest.head?.map fun h => h.crew else j.current }

/-- A number as a word, all ones for none. -/
def rankWord (r : Option Nat) : Word :=
  match r with
  | some n => BitVec.ofNat 64 n
  | none => allOnes64

/-- CREW.JOIN (R304). -/
def execCrewJoin (d a : SReg) (s : State) : Result :=
  jobOnly s <|
    let crew := (s.sreg a).toNat
    match s.myJob.rankIn crew with
    | some r => .next ((s.setJob fun j => j.join crew r).setS d (BitVec.ofNat 64 r)).advance
    | none =>
      withCrewLimit s crew fun s limit =>
        match limit with
        | none => .next ((s.setS d allOnes64).advance)
        | some m =>
          let held := s.ranksHeld crew
          match firstBelow m fun r => !held.contains r with
          | none => .next ((s.setS d (allOnes64 - 1#64)).advance)
          | some r =>
            if 4 ≤ s.myJob.crews.length then .next ((s.setS d (allOnes64 - 2#64)).advance)
            else .next ((s.setJob fun j => j.join crew r).setS d (BitVec.ofNat 64 r)).advance

/-- CREW.LEAVE (R304). -/
def execCrewLeave (d a : SReg) (s : State) : Result :=
  jobOnly s <|
    let crew := (s.sreg a).toNat
    match s.myJob.rankIn crew with
    | some _ => .next ((s.setJob fun j => j.leave crew).setS d 0#64).advance
    | none => .next ((s.setS d 1#64).advance)

/-- A bitmap of 64 ranks from a first one. -/
def rankMap (held : List Nat) (first : Nat) : Word :=
  BitVec.ofNat 64 ((List.range 64).foldl (fun n k => if held.contains (first + k) then n + 2 ^ k else n) 0)

/-- CREW.INFO (R305). -/
def execCrewInfo (d a b : SReg) (s : State) : Result :=
  jobOnly s <|
    let crew := (s.sreg a).toNat
    let held := s.ranksHeld crew
    match (s.sreg b).toNat with
    | 0 => .next ((s.setS d (rankWord (s.myJob.rankIn crew))).advance)
    | 1 => .next ((s.setS d (BitVec.ofNat 64 held.length)).advance)
    | 2 => withCrewLimit s crew fun s limit => .next ((s.setS d (BitVec.ofNat 64 (limit.getD 0))).advance)
    | 3 => .next ((s.setS d (rankMap held 0)).advance)
    | 4 => .next ((s.setS d (rankMap held 64)).advance)
    | _ => .next ((s.setS d allOnes64).advance)

/-! ### Words in a pool -/

/-- A local scratchpad, or that of the rank which a register holds (R306, R369). -/
def State.poolSpace (s : State) (b : SReg) : Space := if b = 0#6 then .scratch else .peer (s.sreg b).toNat

/-- A fragment of a diverged vector stream outside a bracket may not execute it (R307, R369). -/
def wholeOnly (s : State) (r : Result) : Result := if s.me.isVector && !s.me.whole then trapIllegal s else r

/-- An access does not perform before an earlier acquire of the stream has taken its value (R221). -/
def afterAcquires (s : State) (r : Result) : Result := if s.myTxns.any fun t => t.acq.isSome then .next s.stall else r

/-- The checks of one 8-byte aligned word in a pool, then what follows with its pool and offset. -/
def withPool (s : State) (sp : Space) (a : Word) (n : Nat) (k : AccessKind) (go : State → JobId → Nat → Result) :
    Result :=
  match checkAccess s ⟨sp, k, n, 8, false⟩ [(0, a)] with
  | .error r => r
  | .ok (s, ps) =>
    match ps with
    | [(_, .pool j off)] => go s j off
    | _ => .next s

/-- A little-endian number in a pool. -/
def State.poolNat (s : State) (j : JobId) (off n : Nat) : Nat := leNat (s.poolRead j off n)

/-! ### Barriers (R306) -/

/-- An arrival at a barrier word: the word afterwards. -/
def arrivedWord (w : BitVec 64) : BitVec 64 :=
  if bitsOf w 47 32 ≤ bitsOf w 31 0 + 1 then withBits (withBits w 31 0 0) 63 48 (bitsOf w 63 48 + 1)
  else withBits w 31 0 (bitsOf w 31 0 + 1)

/-- Generation of a barrier word. -/
def generation (w : BitVec 64) : BitVec 16 := w.extractLsb' 48 16

/-- The barrier word in a pool. -/
def State.barrierWord (s : State) (j : JobId) (off : Nat) : BitVec 64 := BitVec.ofNat 64 (s.poolNat j off 8)

/-- An arrival, as a release at .dev: the generation that it found, and the state afterwards. -/
def arriveAt (s : State) (sp : Space) (a : Word) (go : State → JobId → Nat → BitVec 16 → Result) : Result :=
  withPool s sp a 8 .atomic fun s j off =>
    releaseThen s true 5 fun s =>
      let w := s.barrierWord j off
      go (((s.peerParcel 11 0 j).poolWrite j off (leBytes 8 (arrivedWord w).toNat)).markExt) j off (generation w)

/-- The wait for a generation other than g ends, as an acquire at .dev, or goes on. -/
def awaitGeneration (s : State) (d : SReg) (j : JobId) (off : Nat) (g : BitVec 16) : Result :=
  let now := generation (s.barrierWord j off)
  if now = g then .next (s.waitFor (.barrier g j))
  else .next (((s.acquired true 5).setS d (now.zeroExtend 64)).advance)

/-- BAR.ARR (R306). -/
def execBarArr (d a b : SReg) (s : State) : Result :=
  wholeOnly s <| arriveAt s (s.poolSpace b) (s.sreg a) fun s _ _ g => .next ((s.setS d (g.zeroExtend 64)).advance)

/-- BAR.WAIT (R306): waits for the generation after sD[15:0]. -/
def execBarWait (d a b : SReg) (s : State) : Result :=
  wholeOnly s <| afterAcquires s <|
    withPool s (s.poolSpace b) (s.sreg a) 8 .read fun s j off =>
      awaitGeneration s d j off ((s.sreg d).extractLsb' 0 16)

/-- A stream that has arrived waits on (R306): each look at the word makes R307's checks again, and while the pool's job is away it
goes on waiting (R164). -/
def awaitAgain (s : State) (d : SReg) (sp : Space) (a : Word) (g : BitVec 16) : Result :=
  match withPool s sp a 8 .read fun s j off => awaitGeneration s d j off g with
  | .next t =>
    match t.me.frag.wait with
    | .peer j _ => .next (t.waitFor (.barrier g j))
    | _ => .next t
  | r => r

/-- BAR.AW (R306): the arrival is made once; then the stream waits on the generation that it returned. -/
def execBarAw (d a b : SReg) (s : State) : Result :=
  wholeOnly s <|
    match s.me.frag.wait with
    | .barrier g _ => awaitAgain s d (s.poolSpace b) (s.sreg a) g
    | _ => arriveAt s (s.poolSpace b) (s.sreg a) fun s j off g => awaitGeneration s d j off g

/-! ### Semaphores (R369, R370) -/

/-- A count raised by a number, saturating. -/
def semRaise (s : State) (j : JobId) (off : Nat) (n : Nat) : State :=
  s.poolWrite j off (leBytes 4 (satAdd32 (s.poolNat j off 4) n))

/-- SEM.ADD (R369): a release, at .core on the own pool and at .dev on a peer's (R232). -/
def execSemAdd (d a b : SReg) (s : State) : Result :=
  wholeOnly s <|
    withPool s (s.poolSpace b) (s.sreg a) 4 .atomic fun s j off =>
      releaseThen s true (if b = 0#6 then 1 else 5) fun s =>
        .next ((semRaise (s.peerParcel 11 0 j) j off (bitsOf (s.sreg d) 31 0)).markExt).advance

/-- Ticket of a wait on a semaphore of the own pool. -/
def semTicket (off : Nat) (f : Frag) : Option Nat :=
  match f.wait with
  | .semaphore o n => if o = off then some n else none
  | _ => none

/-- SEM.WAIT (R369): served in the order in which the waits began. -/
def execSemWait (d a : SReg) (s : State) : Result :=
  wholeOnly s <| afterAcquires s <|
    withPool s .scratch (s.sreg a) 4 .atomic fun s j off =>
      let n := max (bitsOf (s.sreg d) 31 0) 1
      let count := s.poolNat j off 4
      if n ≤ count && !s.behind (semTicket off) then
        let s := (s.poolWrite j off (leBytes 4 (count - n))).acquired true 5
        .next ((s.setS d (BitVec.ofNat 64 (count - n))).advance)
      else
        match semTicket off s.me.frag with
        | some _ => .next s
        | none => .next (s.waitFor (.semaphore off s.ticket)).nextTicket

/-- A job named by LAUNCHID and JOBID in the issuing job's partition (R370, R178, R313): its launch, its identity, and
its job record once it has left the launch pool. -/
def namedJob (s : State) (part launch job : Nat) : Option (Launch × JobId × Option Job) :=
  match s.sch.launches.find? fun l => l.part == part && l.acc % 2 ^ 32 == launch && decide (job < l.jobs) with
  | none => none
  | some l =>
    let id : JobId := ⟨part, l.acc, job⟩
    match s.job id with
    | some j => some (l, id, some j)
    | none =>
      if l.fresh ≤ job && !l.cancelled && !l.killed.contains job then some (l, id, none) else none

/-- The scratchpad grant of a job that has not been admitted: that of its launch's partition word. -/
def Launch.grant (l : Launch) : Nat := (l.pword.extractLsb' 16 8).toNat * 65536

/-- SEM.ADD.RING (R370): sA names the job, sB the offset; a release at .dev. A record names the other job's scratchpad by
SPACE 2 with the offset (log entry 70). -/
def execSemAddRing (d a b : SReg) (s : State) : Result :=
  let q : Req := ⟨.peer 0, .atomic, 4, 8, false⟩
  let off := s.sreg b
  if s.isMgmt then trap s (accessFault q causePermission off)
  else
    wholeOnly s <|
      match namedJob s s.part (bitsOf (s.sreg a) 63 32) (bitsOf (s.sreg a) 31 0) with
      | none => trap s (accessFault q causePermission off)
      | some (l, id, j) =>
        if off.toNat % 8 ≠ 0 then trap s (accessFault q causeAlignment off)
        else if l.grant < off.toNat + 4 then trap s (accessFault q causePermission off)
        else
          match j with
          | none => .next (s.waitPeer id)
          | some x =>
            if x.away then .next (s.waitPeer id)
            else
              releaseThen s true 5 fun s =>
                .next ((semRaise (s.peerParcel 11 0 id) id off.toNat (bitsOf (s.sreg d) 31 0)).markExt).advance

end Sys2Proof.Machine
end

