-- ==== Sys2Proof/Machine/Links.lean ====
section
/-!
DEFINITION. Queue links (R86, R371 to R373).
-/

namespace Sys2Proof.Machine

def Job.outPort (j : Job) (n : Nat) : Option OutPort := j.outPorts.find? fun p => p.port == n
def Job.inPort (j : Job) (n : Nat) : Option InPort := j.inPorts.find? fun p => p.port == n

/-- Data of the link of an inbound port is on its way. -/
def State.linkInFlight (s : State) (j : JobId) (port link : Nat) : Bool :=
  s.net.packets.any fun p =>
    match p.body with
    | .queueData _ dst n k _ => dst == j && n == port && k == link
    | _ => false

/-- An inbound port stands, or still holds or awaits a whole register of an ended link (R373). -/
def State.inPortOpen (s : State) (j : JobId) (p : InPort) : Bool :=
  !p.ended || decide (4 ≤ p.entries.length) || s.linkInFlight j p.port p.link

/-- The save area of an inbound port reads zeros once it is unbound (R371). -/
def Job.clearSave (j : Job) (p : InPort) : Job := { j with scratch := cellsClear j.scratch p.save (128 * p.depth) }

/-- An inbound port goes. -/
def Job.dropIn (j : Job) (n : Nat) : Job :=
  match j.inPort n with
  | some p => { j.clearSave p with inPorts := j.inPorts.filter fun q => q.port ≠ n }
  | _ => j

/-- An outbound port goes. -/
def Job.dropOut (j : Job) (n : Nat) : Job := { j with outPorts := j.outPorts.filter fun q => q.port ≠ n }

/-- The inbound port of a peer is told that its sender has ended the link. -/
def Job.endIn (j : Job) (n : Nat) : Job :=
  { j with inPorts := j.inPorts.map fun q => if q.port = n then { q with ended := true } else q }

/-- An inbound port whose sender has ended the link goes once it holds and awaits no whole register: it is then unbound, and its
save area reads zeros (R371, R373). -/
def reapIn (s : State) (j : JobId) (n : Nat) : State :=
  match (s.job j).bind fun x => x.inPort n with
  | some p => if s.inPortOpen j p then s else s.modJob j fun x => x.dropIn n
  | none => s

/-- A job's outbound port is unbound (R373). -/
def unbindOut (s : State) (j : JobId) (n : Nat) : State :=
  match (s.job j).bind fun x => x.outPort n with
  | some p => reapIn ((s.modJob j fun x => x.dropOut n).modJob p.peer fun x => x.endIn p.peerPort) p.peer p.peerPort
  | none => s

/-- A job's inbound port is unbound: the entries held are discarded, and the sender sees the link unbound (R373). -/
def unbindIn (s : State) (j : JobId) (n : Nat) : State :=
  match (s.job j).bind fun x => x.inPort n with
  | some p =>
    let s := s.modJob j fun x => x.dropIn n
    match p.sender with
    | some (k, m) => if p.ended then s else s.modJob k fun x => x.dropOut m
    | none => s
  | none => s

/-- Every link of a job is unbound (R373). -/
def unbindAll (s : State) (j : JobId) : State :=
  (List.range 4).foldl (fun s n => unbindIn (unbindOut s j n) j n) s

/-- A status in sD (R371). -/
def linkStatus (s : State) (d : SReg) (n : Nat) : Result := .next ((s.setS d (BitVec.ofNat 64 n)).advance)

/-- QBIND.OUT (R371): waits until the peer has bound the inbound port, then takes a credit per entry. -/
def execQbindOut (d a b : SReg) (s : State) : Result :=
  let v := s.sreg a
  let port := bitsOf v 1 0
  let far := bitsOf v 9 8
  if (s.myJob.outPort port).isSome then linkStatus s d 1
  else
    match s.peer (s.sreg b).toNat with
    | none => linkStatus s d 2
    | some j =>
      if bitsOf v 7 2 ≠ 0 || bitsOf v 63 10 ≠ 0 then linkStatus s d 3
      else
        match j.inPort far with
        | none => .next s.stall
        | some p =>
          if p.ended then .next s.stall
          else if p.sender.isSome then linkStatus s d 4
          else
            let me := s.myJob.id
            let link := s.ticket
            let s := s.nextTicket.modJob j.id fun x =>
              { x with inPorts := x.inPorts.map fun q =>
                  if q.port = far then { q with sender := some (me, port), link := link } else q }
            linkStatus (s.setJob fun x => { x with outPorts := ⟨port, j.id, far, p.depth, link⟩ :: x.outPorts }) d 0

/-- Free bytes in the save area while an inbound port is bound (R371: undefined). -/
def State.blurSave (s : State) (save n : Nat) : State :=
  let bs := (List.range n).map fun k => BitVec.ofNat 8 (Config.freeBits (s.draw + k))
  { s with draw := s.draw + n, myJob := { s.myJob with scratch := cellsSet s.myJob.scratch save bs } }

/-- QBIND.IN (R371). -/
def execQbindIn (d a : SReg) (s : State) : Result :=
  let v := s.sreg a
  let port := bitsOf v 1 0
  let depth := bitsOf v 13 8
  let save := bitsOf v 63 32
  let held := match s.myJob.inPort port with
    | some p => s.inPortOpen s.myJob.id p
    | none => false
  if held then linkStatus s d 1
  else if bitsOf v 7 2 ≠ 0 || bitsOf v 31 14 ≠ 0 || depth % 4 ≠ 0 || depth < 4 || 32 < depth || save % 128 ≠ 0 ||
      s.myJob.grant < save + 128 * depth then linkStatus s d 3
  else
    let s := (s.setJob fun j => j.dropIn port).blurSave save (128 * depth)
    linkStatus (s.setJob fun j => { j with inPorts := ⟨port, depth, save, none, 0, false, []⟩ :: j.inPorts }) d 0

/-- QBIND.UN (R373). -/
def execQbindUn (d a : SReg) (s : State) : Result :=
  let v := s.sreg a
  let port := bitsOf v 1 0
  if bitOf v 2 then
    match s.myJob.inPort port with
    | some p => linkStatus (unbindIn s s.myJob.id port) d (if s.inPortOpen s.myJob.id p then 0 else 1)
    | none => linkStatus s d 1
  else
    match s.myJob.outPort port with
    | some _ => linkStatus (unbindOut s s.myJob.id port) d 0
    | none => linkStatus s d 1

/-- QBIND.Q (R371). -/
def execQbindQ (d a : SReg) (s : State) : Result :=
  let v := s.sreg a
  let port := bitsOf v 1 0
  let n := if bitOf v 2 then
      (match s.myJob.inPort port with
       | some p => if s.inPortOpen s.myJob.id p then some p.entries.length else none
       | none => none)
    else (s.myJob.outPort port).map fun p => p.credits
  .next ((s.setS d (rankWord n)).advance)

/-- A packet of a link leaves a core for a job's core. -/
def sendLink (s : State) (dst : JobId) (len : Nat) (body : PacketBody) : State :=
  let to_ := match (s.job dst).bind fun x => x.core with
    | some c => coreStop c
    | none => coreStop s.core
  s.sendPacket
    { Packet.make 9 (coreStop s.core) to_ body with
      slack := s.slack, len := len, gtag := s.groupTag, strms := [s.me.id] } (corePort s.core)

/-- Entry k of a register: its 128 bytes in element order. -/
def entryOf (v : VReg) (k : Nat) : BitVec 1024 := v.extractLsb' (1024 * k) 1024

/-- PERMISSION on a link (R372, R373). -/
def linkFault (s : State) : Result := trap s { cause := causePermission }

/-- QSEND (R372): four entries and four credits. -/
def execQsend (q : BitVec 2) (a : VNum) (s : State) : Result :=
  if !s.me.whole then trapIllegal s
  else
    match s.myJob.outPort q.toNat with
    | none => linkFault s
    | some p =>
      match s.job p.peer with
      | none => linkFault s
      | some j =>
        if j.away then .next (s.waitPeer j.id)
        else if p.credits < 4 then .next s.stall
        else
          let v := s.vreg a
          let s := s.setJob fun x =>
            { x with
              ext := true,
              outPorts := x.outPorts.map fun o => if o.port = p.port then { o with credits := o.credits - 4 } else o }
          .next ((List.range 4).foldl
            (fun s k => sendLink s p.peer 2 (.queueData s.myJob.id p.peer p.peerPort p.link (entryOf v k))) s).advance

/-- A register of four entries. -/
def joinEntries (es : List (BitVec 1024)) : VReg :=
  BitVec.ofNat 4096 (es.foldr (fun e n => e.toNat + 2 ^ 1024 * n) 0)

/-- QRECV (R372): four entries, all 128 lanes, and four credits back. -/
def execQrecv (d : VNum) (q : BitVec 2) (s : State) : Result :=
  if !s.me.whole then trapIllegal s
  else
    match s.myJob.inPort q.toNat with
    | none => linkFault s
    | some p =>
      if 4 ≤ p.entries.length then
        let s := s.setJob fun x =>
          { x with inPorts := x.inPorts.map fun o => if o.port = p.port then { o with entries := o.entries.drop 4 } else o }
        let s := match p.sender with
          | some (k, n) => if p.ended then s else sendLink s k 0 (.queueCredit k n p.link 4)
          | none => s
        .next (((reapIn s s.myJob.id p.port).setV d (joinEntries (p.entries.take 4))).advance)
      else if s.inPortOpen s.myJob.id p then .next s.stall
      else linkFault s

/-- QLINK_DATA (R86): packet a, ejected at its stop, enters the inbound port that it names, of its link. -/
def execQlinkData (s : State) : Result :=
  match s.packet s.arg.a with
  | none => .next s
  | some p =>
    match p.place, p.body with
    | .ejected _ _ _, .queueData src dst port link data =>
      .next (reapIn ((s.dropPacket p.id).modJob dst fun j =>
        { j with inPorts := j.inPorts.map fun q =>
            if q.port = port && q.link = link && (q.sender.map fun x => x.1) == some src then { q with entries := q.entries ++ [data] }
            else q }) dst port)
    | _, _ => .next s

/-- QLINK_CREDIT (R86): packet a, ejected at its stop, returns credits to the outbound port that it names. -/
def execQlinkCredit (s : State) : Result :=
  match s.packet s.arg.a with
  | none => .next s
  | some p =>
    match p.place, p.body with
    | .ejected _ _ _, .queueCredit dst port link n =>
      .next ((s.dropPacket p.id).modJob dst fun j =>
        { j with outPorts := j.outPorts.map fun q =>
            if q.port = port && q.link = link then { q with credits := q.credits + n } else q })
    | _, _ => .next s

end Sys2Proof.Machine
end

