-- ==== Sys2Proof/Machine/Versions.lean ====
section
/-!
DEFINITION. The version tables of the partitions (R182 to R184): pins of a BVH version and its reclaim.
-/

namespace Sys2Proof.Machine

def State.setVersions (s : State) (vs : List VersionEntry) : State :=
  { s with guide := { s.guide with versions := vs } }

/-- The entry names a version of a descriptor in a context. -/
def VersionEntry.names (e : VersionEntry) (part : Nat) (ctx : BitVec 12) (desc : Word) (version : BitVec 32) : Bool :=
  e.part == part && e.ctx == ctx && e.desc == desc && e.version == version

/-- A ray pins a version (R182): none while the table is full. -/
def pinVersion (s : State) (part : Nat) (ctx : BitVec 12) (desc : Word) (version : BitVec 32) : Option State :=
  let vs := s.guide.versions
  if vs.any fun e => e.names part ctx desc version then
    some (s.setVersions (vs.map fun e => if e.names part ctx desc version then { e with pins := e.pins + 1 } else e))
  else
    (firstBelow 16 fun k => !vs.any fun e => e.part == part && e.idx == k).map fun k =>
      s.setVersions (vs ++ [⟨part, k, ctx, desc, version, 1⟩])

/-- A ray lets go of its version. -/
def unpinVersion (s : State) (part : Nat) (ctx : BitVec 12) (desc : Word) (version : BitVec 32) : State :=
  s.setVersions (s.guide.versions.map fun e =>
    if e.names part ctx desc version then { e with pins := e.pins - 1 } else e)

/-- The version table reaches memory from its partition's tile die, in the entry's context. -/
def VersionEntry.via (e : VersionEntry) : Via :=
  ⟨.unit e.part, e.part, e.ctx.toNat, false, false, ⟨.mgmt e.part, 1⟩, 2 * e.idx + 1⟩

/-- The ROOT entry of a descriptor's 64 bytes that holds a version (R181). -/
def rootSlot (bs : List Byte) (version : BitVec 32) : Option Nat :=
  firstBelow 4 fun k => leNat ((bs.drop (0x20 + 8 * k)).take 4) == version.toNat

/-- A version that is not CUR and has no pin is reclaimed (R183); a descriptor that cannot be read now is looked at
again at the next event. -/
def reclaimEntry (s : State) (e : VersionEntry) : State :=
  if e.pins ≠ 0 then s
  else
    match readVia s e.via e.desc 64 with
    | (.ok bs, s) =>
      if leNat (bs.take 4) = e.version.toNat then s.answered e.via.strm e.via.op
      else
        let free (s : State) : State :=
          ((s.answered e.via.strm e.via.op).setVersions (s.guide.versions.filter fun x => !(x.part == e.part && x.idx == e.idx))).raise
            (govReg e.part 0x048) 4
        match rootSlot bs e.version with
        | none => free s
        | some k =>
          match writeVia s e.via (e.desc + BitVec.ofNat 64 (0x20 + 8 * k)) (leBytes 4 0) with
          | (.ok _, s) => free s
          | (_, s) => s
    | (_, s) => s

/-- Every entry that can be reclaimed is. -/
def reclaimVersions (s : State) : State := s.guide.versions.foldl reclaimEntry s

end Sys2Proof.Machine
end

