-- ==== Sys2Proof/Machine/Pool.lean ====
section
/-!
DEFINITION. The resources of cores (R152, R197), the end of a job and of its launch (R125, R150, R151, R167), and the
fault queue (R170).
-/

namespace Sys2Proof.Machine

def State.setLaunches (s : State) (ls : List Launch) : State := { s with sch := { s.sch with launches := ls } }
def State.setJobs (s : State) (js : List Job) : State := { s with jobs := js }

/-- The machine stands between streams: management core 0's stream is the current one, so that jobs may come and go. -/
def State.rest (s : State) : State := s.select ⟨.mgmt 0, 0⟩ 0

/-! ### Resources (R152, R197) -/

/-- Granules that a partition word grants to a job with so many vector streams (R197). -/
def granules (pword : BitVec 32) (nvec : Nat) : Nat :=
  let reg := (pword.extractLsb' 0 8).toNat
  let reg := if reg = 0 && decide (0 < nvec) then 1 else reg
  reg + (pword.extractLsb' 8 8).toNat + (pword.extractLsb' 16 8).toNat

/-- Granules of a core's pool (R193). -/
def poolSize (guide : Bool) : Nat := if guide then 32 else 128

/-- What a job needs of a core. -/
structure Need where
  guide  : Bool
  nvec   : Nat
  amount : Nat
  deriving DecidableEq, Repr

def Launch.guide (l : Launch) : Bool := l.flags.getLsbD 6
def Launch.mayMigrate (l : Launch) : Bool := l.flags.getLsbD 1
def Launch.timed (l : Launch) : Bool := l.flags.getLsbD 4
def Launch.sup (l : Launch) : Bool := l.flags.getLsbD 2
def Launch.hasCells (l : Launch) : Bool := l.flags.getLsbD 3
def Launch.restartable (l : Launch) : Bool := l.flags.getLsbD 0

def Launch.need (l : Launch) : Need := ⟨l.guide, l.header.nvec, granules l.pword l.header.nvec⟩
def Job.need (j : Job) : Need := ⟨j.guide, j.nvec, granules j.pword j.nvec⟩

/-- Jobs that a core holds, and those distributed to it; a SUSPENDED one takes nothing of the core that it left (R163). -/
def State.jobsAt (s : State) (core : Nat) : List Job :=
  s.allJobs.filter fun j => j.core == some core && (j.state == .resident || j.state == .distributed)

/-- Jobs that a core holds. -/
def State.residentAt (s : State) (core : Nat) : List Job := (s.jobsAt core).filter fun j => j.state == .resident

/-- Sums over jobs. -/
def granulesOf (js : List Job) : Nat := (js.map fun j => j.need.amount).sum
def vectorsOf (js : List Job) : Nat := (js.map fun j => j.nvec).sum

/-- A core beside these jobs has room for one more (R152): a slot with its control, matrix and copy streams, the vector
streams and the granules. -/
def roomBeside (js : List Job) (n : Need) : Bool :=
  decide (js.length < 4) && decide (vectorsOf js + n.nvec ≤ 16) && decide (granulesOf js + n.amount ≤ poolSize n.guide)

/-- The core exists, runs and is of the kind: logical tiles that stand for no physical one are absent (R25). -/
def State.coreUsable (s : State) (core : Nat) (guide : Bool) : Bool :=
  s.sys.power.compute &&
    if guide then coreKind core == .guide else coreKind core == .tile && tableGet s.sys.tiles core 0 != 0

/-- Cores of a partition that could hold jobs of a kind. -/
def State.coresFor (s : State) (part : Nat) (guide : Bool) : List Nat :=
  (List.range 544).filter fun c => s.corePart c == part && s.coreUsable c guide

/-- Free granules of a core, jobs distributed to it counted. -/
def State.freeGranules (s : State) (core : Nat) (guide : Bool) : Nat := poolSize guide - granulesOf (s.jobsAt core)

/-! ### Launch records -/

/-- A record that concerns a launch: the fields that no rule gives for one are free values. -/
def launchRecord (s : State) (l : Launch) (cause disp kind akind : Nat) (addr : Word) : FaultRecord :=
  { cause := cause, disp := disp, engine := 6, kind := kind, strmid := 0xFFFF, space := 0, akind := akind,
    job := Config.freeBits s.draw % 2 ^ 32, launch := l.acc % 2 ^ 32, coreid := Config.freeBits (s.draw + 1) % 2 ^ 16,
    ctx := l.ctx.toNat, regno := 0xFFFF, relaunches := 0, pc := BitVec.ofNat 64 (Config.freeBits (s.draw + 2)),
    addr := addr, tag := l.tag, time := s.time.ns, mask := 0#128, cycles := 0,
    ctxBase := BitVec.ofNat 64 (Config.freeBits (s.draw + 3)), nfrag := 0 }

/-- A launch's record joins those waiting to be posted. -/
def postLaunch (s : State) (l : Launch) (r : FaultRecord) (item : ParkedItem) (completes : Option Nat) : State :=
  { s with draw := s.draw + 4 }.postLater ⟨l.part, r, item, none, completes⟩

/-! ### Completion of a launch (R125) -/

/-- The unit that performs a launch's reads and its completion add, in the launch's context. -/
def Launch.via (l : Launch) : Via :=
  ⟨.unit l.part, l.part, l.ctx.toNat, !l.sup, false, ⟨.mgmt l.part, 2⟩, 2 * l.acc + 1⟩

/-- The last steps of a completion (R125 step 3, R191): the message, and the launch leaves its queue and the Sieve. -/
def leaveLaunch (s : State) (l : Launch) : State :=
  let s := if l.msix = 0xFFFF then s else s.sendMsix l.msix
  let s := if l.overflowed then s
    else s.setField (schReg l.part 0x030) 12 0 (s.field (schReg l.part 0x030) 12 0 - l.regions.length)
  let s := s.setLaunches (s.sch.launches.filter fun x => !(x.part == l.part && x.acc == l.acc))
  abandonFrame s l.part l.acc

/-- The completion add at .sys, through the leaf's aperture: whether it has been performed, is to be tried again or awaited,
or met a failure with its cause. -/
inductive AddResult where
  | done | again | failed (cause : Nat)
  deriving DecidableEq, Repr

def completionAdd (s : State) (l : Launch) : AddResult × State :=
  let n := if l.anyTerminated then 0x100000001 else 1
  match translateVia s l.via l.doneAt 8 .atomic with
  | (.fault c, s) => (.failed c, s)
  | (.migrating _, s) => (.again, s)
  | (.walking, s) => (.again, s)
  | (.ok x, s) =>
    if x.isReg then (.failed causePermission, s)
    else if decide (x.apt ≤ 1) && s.readHeld x.pa then (.again, s.askLine x.pa 0 1 true)
    else if decide (x.apt ≤ 1) && s.poisonedAt x.pa 8 then (.failed causeDataLost, s)
    else if x.apt = 4 then
      let t : Txn := ⟨s.ticket, ⟨.mgmt 0, 0⟩, 0, 0#128, 0#64, l.doneAt, .completion l.part l.acc, none, none, none⟩
      let s := s.nextTicket.modNet fun n => { n with txns := n.txns ++ [t] }
      (.again, sendMessage s hostStop 16 0 [] 0 (fetchMessage s x 0 true 0 true 0#64 (BitVec.ofNat 64 n) (fabricTag t.id)))
    else
      let s := s.settleAtomics x.loc 8 none
      let old := leNat (pointRead s x.loc 8)
      let s := if x.apt ≤ 1 then l.via.parcel ((s.noteRead x.pa 1).noteCmp x.pa x.cmp) 4 x.pa 0 0 else s
      (.done, pointWrite s x.loc (leBytes 8 (old + n)))

/-- A completion add that failed is recorded with DISP 6, and the rest waits for the record (R125). -/
def addFailed (s : State) (l : Launch) (cause : Nat) : State :=
  postLaunch s l (launchRecord s l cause 6 1 2 l.doneAt) .nothing (some l.acc)

/-- The completion add of a launch is on its way to another module. -/
def State.adding (s : State) (part acc : Nat) : Bool := s.net.txns.any fun t => t.kind == .completion part acc

/-- Completion of a launch whose jobs have all ended (R125): the add, then the rest. -/
def completeLaunch (s : State) (part acc : Nat) : State :=
  match s.launch part acc with
  | none => s
  | some l =>
    if l.finished < l.jobs || s.adding part acc || (s.sch.records.any fun r => r.part == part && r.completes == some acc)
    then s
    else if l.doneAt = 0#64 then leaveLaunch s l
    else
      match completionAdd s l with
      | (.again, s) => s
      | (.done, s) => leaveLaunch s l
      | (.failed c, s) => addFailed s l c

/-! ### Replies of atomics -/

/-- ATOMIC_REPLY (R205, R364, R436): transaction a is answered with status b and old value v; packet c - 1 carried it. The answer to the
completion add of a launch lets its completion go on (R125). -/
def execAtomicReply (s : State) : Result :=
  let s := s.dropCarrier
  match s.net.txns.find? fun t => t.id == s.arg.a with
  | none => .next s
  | some t =>
    let v := s.arg.v
    match t.kind with
    | .atomic d w =>
      let u := (s.endTxn t (some (.s d.toNat))).dropReplied t
      if s.arg.b = 0 then
        let u := u.modStream t.strm fun st => st.setS d (if w then v else v &&& 0xFFFFFFFF#64)
        .next ((u.acquireFor t).giveOf t)
      else .next (replyFault u t s.arg.b .atomic)
    | .lanes d lanes aop g =>
      let back := if s.arg.b = 0 then (laneResults aop v lanes).map fun y => (g, y.1, some y.2)
        else lanes.map fun y => (g, y.1, none)
      let u := ((s.endTxn t none).dropReplied t).modNet fun n => { n with lanesBack := n.lanesBack ++ back }
      let u := if s.arg.b = 0 then u else replyFault u t s.arg.b .atomic
      .next (finishGroup u t d g)
    | .completion part acc =>
      let u := s.modNet fun n => { n with txns := n.txns.filter fun x => x.id ≠ t.id }
      match u.launch part acc with
      | none => .next u
      | some l =>
        .next (if s.arg.b = 0 then leaveLaunch u l
          else addFailed u l (if s.arg.b = 2 then causeDataLost else causePermission))
    | _ => .next s

/-! ### Jobs that end -/

/-- n more jobs of a launch have ended. -/
def endJobs (s : State) (part acc n : Nat) (terminated : Bool) : State :=
  completeLaunch
    (s.modLaunch part acc fun l =>
      { l with finished := l.finished + n, anyTerminated := l.anyTerminated || (terminated && decide (0 < n)) }) part acc

/-! ### The end of a job (R150, R151) -/

/-- The streams, operations, links, crews, locks, queries, sends and rays of a job are gone (R167 steps 1 to 3). -/
def dropHoldings (s : State) (id : JobId) : State :=
  let mine (t : Txn) : Bool := t.strm.owner == .job id
  let s := unbindAll s id
  let s := (s.guide.rays.filter fun r => r.job == id).foldl (fun s r => unpinVersion s id.part r.ctx r.desc r.version) s
  let s := { s with
    streams := s.streams.filter fun st => !st.ofJob id,
    locks := s.locks.filter fun l => l.job != id,
    sch := { s.sch with
      queries := s.sch.queries.filter fun q => q.job != id,
      scheds := s.sch.scheds.map fun e => (e.1, { e.2 with soft := e.2.soft.filter (fun p => p.1 != id && p.2 != id) }) },
    guide := { s.guide with
      rays := s.guide.rays.filter fun r => r.job != id,
      sends := s.guide.sends.filter fun r => r.src != id },
    mm := { s.mm with pageWaits := s.mm.pageWaits.filter fun w => w.strm.owner != .job id },
    net := { s.net with
      txns := s.net.txns.filter fun t => !mine t,
      asked := s.net.asked.filter fun a => a.strm.owner != .job id } }
  reclaimVersions s

/-- A job's writes reach the slices at its end: a release at .dev (R151). -/
def releaseJob (s : State) (j : Job) : State :=
  match j.core with
  | some c => releaseAt s c 5
  | none => s

/-- Nothing of that release is left to do, and every access of the job has been answered. -/
def jobReleased (s : State) (j : Job) : Bool :=
  !(s.net.txns.any fun t => t.strm.owner == .job j.id) &&
    match j.core with
    | some c => releasedAt s c 5
    | none => true

/-- A job becomes DONE or TERMINATED (R150, R151): it gives back everything that it held. -/
def concludeJob (s : State) (id : JobId) (terminated : Bool) : State :=
  let s := s.rest
  let s := match s.job id with
    | some j => releaseJob s j
    | none => s
  let s := dropHoldings s id
  let s := s.setJobs (s.jobs.filter fun j => j.id != id)
  endJobs s id.part id.acc 1 terminated

/-- What a job stopped with R167 steps 1 to 3 loses at once: its operations, locks, panels, scratchpad and crews. -/
def Job.stripped (j : Job) : Job :=
  { j with
    hardStop := true, copies := [], mcmds := [], coopAsk := Option.none, segments := [], panels := [], scratch := [],
    crews := [], current := Option.none }

/-- A job is stopped under R167 steps 1 to 3; it keeps its slot until its record stands. -/
def stopJob (s : State) (id : JobId) : State :=
  let s := unbindAll s id
  { s.modJob id Job.stripped with
    locks := s.locks.filter fun l => l.job != id,
    sch := { s.sch with queries := s.sch.queries.filter fun q => q.job != id } }

/-- A killed job begins anew (R167): READY, from its entry points, with its JOBID; EXT and the Canary start again. -/
def relaunchJob (s : State) (id : JobId) : State :=
  let s := s.rest
  let s := match s.job id with
    | some j => releaseJob s j
    | none => s
  let s := dropHoldings s id
  let s := s.modJob id fun j =>
    { j with
      state := .ready, core := none, hardStop := false, softMark := none, ext := false, canary := 0,
      relaunches := j.relaunches + 1, tokens := [], lateGives := [], gregs := [], resident := [], sections := [],
      mpolicy := none, mdone := [], coopAsk := none, cdone := [], queries := 0, killWanted := false, savePark := none,
      preempt := false }
  (s.raise (schReg id.part 0x028) 3).count (schReg id.part 0x050) 48 1

/-! ### The fault queue (R170) -/

/-- SCH_FQ_SIZE: a power of two from 16 to 32,768; other values act as 0 (R171). -/
def State.faultSlots (s : State) (part : Nat) : Nat :=
  let n := s.field (schReg part 0x020) 15 0
  if [16, 32, 64, 128, 256, 512, 1024, 2048, 4096, 8192, 16384, 32768].contains n then n else 0

/-- An item parked under a record takes its TIME, by which RESUME finds it (R313). -/
def stampItem (s : State) (item : ParkedItem) (t : Word) : State :=
  match item with
  | .nothing => s
  | .frag id f no => s.modFrag id f (Frag.mapParks fun p => if p.no = no then { p with time := t } else p)
  | .copy j op =>
    s.modJob j fun x =>
      { x with copies := x.copies.map fun c =>
          if c.id = op then { c with parked := c.parked.map fun p => { p with time := t } } else c }
  | .save j => s.modJob j fun x => { x with savePark := x.savePark.map fun p => { p with time := t } }
  | .launch part acc =>
    s.modLaunch part acc fun l => { l with patch := match l.patch with
      | .held _ => .held t
      | p => p }

/-- What goes on once a record stands: the job it ends or relaunches, the completion it held up. -/
def afterPost (s : State) (r : PendingRecord) : State :=
  let s := match r.ends with
    | some id => if r.record.disp = 3 then relaunchJob s id else concludeJob s id true
    | none => s
  match r.completes with
  | some acc =>
    match s.launch r.part acc with
    | some l => leaveLaunch s l
    | none => s
  | none => s

/-- The release of the job that a record ends, and whether it is done. -/
def endRelease (s : State) (r : PendingRecord) : Bool × State :=
  match r.ends.bind fun id => s.job id with
  | some j => (jobReleased (releaseJob s j) j, releaseJob s j)
  | none => (true, s)

/-- The record of management core n (R435): it goes to its slot of the management fault area, none while BASE is zero; after
a release at .dev PEND is set. It waits until an earlier record of the slot has been disposed of (log entry 154). -/
def postMgmt (s : State) (n : Nat) (r : PendingRecord) : State :=
  let core := 544 + n
  let base := s.field (bootReg 0x058) 51 9 * 512
  let at_ := base + 128 * n
  if s.sys.mgmtPark.any (fun p => p.1 == n) || s.net.txns.any (fun t => t.strm == ⟨.mgmt n, 0⟩) then s
  else
    let s := releaseAt s core 5
    if !releasedAt s core 5 then s
    else if base ≠ 0 && s.hostHolds at_ then s.backInvalidate at_
    else
      let time := s.dtb 6
      let s := if base = 0 then s else sliceWrite s at_ (recordBytes { r.record with time := time })
      let s := { s with sch := { s.sch with records := s.sch.records.erase r } }
      let s := (stampItem s r.item time).setField (bootReg 0x058) n n 1
      match r.item with
      | .frag _ _ no =>
        if base = 0 then s
        else { s with sys := { s.sys with mgmtPark :=
          (n, ⟨r.record.disp, time, r.record.kind, false, no⟩) :: s.sys.mgmtPark } }
      | _ => s

/-- FAULT_RECORD_POST (R170, R435): the oldest record of partition a that waits is written, then PUT, with a release at .sys;
while the queue is full, or has no slot, it waits. From 4 on, a names a management core. -/
def execFaultRecordPost (s : State) : Result :=
  let part := s.arg.a
  match s.sch.records.find? fun r => r.part == part with
  | none => .next s
  | some r =>
    if 4 ≤ part then .next (postMgmt s (part - 4) r)
    else
      let base := s.field (schReg part 0x018) 51 12 * 4096
      let size := s.faultSlots part
      let get := base + 0x80
      let put := s.sliceNat base 8
      let gap := (put + 2 ^ 64 - s.sliceNat get 8) % 2 ^ 64
      let at_ := base + 0x100 + 128 * (put % size)
      if s.readHeld base then .next (s.askLine base 0 1 true)
      else if s.readHeld get then .next (s.askLine get 0 1 false)
      else if size = 0 || gap = size then .next (s.raise (schReg part 0x028) 1)
      else
        if s.hostHolds at_ then .next (s.backInvalidate at_)
        else
          let (released, s) := endRelease s r
          if !released then .next s
          else
            let time := s.dtb part
            let s := sliceWrite s at_ (recordBytes { r.record with time := time })
            let s := sliceWrite s base (leBytes 8 (put + 1))
            let s := { s with sch := { s.sch with records := s.sch.records.erase r } }
            .next (afterPost (stampItem s r.item time) r)

end Sys2Proof.Machine
end

