-- ==== Sys2Proof/Machine/Launches.lean ====
section
/-!
DEFINITION. From a launch packet to dispatchable jobs: LAUNCH (R126 to R128, R260, R261, R374), held launches (R131), the
admission checks of patches (R153, R262, R263), and cells (R158, R159, R375).
-/

namespace Sys2Proof.Machine

/-! ### Headers (R260, R261) -/

/-- ASCII "DIECADKI". -/
def dkiMagic : List Byte := [0x44#8, 0x49#8, 0x45#8, 0x43#8, 0x41#8, 0x44#8, 0x4B#8, 0x49#8]

/-- The bytes of a header are zero from an offset on. -/
def allZero (bs : List Byte) : Bool := bs.all fun b => b = 0#8

/-- Offset, size and entry of section e. -/
def sectOf (h : List Byte) (e : Nat) : Nat × Nat × Nat :=
  (recNat h (0x10 + 8 * e) 4, recNat h (0x14 + 8 * e) 4, recNat h (0x30 + 4 * e) 4)

/-- A section of an engine that the image has, or the zeros of one that it has not. -/
def sectionOk (h : List Byte) (mask e : Nat) : Bool :=
  let (off, size, entry) := sectOf h e
  if mask.testBit e then
    off % 256 == 0 && size % 4 == 0 && decide (size ≤ 65536) && decide (entry < size)
  else off == 0 && size == 0

/-- Two ranges of an image, as offset and size, overlap. -/
def rangesMeet (a b : Nat × Nat) : Bool :=
  decide (0 < a.2) && decide (0 < b.2) && decide (a.1 < b.1 + b.2) && decide (b.1 < a.1 + a.2)

/-- Some two ranges of a list overlap. -/
def anyMeet (rs : List (Nat × Nat)) : Bool :=
  match rs with
  | [] => false
  | r :: rest => rest.any (rangesMeet r) || anyMeet rest

/-- The ranges that an image names: header, sections, tables, data. -/
def imageRanges (h : List Byte) : List (Nat × Nat) :=
  [(0, 256)] ++ ((List.range 4).map fun e => ((sectOf h e).1, (sectOf h e).2.1)) ++
    [(recNat h 0x44 4, 8 * recNat h 0x40 4), (recNat h 0x4C 4, 32 * recNat h 0x48 4),
      (recNat h 0x54 4, 8 * recNat h 0x50 4), (recNat h 0x58 4, recNat h 0x5C 4)]

/-- A header passes R261. -/
def headerOk (h : List Byte) (guide : Bool) : Bool :=
  let mask := recNat h 0x0A 1
  let nvec := recNat h 0x0B 1
  h.take 8 == dkiMagic && recNat h 8 2 == 1 && mask.testBit 0 && decide (mask < 16) &&
    (if mask.testBit 1 then decide (1 ≤ nvec) && decide (nvec ≤ 16) else nvec == 0) &&
    ((List.range 4).all fun e => sectionOk h mask e) && allZero (h.drop 0x71) && decide (recNat h 0x48 4 ≤ 8) &&
    decide (recNat h 0x50 4 ≤ 256) && !anyMeet (imageRanges h) && !(guide && mask.testBit 2)

/-- The fields of a header that the part uses. -/
def parseHeader (h : List Byte) : KernelHeader :=
  let mask := recNat h 0x0A 1
  { nvec := recNat h 0x0B 1, matrix := mask.testBit 2, copy := mask.testBit 3,
    sections := (List.range 4).map fun e => sectOf h e, npatch := recNat h 0x40 4, patchOff := recNat h 0x44 4,
    ncrew := recNat h 0x50 4, crewOff := recNat h 0x54 4, dataOff := recNat h 0x58 4, paramSize := recNat h 0x60 4 }

/-- PWORD of a header. -/
def headerPword (h : List Byte) : BitVec 32 := BitVec.ofNat 32 (recNat h 0x0C 4)

/-! ### Task records (R128) -/

/-- A number of n bytes as a signed one. -/
def signedNat (v bits : Nat) : Int := if v < 2 ^ (bits - 1) then v else (v : Int) - 2 ^ bits

/-- The bounding interval of a job's region (R156). -/
def RegionEntry.interval (r : RegionEntry) (j : Nat) : Int × Int :=
  let first : Int := r.base.toNat + j * r.jobStride
  let last : Int := first + (r.rows - 1) * r.rowStride
  (min first last, max first last + r.rowBytes)

/-- The region entry in 32 bytes; none where R128 calls it invalid for so many jobs. -/
def parseRegion (bs : List Byte) (jobs : Nat) : Option RegionEntry :=
  let w := recNat bs 8 4
  let r : RegionEntry :=
    { base := BitVec.ofNat 64 (recNat bs 0 8), rows := w % 2 ^ 24, acc := BitVec.ofNat 2 (natBits w 25 24),
      rowBytes := recNat bs 0xC 4, rowStride := signedNat (recNat bs 0x10 8) 64,
      jobStride := signedNat (recNat bs 0x18 8) 64 }
  let inside (j : Nat) : Bool := decide (0 ≤ (r.interval j).1) && decide ((r.interval j).2 ≤ 2 ^ 57)
  if decide (1 ≤ r.rows) && r.acc != 0#2 && natBits w 31 26 == 0 && decide (1 ≤ r.rowBytes) &&
      decide (r.rowBytes ≤ 2 ^ 24) && (decide (r.rows ≤ 1) || decide ((r.rowBytes : Int) ≤ r.rowStride)) &&
      inside 0 && inside (jobs - 1) then some r
  else none

/-- The region entries of a task record. -/
def parseRegions (n jobs : Nat) (bs : List Byte) : Option (List RegionEntry) :=
  match n with
  | 0 => some []
  | n + 1 => (parseRegion (bs.take 32) jobs).bind fun r => (parseRegions n jobs (bs.drop 32)).map fun rs => r :: rs

/-! ### LAUNCH (R127, R374) -/

/-- The fields of a packet before its image and task are read, as a launch (R126). -/
def parsePacket (part : Nat) (p : List Byte) : Launch :=
  { part := part, acc := 0, queue := recNat p 4 1, ctx := BitVec.ofNat 12 (recNat p 6 2),
    flags := BitVec.ofNat 16 (recNat p 2 2), kimage := BitVec.ofNat 64 (recNat p 8 8),
    param := BitVec.ofNat 64 (recNat p 0x10 8), ctxArea := BitVec.ofNat 64 (recNat p 0x18 8), jobs := recNat p 0x20 4,
    pword := BitVec.ofNat 32 (recNat p 0x24 4), budget := recNat p 0x28 6, start := BitVec.ofNat 64 (recNat p 0x30 8),
    cells := (recNat p 0x38 4, recNat p 0x3C 4, recNat p 0x40 4), msix := recNat p 0x44 2,
    doneAt := BitVec.ofNat 64 (recNat p 0x50 8), tag := BitVec.ofNat 64 (recNat p 0x58 8),
    header := ⟨0, false, false, [], 0, 0, 0, 0, 0, 0⟩, regions := [], overflowed := false, released := false,
    patch := .unchecked, patches := [], cursor := 0, fresh := 0, cancelled := false, killed := [], finished := 0,
    anyTerminated := false, lastDie := none }

/-- Row 1 of R127. -/
def packetFormOk (p : List Byte) : Bool :=
  recNat p 0 2 == 1 && decide (recNat p 2 2 < 128) && recZero p 5 1 && decide (recNat p 6 2 < 4096) &&
    recZero p 0x2E 2 && recZero p 0x46 2 && recZero p 0x60 32 &&
    (decide (recNat p 0x44 2 ≤ 2047) || recNat p 0x44 2 == 0xFFFF) && recNat p 0x10 8 % 64 == 0 &&
    recNat p 0x18 8 % 65536 == 0 && recNat p 0x50 8 % 8 == 0

/-- Row 2 of R127. -/
def packetQueueOk (s : State) (part : Nat) (l : Launch) : Bool :=
  decide (l.queue ≤ 63) &&
    (!l.sup || (l.queue == s.field (schReg part 0x000) 13 8 && decide (1 ≤ s.priv))) && s.isLowest part

/-- A quiesce handshake covers a quarter (R142). -/
def State.quiescing (s : State) (q : Nat) : Bool :=
  match s.sys.quiesce with
  | some x => q < 4 && x.mask.getLsbD q
  | none => false

/-- The lowest quarter of the handshake's mask. -/
def State.quiesceLowest (s : State) : Option Nat := firstBelow 4 fun q => s.quiescing q

/-- Row 8 of R127: the queue has a free entry; in a handshake only the lowest quarter's queues accept (R142). -/
def queueOpen (s : State) (part queue : Nat) : Bool :=
  decide (s.queueLength part queue < 64) && !(s.quiescing part && s.quiesceLowest != some part)

/-- A status in sD: the packet is refused and nothing changes. -/
def launchStatus (s : State) (d : SReg) (n : Nat) : Result := .next (s.setS d (BitVec.ofNat 64 n)).advance

/-- What a read of the image or the task in the packet's context gives: its bytes, or a failure which gives a status. -/
def launchRead (s : State) (l : Launch) (va : Word) (n : Nat) (bad : State → Result) (k : State → List Byte → Result) :
    Result :=
  match readVia s { l.via with strm := s.me.id, op := s.fragOp } va n with
  | (.ok bs, s) => k s bs
  | (.fault _ _ _, s) => bad s
  | (.migrating page, s) => .next (s.waitPage page)
  | (.held _, s) => .next s.stall

/-- A partition's launch packet goes from the core that launches to the dispatcher (class 11, two beats, R81). -/
def launchParcel (s : State) (part : Nat) : Parcel :=
  ⟨11, 0, 2, s.slack, 0, 0, coreStop s.core, s.controlStop part part, corePort s.core, [s.me.id]⟩

/-- Rows 5 to 8 of R127 once the regions are known, then acceptance (R147, R155, R157, R374). -/
def acceptLaunch (s : State) (d : SReg) (l : Launch) : Result :=
  let extentOk (n : Nat) : Bool := decide (1 ≤ n) && decide (n ≤ 0xFFFFFFFE)
  if l.hasCells && !(extentOk l.cells.1 && extentOk l.cells.2.1 && extentOk l.cells.2.2) then launchStatus s d 7
  else if !queueOpen s l.part l.queue then launchStatus s d 8
  else
    releaseThen s true 5 fun s =>
      let sched := tableGet s.sch.scheds l.part ⟨0, [], [], []⟩
      let used := s.field (schReg l.part 0x030) 12 0
      let beyond := decide (4096 < used + l.regions.length)
      let now := used + (if beyond then 0 else l.regions.length)
      let s := if beyond then s.raise (schReg l.part 0x028) 0 else s
      let s := (s.setField (schReg l.part 0x030) 12 0 now).setField (schReg l.part 0x030) 28 16
        (max now (s.field (schReg l.part 0x030) 28 16))
      let l := { l with
        acc := sched.nextAcc, overflowed := beyond,
        released := !l.timed || decide (l.start.toNat ≤ (s.dtb l.part).toNat) }
      let s := { s with
        sch := { s.sch with
          launches := s.sch.launches ++ [l],
          scheds := tableSet s.sch.scheds l.part { sched with nextAcc := sched.nextAcc + 1 } ⟨0, [], [], []⟩ },
        sys := { s.sys with launched := true } }
      let s := (if s.isMgmt then s else s.markExt).parcel (launchParcel s l.part)
      .next (s.setS d 0#64).advance

/-- Row 6 of R127. -/
def checkTask (s : State) (d : SReg) (task : Word) (l : Launch) : Result :=
  if task = 0#64 then acceptLaunch s d l
  else if task.toNat % 64 ≠ 0 then launchStatus s d 6
  else
    launchRead s l task 16 (fun s => launchStatus s d 6) fun s h =>
      let n := recNat h 0 1
      if 8 < n || !allZero (h.drop 1) then launchStatus s d 6
      else
        launchRead s l (task + 16#64) (32 * n) (fun s => launchStatus s d 6) fun s bs =>
          match parseRegions n l.jobs bs with
          | none => launchStatus s d 6
          | some rs => acceptLaunch s d { l with regions := rs }

/-- Rows 1 to 5 of R127. -/
def checkPacket (s : State) (d : SReg) (part : Nat) (p : List Byte) : Result :=
  let l := parsePacket part p
  if !packetFormOk p then launchStatus s d 1
  else if !packetQueueOk s part l then launchStatus s d 2
  else if l.jobs = 0 || 2 ^ 24 < l.jobs then launchStatus s d 3
  else if l.kimage.toNat % 256 ≠ 0 then launchStatus s d 4
  else
    launchRead s l l.kimage 256 (fun s => launchStatus s d 4) fun s h =>
      if !headerOk h l.guide then launchStatus s d 4
      else
        let l := { l with header := parseHeader h, pword := if l.pword = 0#32 then headerPword h else l.pword }
        if poolSize l.guide < granules l.pword l.header.nvec then launchStatus s d 5
        else checkTask s d (BitVec.ofNat 64 (recNat p 0x48 8)) l

/-- LAUNCH (R374): sD takes the status of R127. -/
def execLaunch (d a b : SReg) (s : State) : Result :=
  if !s.isMgmt && b ≠ 0#6 then trapIllegal s
  else
    let va := s.sreg a
    if va.toNat % 128 ≠ 0 then trap s (accessFault ⟨.global, .read, 128, 128, false⟩ causeAlignment va)
    else
      withRead s 5 va 128 fun s p => checkPacket s d (if s.isMgmt then bitsOf (s.sreg b) 1 0 else s.part) p

/-- LAUNCH_START_TIME (R131): the copy on the scheduler's die reaches START of launch b of partition a. -/
def execLaunchStartTime (s : State) : Result :=
  .next (s.modLaunch s.arg.a s.arg.b fun l =>
    { l with released := l.released || decide (l.start.toNat ≤ (s.dtb l.part).toNat) })

/-! ### Patches (R153, R262, R263) -/

/-- A patch entry's fields. -/
structure PatchEntry where
  signed : Bool
  trunc  : Bool
  shift  : Nat
  kind   : Nat
  poff   : Nat
  engine : Nat
  word   : Nat
  deriving DecidableEq, Repr

def parsePatch (v : Nat) : PatchEntry :=
  { signed := v.testBit 63, trunc := v.testBit 62, shift := natBits v 61 56, kind := natBits v 55 48,
    poff := natBits v 47 32, engine := natBits v 31 30, word := natBits v 29 0 }

def parsePatches (n : Nat) (bs : List Byte) : List PatchEntry :=
  match n with
  | 0 => []
  | n + 1 => parsePatch (leNat (bs.take 8)) :: parsePatches n (bs.drop 8)

/-- A word of an engine's section carries the field of a kind (R248 to R250). -/
def carriesField (engine kind word : Nat) : Bool :=
  let half := natBits word 31 31
  let major := natBits word 30 25
  match kind with
  | 0 => half == 0 && decide (4 ≤ major) && decide (major ≤ 0xD)
  | 1 => half == 0 && major == 0xE
  | 2 => half == 0 && major == 0x14 && decide (natBits word 24 21 ≤ 5)
  | 3 => half == 0 && major == 0x17
  | 4 => engine == 2 && half == 1 && decide (5 ≤ major) && decide (major ≤ 7)
  | _ => false

/-- Place and width of a kind's field. -/
def patchField (kind : Nat) : Nat × Nat :=
  match kind with
  | 0 => (0, 13)
  | 1 => (0, 19)
  | 2 => (0, 15)
  | 3 => (12, 11)
  | _ => (0, 10)

/-- The value that a patch gives its field, before the fit (R263). -/
def PatchEntry.value (p : PatchEntry) (v : Nat) : Int :=
  if p.signed then signedNat v 64 / 2 ^ p.shift else ((v / 2 ^ p.shift : Nat) : Int)

/-- The value fits (R263). -/
def PatchEntry.fits (p : PatchEntry) (v : Int) : Bool :=
  let within (lo hi : Int) : Bool := decide (lo ≤ v) && decide (v ≤ hi)
  p.trunc ||
    match p.kind with
    | 0 => if p.signed then within (-4096) 4095 else within 0 8191
    | 1 => if p.signed then within (-262144) 262143 else within 0 524287
    | 2 => within (-16384) 16383
    | 3 => within 1 2047
    | _ => within 1 1023

/-- The field value kept with the launch. -/
def PatchEntry.toPatch (p : PatchEntry) (v : Int) : Patch :=
  ⟨p.engine, p.word, p.kind, (v % 2 ^ (patchField p.kind).2).toNat⟩

/-- A word with a patch laid over its field. -/
def patchWord (p : Patch) (w : Nat) : Nat :=
  let (lo, width) := patchField p.kind
  w - natBits w (lo + width - 1) lo * 2 ^ lo + p.value * 2 ^ lo

/-- The jobs of a launch that stand in the pool become TERMINATED (R124, R150), and with the flag those too that were
distributed and have not been admitted (R153). One that a record already ends is left to it; one that was distributed at an earlier call may since stand in the pool again. -/
def cancelLaunch (s : State) (part acc : Nat) (distributed : Bool) : State :=
  match s.launch part acc with
  | none => s
  | some l =>
    let left := if l.cancelled then 0
      else (l.jobs - l.fresh) - (l.killed.filter fun k => decide (l.fresh ≤ k)).length
    let waiting := (s.allJobs.filter fun j =>
      j.id.part == part && j.id.acc == acc && !j.hardStop &&
        (j.state == .ready || (distributed && j.state == .distributed && (s.streamsOf j.id).isEmpty))).map fun j => j.id
    let s := s.modLaunch part acc fun l => { l with cancelled := true }
    let s := waiting.foldl (fun s id => concludeJob s id true) s
    if left = 0 then s else endJobs s part acc left true

/-- The launch ends with PATCH_RANGE or DATA_LOST: one record with DISP 4 (R153, R261). -/
def failLaunch (s : State) (l : Launch) (cause kind akind : Nat) (addr : Word) : State :=
  let s := s.modLaunch l.part l.acc fun l => { l with patch := .failed }
  cancelLaunch (postLaunch s l (launchRecord s l cause 4 kind akind addr) .nothing none) l.part l.acc true

/-- A record for the launch is posted with DISP 5 and the launch is held until it is resumed (R153). -/
def holdLaunch (s : State) (l : Launch) (cause : Nat) (addr : Word) : State :=
  let s := s.modLaunch l.part l.acc fun l => { l with patch := .held s.time.ns }
  postLaunch s l (launchRecord s l cause 5 7 0 addr) (.launch l.part l.acc) none

/-- A read that the fetch unit makes for a launch (R153, R261): a failure holds or ends the launch. -/
def fetchRead (s : State) (l : Launch) (va : Word) (n : Nat) (k : State → List Byte → State) : State :=
  match readVia s l.via va n with
  | (.ok bs, s) => k s bs
  | (.fault c a _, s) => if c = causeDataLost then failLaunch s l c 7 0 a else holdLaunch s l c a
  | (_, s) => s

/-- PATCH_RANGE: KIND and ADDR are given for no such record; ADDR is a free value. -/
def patchRange (s : State) (l : Launch) : State :=
  failLaunch { s with draw := s.draw + 1 } l causePatchRange 7 3 (BitVec.ofNat 64 (Config.freeBits s.draw))

/-- First pass (R153): structure of every entry, with the word that it names; then what follows. -/
def patchStructure (s : State) (l : Launch) (ps : List PatchEntry) (k : State → State) : State :=
  match ps with
  | [] => k s
  | p :: rest =>
    match l.header.sections.getD p.engine (0, 0, 0) with
    | (off, size, _) =>
      if 4 < p.kind || size = 0 || size ≤ 4 * p.word || l.header.paramSize < p.poff + 8 then patchRange s l
      else
        fetchRead s l (l.kimage + BitVec.ofNat 64 (off + 4 * p.word)) 4 fun s bs =>
          if carriesField p.engine p.kind (leNat bs) then patchStructure s l rest k else patchRange s l

/-- Second pass (R153): the values, read and checked; then the launch has passed. -/
def patchValues (s : State) (l : Launch) (ps : List PatchEntry) (done : List Patch) : State :=
  match ps with
  | [] => s.modLaunch l.part l.acc fun l => { l with patch := .passed, patches := done }
  | p :: rest =>
    fetchRead s l (l.param + BitVec.ofNat 64 p.poff) 8 fun s bs =>
      let v := p.value (leNat bs)
      if p.fits v then patchValues s l rest (done ++ [p.toPatch v]) else patchRange s l

/-- LAUNCH_PATCH_CHECK (R153): both passes for launch b of partition a, before any job of it is admitted. -/
def execLaunchPatchCheck (s : State) : Result :=
  match s.launch s.arg.a s.arg.b with
  | none => .next s
  | some l =>
    if l.patch ≠ .unchecked then .next s
    else
      let t := fetchRead s l (l.kimage + BitVec.ofNat 64 l.header.patchOff) (8 * l.header.npatch) fun s bs =>
        let ps := parsePatches l.header.npatch bs
        patchStructure s l ps fun s => patchValues s l ps []
      let open_ := (t.launch l.part l.acc).any fun x => x.patch == .unchecked
      .next (if open_ then t else t.answered l.via.strm l.via.op)

/-! ### Cells (R158, R159, R375) -/

/-- Cells of a launch. -/
def Launch.cellCount (l : Launch) : Nat :=
  if l.hasCells then l.cells.1 * l.cells.2.1 * l.cells.2.2 else 0

/-- The answer record for a launch's next query: a cell in row-major order, or end-of-work (R158, R159). -/
def cellAnswer (l : Launch) : List Byte :=
  if l.cursor < l.cellCount then
    leBytes 4 (l.cursor % l.cells.1) ++ leBytes 4 (l.cursor / l.cells.1 % l.cells.2.1) ++
      leBytes 4 (l.cursor / l.cells.1 / l.cells.2.1) ++ leBytes 4 l.cursor
  else leBytes 4 0xFFFFFFFF ++ leBytes 4 0 ++ leBytes 4 0 ++ leBytes 4 l.cursor

/-- A query answered (R159): the launch's next cell is handed out, and its record goes to the job's core. -/
def answerQuery (s : State) (q : CellQuery) : State :=
  match s.launch q.job.part q.job.acc, s.job q.job with
  | some l, some j =>
    let s := if l.cursor < l.cellCount then
        s.modLaunch l.part l.acc fun l => { l with cursor := l.cursor + 1 }
      else s
    s.sendControl (s.controlStop q.job.part q.job.part) (coreStop (j.core.getD 0)) .chuteQuery
      { job := q.job, a := q.offset, b := q.tok.toNat, c := 2, bytes := cellAnswer l }
  | _, _ => s

/-- An answer reaches the job's core (R159): the record is written, then the token is given. -/
def receiveAnswer (s : State) (id : JobId) (offset : Nat) (tok : BitVec 3) (bs : List Byte) : State :=
  (s.poolWrite id offset bs).modJob id fun j => { j with queries := j.queries - 1, ext := true }.give tok

/-- A job runs on: the queries of one that has been stopped are abandoned with its operations (R167). -/
def State.runsOn (s : State) (id : JobId) : Bool :=
  match s.job id with
  | some j => !j.hardStop
  | none => false

/-- The oldest of some queries. -/
def oldestQuery (qs : List CellQuery) : Option CellQuery := firstBy (fun a b => decide (a.order ≤ b.order)) qs

/-- CHUTE_QUERY (R158): the oldest query of partition a is answered; with c = 1 a query, with c = 2 an answer, of arg.job comes to
its end of the way. -/
def execChuteQuery (s : State) : Result :=
  match s.arg.c with
  | 0 =>
    match oldestQuery (s.sch.queries.filter fun q => q.job.part == s.arg.a && s.runsOn q.job) with
    | none => .next s
    | some q => .next (answerQuery { s with sch := { s.sch with queries := s.sch.queries.erase q } } q)
  | 1 =>
    let q : CellQuery := ⟨s.arg.job, s.arg.a, BitVec.ofNat 3 s.arg.b, s.ticket⟩
    .next { s.nextTicket with sch := { s.sch with queries := s.sch.queries ++ [q] } }
  | _ =>
    .next (if s.runsOn s.arg.job then receiveAnswer s s.arg.job s.arg.a (BitVec.ofNat 3 s.arg.b) s.arg.bytes else s)

/-- WQRY (R375): a query goes to the Chute and the stream goes on. -/
def execWqry (a : SReg) (k : BitVec 3) (s : State) : Result :=
  match checkAccess s ⟨.scratch, .write, 16, 16, false⟩ [(0, s.sreg a)] with
  | .error r => r
  | .ok (s, _) =>
    if 16 ≤ s.myJob.queries then .next s.stall
    else
      .next ((s.setJob fun j => { j with queries := j.queries + 1 }).sendControl (coreStop s.core)
        (s.controlStop s.part s.part) .chuteQuery
        { job := s.myJob.id, a := (s.sreg a).toNat, b := k.toNat, c := 1 }).advance

end Sys2Proof.Machine
end

