-- ==== Sys2Proof/Machine/Blocks.lean ====
section
/-!
DEFINITION. Matrix operand formats (R377), the exact value of a block product (R280, R282) and its sum into a panel
element (R283, R284).
-/

namespace Sys2Proof.Machine

/-- The families of R280. -/
inductive Family where
  | integer | mx | ieee
  deriving DecidableEq, Repr

/-- Family of an FMT code; none where it is reserved (R377). -/
def fmtFamily (f : Nat) : Option Family :=
  if f ≤ 2 then some .ieee else if f ≤ 7 then some .mx else if f ≤ 13 then some .integer else none

/-- Width in bits of an element in memory (R377). -/
def fmtWidth (f : Nat) (pack6 : Bool) : Nat :=
  match f with
  | 0 => 32
  | 1 => 16
  | 2 => 16
  | 5 => if pack6 then 6 else 8
  | 6 => if pack6 then 6 else 8
  | 7 => 4
  | 11 => if pack6 then 6 else 8
  | 12 => 4
  | 13 => 4
  | _ => 8

/-- The format keeps a scale byte per block. -/
def hasScale (f : Nat) : Bool := (decide (3 ≤ f) && decide (f ≤ 7)) || f == 9

/-- The format keeps a block record per block. -/
def hasRecord (f : Nat) : Bool := decide (10 ≤ f) && decide (f ≤ 13)

/-- Significant bits of an integer-family code. -/
def codeBits (f : Nat) : Nat := if f ≤ 10 then 8 else if f = 11 then 6 else 4

/-- An element is AQ4X's escape (R279). -/
def escapeCode (f q : Nat) : Bool := f == 13 && q % 16 == 8

/-- The scale of a block makes every element NaN (R278, R279). -/
def deadScale (f : Nat) (b : Block) : Bool := (hasScale f || hasRecord f) && b.rc % 256 == 255

/-- Exponent of a block's scale, with MXINT8's 2^-6 (R278, R279, R282). -/
def scaleExp (f : Nat) (b : Block) : Int :=
  if f = 9 then (b.rc % 256 : Int) - 133
  else if hasScale f || hasRecord f then (b.rc % 256 : Int) - 127 else 0

/-- Zero point of a block. -/
def zeroPoint (f : Nat) (b : Block) : Int := if hasRecord f then recordZ b.rc else 0

/-- The integer q - Z of a code that is no escape. -/
def codeInt (f : Nat) (b : Block) (q : Nat) : Int :=
  toInt (codeBits f) true (q % 2 ^ codeBits f) - zeroPoint f b

/-- How many escapes stand before element i of a block. -/
def escapesBefore (f : Nat) (b : Block) (i : Nat) : Nat :=
  ((b.elems.take i).filter fun x => match x with
    | some q => escapeCode f q
    | none => false).length

/-- The value of element i of an integer-family block (R278, R279). -/
def intValue (f : Nat) (b : Block) (i q : Nat) : Num :=
  if escapeCode f q then fp32.decode (b.side.getD (escapesBefore f b i) 0)
  else numOfInt false (codeInt f b q) (scaleExp f b)

/-- The elements present in both operands, with their index. -/
def presentPairs (a b : Block) : List (Nat × Nat × Nat) :=
  ((a.elems.zip b.elems).zipIdx).filterMap fun x =>
    match x.1 with
    | (some p, some q) => some (x.2, p, q)
    | _ => none

/-- Exact block value of two integer-family blocks (R282): the products of the codes without escapes are summed as
integers, which is R282's I, and the escaped terms are added. -/
def intBlock (fa fb : Nat) (a b : Block) : Num :=
  let ps := presentPairs a b
  let plain := ps.filter fun x => !escapeCode fa x.2.1 && !escapeCode fb x.2.2
  let i := plain.foldl (fun (n : Int) x => n + codeInt fa a x.2.1 * codeInt fb b x.2.2) 0
  (ps.filter fun x => escapeCode fa x.2.1 || escapeCode fb x.2.2).foldl
    (fun n x => Num.add 0 n (Num.mul (intValue fa a x.1 x.2.1) (intValue fb b x.1 x.2.2)))
    (numOfInt false i (scaleExp fa a + scaleExp fb b))

/-- Exact block value of two floating-point blocks (R282). -/
def floatBlock (fa fb : Nat) (a b : Block) : Num :=
  let v (f q : Nat) : Num := (floatFormat f).decode ((floatFormat f).readBits q)
  ((presentPairs a b).foldl (fun n x => Num.add 0 n (Num.mul (v fa x.2.1) (v fb x.2.2))) (.fin false 0 0)).scale
    (scaleExp fa a + scaleExp fb b)

/-- Exact value of a block product (R282); a block without a present element gives +0 (R378). -/
def blockProduct (fa fb : Nat) (a b : Option Block) : Num :=
  match a, b with
  | some a, some b =>
    if (presentPairs a b).isEmpty then .fin false 0 0
    else if deadScale fa a || deadScale fb b then .nan
    else if fa ≤ 7 then floatBlock fa fb a b else intBlock fa fb a b
  | _, _ => .fin false 0 0

/-- A panel element after one block (R283): an exact zero sum is +0. -/
def panelAdd (acc : BitVec 32) (blk : Num) : BitVec 32 :=
  match Num.add 0 (fp32.decode acc.toNat) blk with
  | .fin neg m e => if m = 0 then 0#32 else BitVec.ofNat 32 (fp32.ofNum nearestEven (.fin neg m e))
  | x => BitVec.ofNat 32 (fp32.ofNum nearestEven x)

/-- Pairwise sums of partials, the lower one as the left operand; an unpaired one passes up (R284). -/
def pairSums (xs : List (BitVec 32)) : List (BitVec 32) :=
  match xs with
  | x :: y :: rest => BitVec.ofNat 32 (fadd32 x.toNat y.toNat) :: pairSums rest
  | xs => xs

/-- The pairwise tree of R284. -/
def treeSum (fuel : Nat) (xs : List (BitVec 32)) : BitVec 32 :=
  match fuel with
  | 0 => xs.headD 0#32
  | fuel + 1 => if xs.length ≤ 1 then xs.headD 0#32 else treeSum fuel (pairSums xs)

/-- The partials of a tile group, as (die, value) in ascending part, combined (R284): a tree within each die, then a left
fold of the dies' results in ascending die number. -/
def combine (xs : List (Nat × BitVec 32)) : BitVec 32 :=
  let dies := sortBy (fun (a b : Nat) => decide (a ≤ b)) (xs.map fun x => x.1).eraseDups
  let sums := dies.map fun d => treeSum 8 ((xs.filter fun x => x.1 == d).map fun x => x.2)
  match sums with
  | [] => 0#32
  | x :: rest => rest.foldl (fun a b => BitVec.ofNat 32 (fadd32 a.toNat b.toNat)) x

end Sys2Proof.Machine
end

