-- ==== Sys2Proof/Machine/Engines.lean ====
section
/-!
DEFINITION. What the matrix and the copy engine share: stream registers (R376, R401), the spaces that their origins name
(R378), range locks (R209, R382, R404), and the order of an operation after its stream's accesses (R233).
-/

namespace Sys2Proof.Machine

/-! ### Stream registers (R376, R378) -/

/-- CTL.SPACE (R376). -/
def StreamReg.space (g : StreamReg) : Nat := (g.ctl.extractLsb' 0 2).toNat

/-- CTL.SCOPE. -/
def StreamReg.scope (g : StreamReg) : Nat := (g.ctl.extractLsb' 4 3).toNat

/-- CTL.LAYOUT: outer-contiguous. -/
def StreamReg.outer (g : StreamReg) : Bool := g.ctl.getLsbD 2

/-- CTL.PACK6. -/
def StreamReg.pack6 (g : StreamReg) : Bool := g.ctl.getLsbD 3

/-- The space of an origin: for SPACE 2 its upper half names the rank (R376, R378). -/
def StreamReg.spaceOf (g : StreamReg) (origin : Word) : Space :=
  match g.space with
  | 0 => .global
  | 1 => .scratch
  | _ => .peer (bitsOf origin 63 32)

/-- Where an origin lies in its space. -/
def StreamReg.start (g : StreamReg) (origin : Word) : Nat :=
  if g.space = 2 then bitsOf origin 31 0 else origin.toNat

/-! ### Reaching a space -/

/-- The job that holds a rank of the crew that an operation captured. -/
def State.memberOf (s : State) (crew : Option Nat) (rank : Nat) : Option Job :=
  crew.bind fun c => s.member c rank

/-- The job whose scratchpad a space names. -/
def State.spaceJob (s : State) (crew : Option Nat) (x : Space) : Option Job :=
  match x with
  | .global => none
  | .scratch => some s.myJob
  | .peer r => s.memberOf crew r

/-- Bytes of a pool within its grant; one whose job is away is tried again (R164). -/
def poolReach {α : Type} (s : State) (j : Option Job) (off n : Nat) (k : Job → α × State) : Reach α × State :=
  match j with
  | none => (.fault causePermission (BitVec.ofNat 64 off) 0, s)
  | some j =>
    if j.grant < off + n then (.fault causePermission (BitVec.ofNat 64 off) 0, s)
    else if j.id != s.myJob.id && j.away then (.held off, s)
    else
      let r := k j
      (.ok r.1, r.2)

/-- For whom an engine reaches a space: the crew that its operation captured, and the operation's number. -/
structure Who where
  crew : Option Nat
  op   : Nat
  deriving DecidableEq, Repr

/-- A read by an engine of the issuing job (R396, R403): relaxed, at a scope. -/
def readSpace (s : State) (who : Who) (x : Space) (a n scope : Nat) : Reach (List Byte) × State :=
  match x with
  | .global => readVia s (s.myJob.via scope s.me.id.strm who.op) (BitVec.ofNat 64 a) n
  | x => poolReach s (s.spaceJob who.crew x) (a % 2 ^ 64) n fun j => (s.poolRead j.id (a % 2 ^ 64) n, s)

/-- A write by an engine of the issuing job. -/
def writeSpace (s : State) (who : Who) (x : Space) (a scope : Nat) (bs : List Byte) : Reach Unit × State :=
  match x with
  | .global => writeVia s (s.myJob.via scope s.me.id.strm who.op) (BitVec.ofNat 64 a) bs
  | x => poolReach s (s.spaceJob who.crew x) (a % 2 ^ 64) bs.length fun j => ((), s.poolWrite j.id (a % 2 ^ 64) bs)

/-- ADDR of a record for an address in a space (R213). -/
def spaceAddr (x : Space) (a : Word) : Word := recordAddr x a

/-! ### Range locks (R209) -/

/-- A range that an operation registers. -/
structure LockAsk where
  space : Space
  lo    : Nat
  hi    : Nat
  write : Bool
  deriving DecidableEq, Repr

/-- All the entries of an operation, or none where the core's table lacks room. -/
def registerLocks (s : State) (op : Nat) (asks : List LockAsk) : Option State :=
  let asks := asks.filter fun a => decide (a.lo < a.hi)
  if 64 < (s.locks.filter fun l => l.core == some s.core).length + asks.length then none
  else some { s with locks := s.locks ++ asks.map fun a => ⟨some s.core, s.myJob.id, op, a.space, a.lo, a.hi, a.write⟩ }

/-- The entries of an operation are free again. -/
def State.freeLocks (s : State) (j : JobId) (op : Nat) : State :=
  { s with locks := s.locks.filter fun l => !(l.job == j && l.op == op) }

/-! ### Engines at work -/

/-- An operation is ordered after every access of its stream that precedes it (R233): they are answered, and the core's
buffer has drained; until then the instruction is not ready. -/
def engineReady (s : State) (k : State → Result) : Result :=
  if !s.myTxns.isEmpty then .next s.stall
  else
    let s := drainCore s s.core
    if s.mm.wcb.any fun b => b.core == s.core then .next s.stall else k s

/-- Stream numbers of the matrix and the copy stream (R195). -/
def matrixStrm : Nat := 17
def copyStrm : Nat := 18

/-- An engine of a resident job works: its stream becomes the current one. -/
def onEngine (s : State) (j : JobId) (strm : Nat) (k : State → State) : State :=
  match s.job j with
  | some x => if x.state = .resident && !x.hardStop then k (s.select ⟨.job j, strm⟩ 0) else s
  | none => s

/-- GA.COOP (R376). -/
def coopRows (g : StreamReg) : Nat := (g.coop.extractLsb' 0 2).toNat + 1
def coopCols (g : StreamReg) : Nat := (g.coop.extractLsb' 2 3).toNat + 1
def coopParts (g : StreamReg) : Nat := (g.coop.extractLsb' 5 3).toNat + 1

end Sys2Proof.Machine
end

