-- ==== Sys2Proof/Machine/Matrix.lean ====
section
/-!
DEFINITION. The matrix stream's instructions (R379 to R398): stream registers, commands and their checks, segments and
waits. What commands do once they run is in Machine/MatrixRun.lean.
-/

namespace Sys2Proof.Machine

/-! ### Stream registers (R380) -/

/-- GSET's fields in the order of R380; the indices 14 and 15 are reserved. -/
def StreamReg.setField (g : StreamReg) (n : Nat) (v : Word) : Option StreamReg :=
  match n with
  | 0 => some { g with base := v }
  | 1 => some { g with sclBase := v }
  | 2 => some { g with sideBase := v }
  | 3 => some { g with rstride := v.truncate 32 }
  | 4 => some { g with sstride := v.truncate 32 }
  | 5 => some { g with sideStride := v.truncate 32 }
  | 6 => some { g with exti := v.truncate 32 }
  | 7 => some { g with extk := v.truncate 32 }
  | 8 => some { g with curi := v.truncate 32 }
  | 9 => some { g with curk := v.truncate 32 }
  | 10 => some { g with kcount := v.truncate 32 }
  | 11 => some { g with fmt := v.truncate 8 }
  | 12 => some { g with ctl := v.truncate 8 }
  | 13 => some { g with coop := v.truncate 8 }
  | _ => none

/-- A stream register of the issuing job. -/
def State.greg (s : State) (g : BitVec 4) : StreamReg := s.myJob.greg g.toNat

def State.setGreg (s : State) (g : BitVec 4) (v : StreamReg) : State := s.setJob fun j => j.setGreg g.toNat v

/-- GSET (R380). -/
def execGset (g : BitVec 4) (a : SReg) (f : BitVec 4) (s : State) : Result :=
  match (s.greg g).setField f.toNat (s.sreg a) with
  | some v => .next (s.setGreg g v).advance
  | none => trapIllegal s

/-- GADV (R380): both cursors advance modulo 2^32. -/
def execGadv (g : BitVec 4) (a b : SReg) (s : State) : Result :=
  let v := s.greg g
  .next (s.setGreg g
    { v with curi := v.curi + (s.sreg a).truncate 32, curk := v.curk + (s.sreg b).truncate 32 }).advance

/-- The request of GLD and GST: 64 bytes, 64-byte aligned, in the global space or the local scratchpad (R380). -/
def imageReq (x : BitVec 1) (k : AccessKind) : Req := ⟨if x = 0#1 then .global else .scratch, k, 64, 64, false⟩

/-- Scope of GLD and GST: .core in the local scratchpad. -/
def imageScope (x : BitVec 1) (c : BitVec 3) : Nat := if x = 0#1 then c.toNat else 1

/-- GLD (R380). -/
def execGld (g : BitVec 4) (a b : SReg) (c : BitVec 3) (x : BitVec 1) (s : State) : Result :=
  let va := s.sreg a + s.sreg b
  let q := imageReq x .read
  armed s fun s =>
    if s.mustWait [(0, va)] then .next s.stall
    else
      match checkAccess s q [(0, va)] with
      | .error r => r
      | .ok (s, ps) =>
        match ps with
        | [(_, p)] =>
          if spotHeld s (imageScope x c) true p 64 then .next (holdAll s true ps).stall
          else if spotPoisoned s (imageScope x c) p 64 then trap s (accessFault q causeDataLost va)
          else
            let gv := s.armGive
            let s := s.takeArm
            match p with
            | .mem ⟨4, pa, cmp, m⟩ =>
              let t := s.txn va (.image g.toNat) gv none
              .next (((s.pend (.g g.toNat)).sendRemote t ⟨4, pa, cmp, m⟩ fun tag => readMessage s ⟨4, pa, cmp, m⟩ 64 tag).advance)
            | _ =>
              let r := loadSpot s (imageScope x c) p 64
              .next (((r.2.setGreg g (StreamReg.ofBytes r.1)).giveFor s.myJob.id gv).advance)
        | _ => .next s

/-- GST (R380). -/
def execGst (g : BitVec 4) (a b : SReg) (c : BitVec 3) (x : BitVec 1) (s : State) : Result :=
  let va := s.sreg a + s.sreg b
  let q := imageReq x .write
  armed s fun s =>
    if s.mustWait [(0, va)] then .next s.stall
    else
      match checkAccess s q [(0, va)] with
      | .error r => r
      | .ok (s, ps) =>
        match ps with
        | [(_, p)] =>
          if spotHeld s (imageScope x c) false p 64 then .next (holdAll s false ps).stall
          else
            let gv := s.armGive
            let s := s.takeArm
            let bs := (s.greg g).bytes
            match p with
            | .mem ⟨4, pa, cmp, m⟩ =>
              let t := s.txn va (.store s.ticket) gv none
              .next ((s.sendRemote t ⟨4, pa, cmp, m⟩ fun tag => writeMessage s ⟨4, pa, cmp, m⟩ bs tag).advance)
            | _ => .next ((storeSpot s (imageScope x c) p bs).performed s.ticket gv).advance
        | _ => .next s

/-! ### Segments (R383, R384) -/

/-- The segment at admission. -/
def Segment.first : Segment := ⟨0, 0, none, false, 1⟩

/-- The segments that have not completed, oldest first; the last one is current. -/
def Job.segs (j : Job) : List Segment := if j.segments.isEmpty then [Segment.first] else j.segments

/-- The current segment. -/
def Job.segment (j : Job) : Segment := j.segs.getLastD Segment.first

/-- A segment has a command that has not completed. -/
def Job.segmentBusy (j : Job) (g : Segment) : Bool := j.mcmds.any fun c => c.segment == g.no

/-- A segment completes (R384): a release at its scope, its give, and its scope is kept for the MWAIT that awaits it. -/
def completeSegment (s : State) (g : Segment) : State :=
  s.setJob fun j =>
    let j := match g.give with
      | some k => j.give k
      | none => j
    { j with mdone := tableSet j.mdone g.batch (max (tableGet j.mdone g.batch 0) g.scope) 0 }

/-- Closed segments complete in order, as far as they can (R384): the matrix stream's EXIT closes the last one. -/
def settleFrom (s : State) (ended : Bool) (gs : List Segment) : State :=
  match gs with
  | [] => s.setJob fun j => { j with segments := [] }
  | g :: rest =>
    if (g.closed || ended) && !s.myJob.segmentBusy g &&
        !(g.scope == 7 && s.net.txns.any fun t => t.strm == ⟨.job s.myJob.id, matrixStrm⟩) then
      let s := releaseAt s s.core g.scope
      if releasedAt s s.core g.scope then settleFrom (completeSegment s g) ended rest
      else s.setJob fun j => { j with segments := g :: rest }
    else s.setJob fun j => { j with segments := g :: rest }

/-- The issuing job's segments settle. -/
def settleSegments (s : State) : State :=
  let ended := match s.stream ⟨.job s.myJob.id, matrixStrm⟩ with
    | some st => st.ended
    | none => true
  settleFrom s ended s.myJob.segs

/-- MBATCH (R383): the current segment is closed, and the next one is opened. -/
def execMbatch (k : BitVec 3) (g : BitVec 1) (b : BitVec 3) (s : State) : Result :=
  let gs := s.myJob.segs
  let last := s.myJob.segment
  let next : Segment := ⟨last.no + 1, b.toNat, if g = 1#1 then some k else none, false, 1⟩
  let s := s.setJob fun j => { j with segments := gs.dropLast ++ [{ last with closed := true }, next] }
  .next (settleSegments s).advance

/-- MWAIT b still has something to wait for (R385). -/
def Job.batchBusy (j : Job) (b : Nat) : Bool :=
  j.segs.any (fun g => g.closed && g.batch == b) ||
    (j.segment.batch == b && (j.segmentBusy j.segment || decide (1 < j.segs.length)))

/-- Scopes of the segments that have completed and that MWAIT of a batch awaits: those of the batch; where the open segment has the
batch, all those opened before it (R385). -/
def Job.awaited (j : Job) (b : Nat) : List (Nat × Nat) :=
  if j.segment.batch = b then j.mdone else j.mdone.filter fun e => e.1 == b

/-- MWAIT (R385): the return acquires at the scope of each segment awaited, the open one among them. -/
def execMwait (b : BitVec 3) (s : State) : Result :=
  if s.myJob.batchBusy b.toNat then .next s.stall
  else
    let done := s.myJob.awaited b.toNat
    let open_ := if s.myJob.segment.batch = b.toNat then s.myJob.segment.scope else 0
    let scope := (done.map fun e => e.2).foldl max open_
    .next ((acquireAt s s.core scope).setJob fun j => { j with mdone := j.mdone.filter fun e => !done.contains e }).advance

/-- MWAIT.ALL (R385). -/
def execMwaitAll (s : State) : Result :=
  if !s.myJob.mcmds.isEmpty then .next s.stall
  else
    let scope := (s.myJob.segs.map fun g => g.scope).foldl max ((s.myJob.mdone.map fun e => e.2).foldl max 0)
    .next ((acquireAt s s.core scope).setJob fun j => { j with mdone := [] }).advance

/-! ### Migration policy (R397) -/

/-- MMIG.OFF. -/
def execMmigOff (s : State) : Result := .next (s.setJob fun j => { j with mpolicy := none }).advance

/-- MMIG.WAIT: after sA[31:0] cycles in the queue. -/
def execMmigWait (a : SReg) (s : State) : Result :=
  .next (s.setJob fun j => { j with mpolicy := some (bitsOf (s.sreg a) 31 0) }).advance

/-- MMIG.ANY. -/
def execMmigAny (s : State) : Result := .next (s.setJob fun j => { j with mpolicy := some 0 }).advance

/-! ### Checks (R379) -/

/-- Panels of a shape: rows and columns of panels (R386). -/
def shapeRows (h : Nat) : Nat := if h < 2 then 1 else 2
def shapeCols (h : Nat) : Nat := if h % 2 = 0 then 1 else 2

/-- Panels that a command names. -/
def MatrixCmd.panels (c : MatrixCmd) : List Nat :=
  match c.op with
  | .zero mask => (List.range 16).filter fun n => mask.getLsbD n
  | .step => (List.range (shapeRows c.shape * shapeCols c.shape)).map fun n => c.md + n
  | .loop => (List.range (shapeRows c.shape * shapeCols c.shape)).map fun n => c.md + n
  | .coop => (List.range (shapeRows c.shape * shapeCols c.shape)).map fun n => c.md + n
  | _ => [c.md]

/-- Every panel lies within the accumulator grant (R197, R386). -/
def Job.grantsPanels (j : Job) (ps : List Nat) : Bool := ps.all fun p => decide (p < 4 * (j.pword.extractLsb' 8 8).toNat)

/-- Origins of a stream register that a format uses, with their words (R378). -/
def StreamReg.origins (g : StreamReg) : List Word :=
  let f := g.fmt.toNat
  g.base :: ((if hasScale f || hasRecord f then [g.sclBase] else []) ++ if f = 13 then [g.sideBase] else [])

/-- Row 2 of R379 for one stream register. -/
def StreamReg.malformed (g : StreamReg) : Bool :=
  g.space == 3 || g.exti == 0#32 || g.extk == 0#32 || g.rsv != 0#40

/-- Row 3 of R379: the origin that is misaligned. -/
def StreamReg.misaligned (g : StreamReg) (transfer : Bool) : Option Word :=
  let f := g.fmt.toNat
  let w := fmtWidth f false / 8
  if hasRecord f && (g.sclBase.toNat % 4 ≠ 0 || g.sstride.toNat % 4 ≠ 0) then some g.sclBase
  else if f = 13 && (g.sideBase.toNat % 4 ≠ 0 || g.sideStride.toNat % 4 ≠ 0) then some g.sideBase
  else if transfer && (g.base.toNat % w ≠ 0 || g.rstride.toNat % w ≠ 0) then some g.base
  else none

/-- Row 4 of R379: the origin that names no crew member, or a pool without scratchpad. -/
def ungranted (s : State) (g : StreamReg) : Option Word :=
  if g.space = 0 then none
  else g.origins.find? fun w =>
    match s.spaceJob s.myJob.current (g.spaceOf w) with
    | some j => j.grant == 0
    | none => true

/-- A check that failed at an origin. -/
def originFault (s : State) (cause : Nat) (g : StreamReg) (w : Word) : Result :=
  trap s { cause := cause, space := spaceCode (g.spaceOf w), addr := w }

/-- The rows of R379 over the stream registers that a command names: the first row that fails decides. -/
def checkStreams (s : State) (gs : List StreamReg) (accepts : Nat → Bool) (transfer badCount : Bool)
    (k : State → Result) : Result :=
  let families := gs.map fun g => fmtFamily g.fmt.toNat
  if families.any Option.isNone || gs.any (fun g => !accepts g.fmt.toNat) || 1 < families.eraseDups.length then trapType s
  else if gs.any StreamReg.malformed || badCount then trapIllegal s
  else
    match gs.findSome? fun g => (g.misaligned transfer).map fun w => (g, w) with
    | some (g, w) => originFault s causeAlignment g w
    | none =>
      match gs.findSome? fun g => (ungranted s g).map fun w => (g, w) with
      | some (g, w) => originFault s causePermission g w
      | none => k s

/-! ### Range locks of a command (R382 step 2) -/

/-- Bounding intervals of the elements of an operand, and of its scales and side lists (R378); outer indices q0 to q1, K
indices k0 to k1, as far as they are present. -/
def StreamReg.boxes (g : StreamReg) (q0 q1 k0 k1 : Nat) (write : Bool) : List LockAsk :=
  let q1 := min q1 (g.exti.toNat - 1)
  let k1 := min k1 (g.extk.toNat - 1)
  let f := g.fmt.toNat
  let w := fmtWidth f g.pack6
  let rs := g.rstride.toNat
  let ss := g.sstride.toNat
  let ask (o : Word) (lo hi : Nat) (wr : Bool) : LockAsk := ⟨g.spaceOf o, g.start o + lo, g.start o + hi, wr⟩
  if q1 < q0 || k1 < k0 then []
  else
    (if g.outer then ask g.base (k0 * rs + q0 * w / 8) (k1 * rs + ((q1 + 1) * w + 7) / 8) write
      else ask g.base (q0 * rs + k0 * w / 8) (q1 * rs + ((k1 + 1) * w + 7) / 8) write) ::
    ((if hasScale f then [ask g.sclBase (q0 * ss + k0 / 32) (q1 * ss + k1 / 32 + 1) false]
      else if hasRecord f then [ask g.sclBase (q0 * ss + 4 * (k0 / 32)) (q1 * ss + 4 * (k1 / 32) + 4) false] else []) ++
      if f = 13 then
        [ask g.sideBase (q0 * g.sideStride.toNat) (q1 * g.sideStride.toNat + 4 * (65535 + 32)) false] else [])

/-- Ranges of a product over blocks kb to kb + n - 1 (R388), with row and column offsets (R390). -/
def productLocks (a b : StreamReg) (rows cols q c kb n : Nat) : List LockAsk :=
  if n = 0 then []
  else
    a.boxes (a.curi.toNat + q) (a.curi.toNat + q + 64 * rows - 1) (32 * (a.curk.toNat + kb))
        (32 * (a.curk.toNat + kb + n) - 1) false ++
      b.boxes (b.curi.toNat + c) (b.curi.toNat + c + 64 * cols - 1) (32 * (b.curk.toNat + kb))
        (32 * (b.curk.toNat + kb + n) - 1) false

/-! ### Issue (R382) -/

/-- Commands of the queue that have not started (R382: it holds 8). -/
def Job.queued (j : Job) : Nat := (j.mcmds.filter fun c => !c.started).length

/-- A command with nothing in it yet. -/
def MatrixCmd.blank (s : State) (op : MatrixOp) (md : Nat) : MatrixCmd :=
  { id := s.ticket, op := op, md := md, shape := 0, acc := true, a := StreamReg.zero, b := StreamReg.zero, count := 0,
    scalar := 0#64, segment := s.myJob.segment.no, policy := s.myJob.mpolicy, queued := s.cycleOf s.core,
    started := false, steps := 0, fetched := ([], []), crew := s.myJob.current, tile := 0, part := 0, accepted := [], origin := none,
    finished := none, helper := none, pc := s.pc }

/-- A command enters the queue; one that the core lends an engine to is recalled (R398). -/
def queueCommand (s : State) (c : MatrixCmd) : State :=
  let guests := s.allJobs.flatMap fun j =>
    (j.mcmds.filter fun x => x.helper == some s.core).map fun x => (j.id, x.id)
  let s := guests.foldl (fun s g => s.sooner .commandRecall { job := g.1, a := g.2 }) s
  s.nextTicket.setJob fun j => { j with mcmds := j.mcmds ++ [c] }

/-- A command that passed its checks registers its ranges and is queued (R382); then `after` acts on the issuing state. -/
def issueCommand (s : State) (c : MatrixCmd) (asks : List LockAsk) (after : State → State) : Result :=
  engineReady s fun s =>
    if 8 ≤ s.myJob.queued then .next s.stall
    else
      match registerLocks s c.id asks with
      | none => .next s.stall
      | some s => .next (after (queueCommand s c)).advance

/-- A command of panels outside the grant is an illegal instruction (R386, R197). -/
def granted (s : State) (ps : List Nat) (k : State → Result) : Result :=
  if s.myJob.grantsPanels ps then k s else trapIllegal s

/-- MZERO (R387). -/
def execMzero (m : BitVec 16) (s : State) : Result :=
  let c := MatrixCmd.blank s (.zero m) 0
  granted s c.panels fun s => issueCommand s c [] id

/-- A cursor advanced by n blocks in the live registers, once where both names are one (R388). -/
def advanceK (s : State) (a b : BitVec 4) (n : Nat) : State :=
  let bump (g : StreamReg) : StreamReg := { g with curk := g.curk + BitVec.ofNat 32 n }
  let s := s.setGreg a (bump (s.greg a))
  if a = b then s else s.setGreg b (bump (s.greg b))

/-- The K-steps that a format M word asks for (R388). -/
def kSteps (a : StreamReg) (k : BitVec 10) : Nat := if k = 0#10 then a.kcount.toNat else k.toNat

/-- KCOUNT of a stream register that a word without a step count names (R379 row 2, which holds for every register named, log entry
55). -/
def badKcount (g : StreamReg) (k : BitVec 10) : Bool :=
  k == 0#10 && (g.kcount == 0#32 || decide (2 ^ 20 < g.kcount.toNat))

/-- MSTEP and MLOOP (R388). -/
def issueProduct (s : State) (op : MatrixOp) (d a b : BitVec 4) (h : BitVec 2) (acc : BitVec 1) (k : BitVec 10)
    (after : State → Nat → State) : Result :=
  let ga := s.greg a
  let gb := s.greg b
  let n := kSteps ga k
  let c : MatrixCmd := { MatrixCmd.blank s op d.toNat with
    shape := h.toNat, acc := acc == 1#1, a := ga, b := gb, count := n }
  granted s c.panels fun s =>
    checkStreams s [ga, gb] (fun _ => true) false (badKcount ga k || badKcount gb k) fun s =>
      issueCommand s c (productLocks ga gb (shapeRows h.toNat) (shapeCols h.toNat) 0 0 0 n) fun s => after s n

/-- MSTEP (R388). -/
def execMstep (d a b : BitVec 4) (h : BitVec 2) (c : BitVec 1) (k : BitVec 10) (s : State) : Result :=
  issueProduct s .step d a b h c k fun s _ => s

/-- MLOOP (R388): both live cursors advance by n. -/
def execMloop (d a b : BitVec 4) (h : BitVec 2) (c : BitVec 1) (k : BitVec 10) (s : State) : Result :=
  issueProduct s .loop d a b h c k fun s n => advanceK s a b n

/-! ### MLOOP.C (R390, R391) -/

/-- First block of part p of n blocks (R390). -/
def partStart (p n kp : Nat) : Nat := p * n / kp

/-- The rank of the issuing job in its current crew. -/
def State.myRank (s : State) : Option (Nat × Nat) :=
  s.myJob.current.bind fun c => (s.myJob.crews.find? fun h => h.crew == c).map fun h => (c, h.rank)

/-- The answer that a member's descriptor has had, if the question is the same as the one sent. -/
def Job.coopAnswer (j : Job) (q : CoopAsk) : Option (Option (Option Nat)) :=
  match j.coopAsk with
  | some a => if { a with answer := Option.none } = q then some a.answer else Option.none
  | _ => Option.none

/-- The part of MLOOP.C that registers, queues and advances (R390). -/
def issueCoop (s : State) (c : MatrixCmd) (a b : BitVec 4) (n : Nat) (done : State → State) : Result :=
  let t := c.tile
  let rp := shapeRows c.shape
  let cp := shapeCols c.shape
  let tc := coopCols c.a
  let first := partStart c.part n (coopParts c.a)
  let asks := productLocks c.a c.b rp cp (64 * rp * (t / tc)) (64 * cp * (t % tc)) first
    (partStart (c.part + 1) n (coopParts c.a) - first)
  issueCommand s c asks fun s => done (advanceK s a b n)

/-- MLOOP.C (R390, R391). A member that is not the origin of its tile sends its descriptor and waits; an accepted one goes
on, one that does not match raises ILLEGAL_INSTRUCTION. -/
def execMloopC (d a b : BitVec 4) (h : BitVec 2) (c : BitVec 1) (k : BitVec 10) (s : State) : Result :=
  let ga := s.greg a
  let gb := s.greg b
  let n := kSteps ga k
  let tiles := coopRows ga * coopCols ga
  let cmd : MatrixCmd := { MatrixCmd.blank s .coop d.toNat with
    shape := h.toNat, acc := c == 1#1, a := ga, b := gb, count := n }
  granted s cmd.panels fun s =>
    checkStreams s [ga, gb] (fun _ => true) false
        (badKcount ga k || badKcount gb k || decide (6 < coopCols ga) || decide (6 < coopCols gb)) fun s =>
      match s.myRank with
      | none => trap s { cause := causePermission }
      | some (crew, rank) =>
        if 128 < tiles * coopParts ga || tiles * coopParts ga ≤ rank then trapIllegal s
        else
          let cmd := { cmd with tile := rank % tiles, part := rank / tiles }
          if cmd.part = 0 then issueCoop s cmd a b n id
          else
            match s.member crew (rank % tiles) with
            | none => .next s.stall
            | some o =>
              let q : CoopAsk := ⟨o.id, crew, cmd.tile, cmd.part, h.toNat, n, ga.coop, ga.fmt, gb.fmt, none⟩
              match s.myJob.coopAnswer q with
              | some (some (some x)) =>
                issueCoop s { cmd with origin := some (o.id, x) } a b n
                  fun s => s.setJob fun j => { j with coopAsk := none }
              | some (some none) => trapIllegal (s.setJob fun j => { j with coopAsk := none })
              | some none => .next s.stall
              | none => .next (s.setJob fun j => { j with coopAsk := some q }).stall

/-! ### Panels to and from memory (R393 to R395) -/

/-- Stream coordinates of panel element (0, 0): sS[31:0] is added to CURI, sS[63:32] to 32 x CURK, modulo 2^32. -/
def panelOrigin (g : StreamReg) (v : Word) : Nat × Nat :=
  ((g.curi.toNat + bitsOf v 31 0) % 2 ^ 32, (32 * g.curk.toNat + bitsOf v 63 32) % 2 ^ 32)

/-- The command of a transfer between a panel and a stream, with its ranges. -/
def issueTransfer (s : State) (op : MatrixOp) (d g : BitVec 4) (r : SReg) (accepts : Nat → Bool) (cols : Nat)
    (write : Bool) (after : State → State) : Result :=
  let v := s.greg g
  let c : MatrixCmd := { MatrixCmd.blank s op d.toNat with a := v, scalar := s.sreg r }
  let (q, k) := panelOrigin v (s.sreg r)
  granted s c.panels fun s =>
    checkStreams s [v] accepts true false fun s =>
      issueCommand s c (v.boxes q (q + 63) k (k + cols - 1) write) after

/-- MDRAIN (R393): its segment releases at least at its scope (R384). -/
def execMdrain (d g : BitVec 4) (r : SReg) (z : BitVec 1) (s : State) : Result :=
  let scope := (s.greg g).scope
  issueTransfer s (.drain (z == 1#1)) d g r (fun f => decide (f ≤ 2)) 64 true fun s =>
    s.setJob fun j =>
      { j with segments := j.segs.dropLast ++ [{ j.segment with scope := max j.segment.scope scope }] }

/-- MLDA (R394). -/
def execMlda (d g : BitVec 4) (r : SReg) (s : State) : Result :=
  issueTransfer s .lda d g r (fun f => decide (f ≤ 2)) 64 false id

/-- MRESC.S (R395): the factor is sS[31:0]. -/
def execMrescS (d : BitVec 4) (r : SReg) (s : State) : Result :=
  let c : MatrixCmd := { MatrixCmd.blank s (.resc 0) d.toNat with scalar := s.sreg r }
  granted s c.panels fun s => issueCommand s c [] id

/-- MRESC.ROW (R395). -/
def execMrescRow (d g : BitVec 4) (r : SReg) (s : State) : Result :=
  issueTransfer s (.resc 1) d g r (fun f => f == 0) 1 false id

/-- MRESC.COL (R395). -/
def execMrescCol (d g : BitVec 4) (r : SReg) (s : State) : Result :=
  issueTransfer s (.resc 2) d g r (fun f => f == 0) 1 false id

end Sys2Proof.Machine
end

