-- ==== Sys2Proof/Machine/MatrixRun.lean ====
section
/-!
DEFINITION. Matrix commands at work (R378, R388 to R396): operand fetch, one block of K or one row at a time; start and
completion (R382), cooperative products (R391, R392), migration (R398) and operand faults (R167, R399).
-/

namespace Sys2Proof.Machine

/-! ### Operand fetch (R378, R396) -/

/-- One read after another. -/
def Reach.andThen {α β : Type} (r : Reach α × State) (k : α → State → Reach β × State) : Reach β × State :=
  match r with
  | (.ok v, s) => k v s
  | (.fault c a x, s) => (.fault c a x, s)
  | (.migrating p, s) => (.migrating p, s)
  | (.held p, s) => (.held p, s)

/-- A fault's address as its record shows it. -/
def Reach.inSpace {α : Type} (x : Space) (r : Reach α × State) : Reach α × State :=
  match r with
  | (.fault c a _, s) => (.fault c (recordAddr x a) (spaceCode x), s)
  | r => r

/-- For whom a command reaches its operands. -/
def MatrixCmd.who (c : MatrixCmd) : Who := ⟨c.crew, 2 * c.id + 1⟩

/-- Bytes at an offset from an origin of a stream register, at its SCOPE. -/
def readOrigin (s : State) (who : Who) (g : StreamReg) (o : Word) (off n : Nat) : Reach (List Byte) × State :=
  Reach.inSpace (g.spaceOf o) (readSpace s who (g.spaceOf o) (g.start o + off) n g.scope)

/-- Bytes written at an offset from an origin. -/
def writeOrigin (s : State) (who : Who) (g : StreamReg) (o : Word) (off : Nat) (bs : List Byte) :
    Reach Unit × State :=
  Reach.inSpace (g.spaceOf o) (writeSpace s who (g.spaceOf o) (g.start o + off) g.scope bs)

/-- Bit offset of element (q, k) from BASE (R378). -/
def StreamReg.elemBit (g : StreamReg) (q k : Nat) : Nat :=
  let w := fmtWidth g.fmt.toNat g.pack6
  if g.outer then 8 * (k * g.rstride.toNat) + q * w else 8 * (q * g.rstride.toNat) + k * w

/-- n bits at a bit offset from BASE. -/
def readBits (s : State) (who : Who) (g : StreamReg) (bit n : Nat) : Reach Nat × State :=
  Reach.andThen (readOrigin s who g g.base (bit / 8) ((bit % 8 + n + 7) / 8)) fun bs s =>
    (.ok (leNat bs / 2 ^ (bit % 8) % 2 ^ n), s)

/-- cnt elements (q, k), (q, k + 1), ... of a stream, all present. -/
def readElems (s : State) (who : Who) (g : StreamReg) (q k cnt : Nat) : Reach (List Nat) × State :=
  let w := fmtWidth g.fmt.toNat g.pack6
  if g.outer then
    match cnt with
    | 0 => (.ok [], s)
    | cnt + 1 =>
      Reach.andThen (readBits s who g (g.elemBit q k) w) fun x s =>
        Reach.andThen (readElems s who g q (k + 1) cnt) fun xs s => (.ok (x :: xs), s)
  else
    Reach.andThen (readBits s who g (g.elemBit q k) (cnt * w)) fun x s =>
      (.ok ((List.range cnt).map fun i => x / 2 ^ (i * w) % 2 ^ w), s)

/-- Element (q, k) is present. -/
def StreamReg.present (g : StreamReg) (q k : Nat) : Bool := decide (q < g.exti.toNat) && decide (k < g.extk.toNat)

/-- Block kb of outer index q (R378); none where no element of it is present, and then nothing is read. -/
def readBlock (s : State) (who : Who) (g : StreamReg) (q kb : Nat) : Reach (Option Block) × State :=
  let f := g.fmt.toNat
  if !g.present q (32 * kb) then (.ok none, s)
  else
    let cnt := min 32 (g.extk.toNat - 32 * kb)
    Reach.andThen (readElems s who g q (32 * kb) cnt) fun xs s =>
      let elems := xs.map some ++ List.replicate (32 - cnt) none
      let scale := if hasScale f then readOrigin s who g g.sclBase (q * g.sstride.toNat + kb) 1
        else if hasRecord f then readOrigin s who g g.sclBase (q * g.sstride.toNat + 4 * kb) 4 else (.ok [127#8], s)
      Reach.andThen scale fun bs s =>
        let rc := leNat bs
        let escapes := (xs.filter (escapeCode f)).length
        if escapes = 0 || rc % 256 = 255 then (.ok (some ⟨elems, rc, []⟩), s)
        else
          Reach.andThen (readOrigin s who g g.sideBase (q * g.sideStride.toNat + 4 * recordSide rc) (4 * escapes))
            fun bs s => (.ok (some ⟨elems, rc, (List.range escapes).map fun i => imageField bs (4 * i) 4⟩), s)

/-- Block kb of n outer indices from q. -/
def readBlocks (s : State) (who : Who) (g : StreamReg) (q kb n : Nat) : Reach (List (Option Block)) × State :=
  match n with
  | 0 => (.ok [], s)
  | n + 1 =>
    Reach.andThen (readBlock s who g q kb) fun b s =>
      Reach.andThen (readBlocks s who g (q + 1) kb n) fun bs s => (.ok (b :: bs), s)

/-! ### Panels -/

/-- Place of an element in a job's panels. -/
def panelKey (m i k : Nat) : Nat := 4096 * m + 64 * i + k

def Job.panel (j : Job) (m i k : Nat) : BitVec 32 := tableGet j.panels (panelKey m i k) 0#32

/-- Panel m with every element (i, k) replaced. -/
def Job.mapPanel (j : Job) (m : Nat) (f : Nat → Nat → BitVec 32) : Job :=
  { j with panels := (List.range 4096).foldl (fun t e => tableSet t (4096 * m + e) (f (e / 64) (e % 64)) 0#32) j.panels }

/-- Panels written with +0. -/
def Job.clearPanels (j : Job) (ms : List Nat) : Job := { j with panels := j.panels.filter fun e => !ms.contains (e.1 / 4096) }

/-! ### Units of work -/

def Job.modMcmd (j : Job) (id : Nat) (f : MatrixCmd → MatrixCmd) : Job :=
  { j with mcmds := j.mcmds.map fun c => if c.id = id then f c else c }

/-- Rows, columns and blocks of a product: row and column offset, first block, number of blocks (R388, R390). -/
def MatrixCmd.extent (c : MatrixCmd) : Nat × Nat × Nat × Nat :=
  match c.op with
  | .coop =>
    let kp := coopParts c.a
    let tc := coopCols c.a
    let first := partStart c.part c.count kp
    (64 * shapeRows c.shape * (c.tile / tc), 64 * shapeCols c.shape * (c.tile % tc), first,
      partStart (c.part + 1) c.count kp - first)
  | _ => (0, 0, 0, c.count)

/-- Panels of a product's shape. -/
def MatrixCmd.shapePanels (c : MatrixCmd) : Nat := shapeRows c.shape * shapeCols c.shape

/-- Units of work of a command: K-steps, one for each block of K and panel (R389), rows or columns of a panel. -/
def MatrixCmd.units (c : MatrixCmd) : Nat :=
  match c.op with
  | .zero _ => 1
  | .step => c.count * c.shapePanels
  | .loop => c.count * c.shapePanels
  | .coop => c.extent.2.2.2 * c.shapePanels
  | .drain _ => 64
  | .lda => 64
  | .resc n => if n = 0 then 1 else 64

/-- The operand blocks of the K block that a product is in. -/
def fetchBlocks (s : State) (c : MatrixCmd) : Reach (List (Option Block) × List (Option Block)) × State :=
  let (ro, co, first, _) := c.extent
  let kb := first + c.steps / c.shapePanels
  Reach.andThen (readBlocks s c.who c.a (c.a.curi.toNat + ro) (c.a.curk.toNat + kb) (64 * shapeRows c.shape)) fun rows s =>
    Reach.andThen (readBlocks s c.who c.b (c.b.curi.toNat + co) (c.b.curk.toNat + kb) (64 * shapeCols c.shape)) fun cols s =>
      (.ok (rows, cols), s)

/-- One K-step of a product: one block of K into one panel, the panels in row-major order (R388, R389). The first of a block fetches
its operands, which the others use. -/
def productUnit (s : State) (c : MatrixCmd) : Reach Unit × State :=
  let n := c.steps % c.shapePanels
  let cp := shapeCols c.shape
  let m := c.md + n
  Reach.andThen (if n = 0 then fetchBlocks s c else (.ok c.fetched, s)) fun x s =>
    (.ok (), s.setJob fun j =>
      (j.modMcmd c.id fun y => { y with fetched := x }).mapPanel m fun i k =>
        panelAdd (j.panel m i k)
          (blockProduct c.a.fmt.toNat c.b.fmt.toNat (x.1.getD (64 * (n / cp) + i) none) (x.2.getD (64 * (n % cp) + k) none)))

/-- A panel element in a transfer's format (R393). -/
def drainCode (f : Nat) (x : BitVec 32) : Nat := (floatFormat f).ofNum nearestEven (fp32.decode x.toNat)

/-- Panel elements (i, 0), (i, 1), ... from column k on, written one by one (LAYOUT 1). -/
def drainColumns (s : State) (c : MatrixCmd) (q k0 i : Nat) (ks : List Nat) : Reach Unit × State :=
  match ks with
  | [] => (.ok (), s)
  | k :: rest =>
    let bs := leBytes (fmtWidth c.a.fmt.toNat false / 8) (drainCode c.a.fmt.toNat (s.myJob.panel c.md i k))
    Reach.andThen (writeOrigin s c.who c.a c.a.base (c.a.elemBit q (k0 + k) / 8) bs) fun _ s =>
      drainColumns s c q k0 i rest

/-- Row i of a panel written to its stream (R393): absent elements are not written. -/
def drainUnit (s : State) (c : MatrixCmd) : Reach Unit × State :=
  let i := c.steps
  let (q0, k0) := panelOrigin c.a c.scalar
  let ks := (List.range 64).filter fun k => c.a.present (q0 + i) (k0 + k)
  if ks.isEmpty then (.ok (), s)
  else if c.a.outer then drainColumns s c (q0 + i) k0 i ks
  else
    let n := fmtWidth c.a.fmt.toNat false / 8
    writeOrigin s c.who c.a c.a.base (c.a.elemBit (q0 + i) k0 / 8)
      (ks.flatMap fun k => leBytes n (drainCode c.a.fmt.toNat (s.myJob.panel c.md i k)))

/-- Row i of a panel read from its stream (R394). -/
def loadUnit (s : State) (c : MatrixCmd) : Reach Unit × State :=
  let i := c.steps
  let (q0, k0) := panelOrigin c.a c.scalar
  let cnt := ((List.range 64).filter fun k => c.a.present (q0 + i) (k0 + k)).length
  Reach.andThen (if cnt = 0 then (.ok [], s) else readElems s c.who c.a (q0 + i) k0 cnt) fun xs s =>
    let f := floatFormat c.a.fmt.toNat
    let v (k : Nat) : BitVec 32 := match xs[k]? with
      | some x => BitVec.ofNat 32 (fp32.ofNum nearestEven (f.decode x))
      | none => 0#32
    (.ok (), s.setJob fun j => j.mapPanel c.md fun r k => if r = i then v k else j.panel c.md r k)

/-- A panel element scaled (R395). -/
def scaled (x : BitVec 32) (f : Nat) : BitVec 32 :=
  BitVec.ofNat 32 (fp32.ofNum nearestEven (Num.mul (fp32.decode x.toNat) (fp32.decode f)))

/-- A whole panel, one row or one column of it scaled (R395). -/
def rescaleUnit (s : State) (c : MatrixCmd) (source : Nat) : Reach Unit × State :=
  if source = 0 then
    (.ok (), s.setJob fun j => j.mapPanel c.md fun r k => scaled (j.panel c.md r k) (bitsOf c.scalar 31 0))
  else
    let n := c.steps
    let (q0, k0) := panelOrigin c.a c.scalar
    Reach.andThen (if c.a.present (q0 + n) k0 then readElems s c.who c.a (q0 + n) k0 1 else (.ok [], s)) fun xs s =>
      let f := xs.headD 0
      (.ok (), s.setJob fun j => j.mapPanel c.md fun r k =>
        if (if source = 1 then r else k) = n then scaled (j.panel c.md r k) f else j.panel c.md r k)

/-- The next unit of work of a command. -/
def workUnit (s : State) (c : MatrixCmd) : Reach Unit × State :=
  match c.op with
  | .zero _ => (.ok (), s.setJob fun j => j.clearPanels c.panels)
  | .step => productUnit s c
  | .loop => productUnit s c
  | .coop => productUnit s c
  | .drain _ => drainUnit s c
  | .lda => loadUnit s c
  | .resc n => rescaleUnit s c n

/-! ### The sequencer (R382) -/

def Job.mcmd (j : Job) (id : Nat) : Option MatrixCmd := j.mcmds.find? fun c => c.id == id

/-- A command writes memory. -/
def MatrixCmd.writes (c : MatrixCmd) : Bool :=
  match c.op with
  | .drain _ => true
  | _ => false

/-- A started command of a job does its next unit of work; a failed access becomes MATRIX_OPERAND_FAULT, and a page or
peer that is not there makes it wait (R43, R164, R399). -/
def stepCommand (s : State) (job : JobId) (id : Nat) : State :=
  onEngine s job matrixStrm fun s =>
    match s.myJob.mcmd id with
    | none => s
    | some c =>
      if !c.started || c.units ≤ c.steps then s
      else
        match workUnit s c with
        | (.ok _, s) =>
          (s.answered s.me.id c.who.op).setJob fun j => j.modMcmd id fun c => { c with steps := c.steps + 1 }
        | (.fault cause a x, s) =>
          s.sooner .matrixOperandFault { job := job, a := id, b := cause, c := x, v := a, flag := c.writes }
        | (_, s) => s

/-- Commands issued before one of them. -/
def earlierThan (cs : List MatrixCmd) (id : Nat) : List MatrixCmd := cs.takeWhile fun c => c.id ≠ id

/-- Two commands name a panel in common. -/
def sharePanel (a b : MatrixCmd) : Bool := a.panels.any fun p => b.panels.contains p

/-- A command may start (R382): every earlier one has started, and none of those that have not completed names a panel
of it. -/
def Job.mayStart (j : Job) (c : MatrixCmd) : Bool :=
  !c.started && (earlierThan j.mcmds c.id).all fun e => e.started && !sharePanel e c

/-- The panels that a product starts from +0 (R388, R390). -/
def MatrixCmd.fromZero (c : MatrixCmd) : Bool :=
  match c.op with
  | .step => !c.acc
  | .loop => !c.acc
  | .coop => !c.acc || c.part ≠ 0
  | _ => false

/-- A command starts. -/
def Job.begin (j : Job) (c : MatrixCmd) : Job :=
  let j := j.modMcmd c.id fun c => { c with started := true }
  if c.fromZero then j.clearPanels c.panels else j

/-- MATRIX_COMMAND_START (R382): command a of arg.job. -/
def execMatrixCommandStart (s : State) : Result :=
  .next (onEngine s s.arg.job matrixStrm fun s =>
    match s.myJob.mcmd s.arg.a with
    | some c => if s.myJob.mayStart c then s.setJob fun j => j.begin c else s
    | none => s)

/-- A command is gone: its range locks are free, and the segments settle. -/
def finishCommand (s : State) (c : MatrixCmd) : State :=
  let s := s.setJob fun j => { j with mcmds := j.mcmds.filter fun x => x.id ≠ c.id }
  settleSegments (s.freeLocks s.myJob.id c.id)

/-- A part of a cooperative product that must be combined. -/
def MatrixCmd.shared (c : MatrixCmd) : Bool :=
  match c.op with
  | .coop => decide (1 < coopParts c.a)
  | _ => false

/-- MATRIX_COMMAND_DONE (R382): command a of arg.job has done all its work. The writes of MDRAIN are released at its
scope (R233); a part of a cooperative product is finished on this die and waits for the combination (R392). -/
def execMatrixCommandDone (s : State) : Result :=
  .next (onEngine s s.arg.job matrixStrm fun s =>
    match s.myJob.mcmd s.arg.a with
    | none => s
    | some c =>
      if !c.started || c.steps < c.units then s
      else if c.shared then
        s.setJob fun j => j.modMcmd c.id fun x => { x with finished := x.finished.or (some (coreDie s.core)) }
      else
        let s := if c.writes then releaseAt s s.core c.a.scope else s
        if c.writes && !releasedAt s s.core c.a.scope then s
        else
          let s := match c.op with
            | .drain true => s.setJob fun j => j.clearPanels c.panels
            | _ => s
          finishCommand s c)

/-! ### Cooperative products (R391, R392) -/

/-- The descriptor of a member agrees with an origin's command. -/
def sameDescriptor (q : CoopAsk) (c : MatrixCmd) : Bool :=
  q.shape == c.shape && q.count == c.count && q.coop == c.a.coop && q.fmtA == c.a.fmt && q.fmtB == c.b.fmt

/-- The origin's command that a member's descriptor meets: its first one for the tile that has not accepted the part. -/
def Job.coopOrigin (j : Job) (q : CoopAsk) : Option MatrixCmd :=
  j.mcmds.find? fun c =>
    c.op == .coop && c.part == 0 && c.crew == some q.crew && c.tile == q.tile && !c.accepted.contains q.part

/-- COOP_DESCRIPTOR (R391): the descriptor of arg.job reaches its tile origin. An origin without such a command, or not
resident (R164), leaves it waiting. -/
def execCoopDescriptor (s : State) : Result :=
  match (s.job s.arg.job).bind fun j => j.coopAsk with
  | none => .next s
  | some q =>
    if q.answer.isSome then .next s
    else
      match s.job q.origin with
      | none => .next s
      | some o =>
        if o.away then .next s
        else
          match o.coopOrigin q with
          | none => .next s
          | some c =>
            if sameDescriptor q c then
              let s := s.modJob q.origin fun j => j.modMcmd c.id fun x => { x with accepted := x.accepted ++ [q.part] }
              .next (s.modJob s.arg.job fun j => { j with coopAsk := some { q with answer := some (some c.id) } })
            else .next (s.modJob s.arg.job fun j => { j with coopAsk := some { q with answer := some Option.none } })

/-- The finished part p of a tile group: the job that holds it and its command. -/
def State.coopMember (s : State) (origin : JobId) (id p : Nat) : Option (Job × MatrixCmd) :=
  s.allJobs.findSome? fun j =>
    if j.away then none
    else (j.mcmds.find? fun c => c.origin == some (origin, id) && c.part == p && c.finished.isSome).map fun c => (j, c)

/-- The lines of a member's panels on their way to its tile origin, as class 8 packets (R392). -/
def State.sendPanels (s : State) (origin : JobId) (panels : Nat) : State :=
  (List.range (128 * panels)).foldl (fun s _ => s.peerParcel 8 2 origin) s

/-- COOP_COMBINE (R392): every part of the tile group of command a of arg.job is finished; the origin's panels receive the
combination of R284, and the members' commands complete. -/
def execCoopCombine (s : State) : Result :=
  .next (onEngine s s.arg.job matrixStrm fun s =>
    match s.myJob.mcmd s.arg.a with
    | none => s
    | some c =>
      let kp := coopParts c.a
      let others := (List.range (kp - 1)).filterMap fun p => s.coopMember s.myJob.id c.id (p + 1)
      match c.finished with
      | none => s
      | some die =>
        if !c.shared || c.part ≠ 0 || others.length ≠ kp - 1 then s
        else
          let value (j : Job) (n i k : Nat) : BitVec 32 :=
            combine ((die, j.panel (c.md + n) i k) ::
              others.map fun o => (o.2.finished.getD 0, o.1.panel (o.2.md + n) i k))
          let s := s.setJob fun j => (List.range c.shapePanels).foldl (fun (x : Job) n => x.mapPanel (c.md + n) (value j n)) j
          let me := s.myJob.id
          let s := others.foldl (fun s o => onEngine s o.1.id matrixStrm fun s => s.sendPanels me c.shapePanels) s
          let s := s.select ⟨.job me, matrixStrm⟩ 0
          let s := finishCommand s c
          others.foldl (fun s o => onEngine s o.1.id matrixStrm fun s => finishCommand s o.2) s)

/-! ### Migration (R398) -/

/-- The streams of a command that may migrate lie in SPACE 0 or 2. -/
def MatrixCmd.movable (c : MatrixCmd) : Bool :=
  (c.op == .step || c.op == .loop) && !c.started && c.a.space % 2 == 0 && c.b.space % 2 == 0

/-- The command has waited as long as its policy asks. -/
def MatrixCmd.ripe (c : MatrixCmd) (now : Nat) : Bool :=
  match c.policy with
  | some n => decide (c.queued + n ≤ now)
  | none => false

/-- A tile whose matrix engine has nothing queued. -/
def State.engineIdle (s : State) (core : Nat) : Bool :=
  s.coreUsable core false && (s.residentAt core).all (fun j => j.mcmds.isEmpty) &&
    !s.allJobs.any fun j => j.mcmds.any fun c => c.helper == some core

/-- Command a of a job may move to the matrix engine of a core. -/
def State.mayMigrate (s : State) (j : Job) (c : MatrixCmd) (helper : Nat) : Bool :=
  match j.core with
  | some core =>
    c.movable && c.ripe (s.cycleOf core) && helper ≠ core && coreCluster helper == coreCluster core &&
      s.engineIdle helper && (earlierThan j.mcmds c.id).all fun e => !sharePanel e c
  | none => false

/-- COMMAND_MIGRATE (R398): command a of arg.job moves to core b, and runs there; its operands are still read in the
job's name and its locks stay. -/
def execCommandMigrate (s : State) : Result :=
  .next (onEngine s s.arg.job matrixStrm fun s =>
    match s.myJob.mcmd s.arg.a with
    | some c =>
      if s.mayMigrate s.myJob c s.arg.b then
        (s.setJob fun j => j.begin c).setJob fun j => j.modMcmd c.id fun x => { x with helper := some s.arg.b }
      else s
    | none => s)

/-- COMMAND_RECALL (R398): a migrated command goes on at its origin, at the head of its queue. -/
def execCommandRecall (s : State) : Result :=
  .next (s.modJob s.arg.job fun j =>
    match j.mcmd s.arg.a with
    | some c =>
      if c.helper.isSome then { j with mcmds := { c with helper := none } :: j.mcmds.filter fun x => x.id ≠ c.id } else j
    | none => j)

/-! ### Operand faults (R167) -/

/-- No region of the task record is read and written, and no written interval overlaps a read one (R167). -/
def restartSafe (l : Launch) (n : Nat) : Bool :=
  let hit (x y : RegionEntry) : Bool :=
    decide ((x.interval n).1 < (y.interval n).2) && decide ((y.interval n).1 < (x.interval n).2)
  l.regions.all (fun r => r.acc ≠ 3#2) &&
    l.regions.all fun w => l.regions.all fun r => !(w.acc == 2#2 && r.acc == 1#2 && hit w r)

/-- A killed job is relaunched (R167). -/
def State.mayRelaunch (s : State) (j : Job) : Bool :=
  match s.launch j.id.part j.id.acc with
  | some l => l.restartable && restartSafe l j.id.job && !j.ext &&
      decide (j.relaunches < s.field (schReg j.id.part 0x040) 3 0)
  | none => false

/-- MATRIX_OPERAND_FAULT (R167, R399): an access of command a of arg.job met cause b at address v of space c. The job is stopped and
stripped, and a record is posted that says whether it is relaunched; DATA_LOST always terminates it. A job whose budget is
used up is the Canary's (R169): the command is abandoned. -/
def execMatrixOperandFault (s : State) : Result :=
  match s.job s.arg.job with
  | none => .next s
  | some j =>
    match j.mcmd s.arg.a with
    | none => .next s
    | some c =>
      if j.hardStop then .next s
      else if j.expired then
        .next ((s.freeLocks j.id c.id).modJob j.id fun j => { j with mcmds := j.mcmds.filter fun x => x.id ≠ c.id })
      else
        let again := s.arg.b ≠ causeDataLost && s.mayRelaunch j
        let r : FaultRecord := { jobRecord s j s.arg.b with
          disp := if again then 3 else 2, engine := 2, kind := 5, strmid := matrixStrm,
          space := s.arg.c, akind := if s.arg.flag then 1 else 0, pc := c.pc, addr := s.arg.v }
        let s := if s.field (snpReg 0x010) s.arg.b s.arg.b = 1 then snapTrigger s 2 else s
        .next ((stopJob s j.id).postLater ⟨j.id.part, r, .nothing, some j.id, none⟩)

end Sys2Proof.Machine
end

