-- ==== Sys2Proof/Machine/Copy.lean ====
section
/-!
DEFINITION. The copy engine (R208, R401 to R410): views and shapes, checks and issue, transfers chunk by chunk, multicast
with its semaphores, gathers and scatters, completion, and faults during a transfer (R212).
-/

namespace Sys2Proof.Machine

/-! ### Views and shapes (R401, R402) -/

/-- Planes, rows and bytes of a row. -/
structure CopyShape where
  planes   : Nat
  rows     : Nat
  rowBytes : Nat
  deriving DecidableEq, Repr

def CopyShape.total (h : CopyShape) : Nat := h.planes * h.rows * h.rowBytes

/-- CP's byte count: one plane of one row. -/
def byteShape (v : Word) : Option CopyShape := if 2 ^ 32 < v.toNat then none else some ⟨1, 1, v.toNat⟩

/-- A shape word, with PLANES where the instruction uses it and zero elsewhere. -/
def wordShape (volume : Bool) (v : Word) : Option CopyShape :=
  if bitsOf v 63 56 ≠ 0 || (!volume && bitsOf v 55 40 ≠ 0) then none
  else some ⟨if volume then bitsOf v 55 40 else 1, bitsOf v 39 24, bitsOf v 23 0⟩

/-- Address or offset of row r of plane p of a view. -/
def StreamReg.rowAt (g : StreamReg) (p r : Nat) : Nat :=
  (g.start g.base + (g.curi.toNat + r) * g.rstride.toNat + p * g.sstride.toNat) % 2 ^ 64

/-- The space of a view. -/
def StreamReg.viewSpace (g : StreamReg) : Space := g.spaceOf g.base

/-- Bounding interval of a view's bytes: planes and rows as the shape says. -/
def StreamReg.span (g : StreamReg) (h : CopyShape) : Nat × Nat :=
  let lo := g.rowAt 0 0
  if h.total = 0 then (lo, lo)
  else (lo, lo + (h.rows - 1) * g.rstride.toNat + (h.planes - 1) * g.sstride.toNat + h.rowBytes)

/-- Bounding interval of the rows that a list of indices names (R406). -/
def StreamReg.indexSpan (g : StreamReg) (rowBytes : Nat) (idx : List Nat) : Nat × Nat :=
  match idx.map fun r => g.rowAt 0 r with
  | [] => (g.rowAt 0 0, g.rowAt 0 0)
  | a :: rest => (rest.foldl min a, rest.foldl max a + rowBytes)

/-- Where the index list lies in the indexed view's space. -/
def StreamReg.listAt (g : StreamReg) : Nat := if g.space = 2 then bitsOf g.sideBase 31 0 else g.sideBase.toNat

/-! ### Operations of a job -/

def Job.copyOp (j : Job) (id : Nat) : Option CopyCmd := j.copies.find? fun c => c.id == id

def Job.modCopy (j : Job) (id : Nat) (f : CopyCmd → CopyCmd) : Job :=
  { j with copies := j.copies.map fun c => if c.id = id then f c else c }

def CopyCmd.shape (c : CopyCmd) : CopyShape := ⟨c.planes, c.rows, c.rowBytes⟩

/-- An operation as it is issued. -/
def CopyCmd.make (s : State) (op : CopyOp) (dst src : StreamReg) (h : CopyShape) (scope : BitVec 3) (tag : Nat) :
    CopyCmd :=
  { id := s.ticket, op := op, dst := dst, src := src, planes := h.planes, rows := h.rows, rowBytes := h.rowBytes,
    scope := scope.toNat, tag := tag, give := none, crew := s.myJob.current, started := false, moved := 0,
    index := none, targets := [], parked := none, pc := s.pc }

/-- An operation is gone: its locks are free, its token is given, its scope is kept for the CP.WAIT that awaits it, and a
copy stream suspended on it goes on at its continuation, which is the matching acquire (R208, R404). -/
def finishCopy (s : State) (c : CopyCmd) : State :=
  let s := (s.freeLocks s.myJob.id c.id).setJob fun j =>
    let j := { j with copies := j.copies.filter fun x => x.id ≠ c.id }
    let j := match c.give with
      | some k => j.give k
      | none => j
    if c.tag < 16 then { j with cdone := tableSet j.cdone c.tag (max (tableGet j.cdone c.tag 0) c.scope) 0 } else j
  match s.me.frag.wait with
  | .copy op next => if op = c.id then (acquireAt s s.core c.scope).goto next else s
  | _ => s

/-- A completed operation whose writes are released at its scope (R404); those on other modules have been answered one by one.
None while a line cannot go. -/
def releaseCopy (s : State) (c : CopyCmd) : Option State :=
  let s := releaseAt s s.core c.scope
  if releasedAt s s.core c.scope then some s else none

/-! ### Issue (R404, R405) -/

/-- A range that R405 row 2 checks: the view's space, its interval and the kind of access. -/
structure CopyRange where
  space : Space
  lo    : Nat
  hi    : Nat
  write : Bool
  deriving DecidableEq, Repr

def CopyRange.ask (r : CopyRange) : LockAsk := ⟨r.space, r.lo, r.hi, r.write⟩

/-- A range fails row 2 of R405: its rank is not held, or its bytes leave the grant. -/
def CopyRange.refused (s : State) (r : CopyRange) : Bool :=
  match r.space with
  | .global => false
  | x =>
    match s.spaceJob s.myJob.current x with
    | none => true
    | some j => decide (r.lo < r.hi) && decide (j.grant < r.hi)

/-- A check that failed at issue. -/
def copyFault (s : State) (cause : Nat) (x : Space) (a : Nat) (write : Bool) : Result :=
  trap s { cause := cause, space := spaceCode x, akind := if write then 1 else 0,
           addr := recordAddr x (BitVec.ofNat 64 a) }

/-- Row 2 of R405 over the ranges in order. -/
def checkRanges (s : State) (rs : List CopyRange) (k : State → Result) : Result :=
  match rs.find? fun r => r.refused s with
  | some r => copyFault s causePermission r.space r.lo r.write
  | none => k s

/-- Operations of the queue that have not started (R404: it holds 16). -/
def Job.copiesQueued (j : Job) : Nat := (j.copies.filter fun c => !c.started).length

/-- The view that an operation reads; CP.FILL and CP.SEM read none. -/
def CopyOp.reads (op : CopyOp) : Bool :=
  match op with
  | .fill _ => false
  | .sem _ _ => false
  | _ => true

/-- The destinations of a multicast that moves nothing: at issue their semaphores are raised, a release at .dev (R407); one that is away
stalls alone (R164, log entry 188). -/
def raiseTargets (s : State) (c : CopyCmd) : State × CopyCmd :=
  let finish (s : State) (t : McTarget) : State × McTarget :=
    match s.memberOf c.crew t.rank with
    | some j => if j.id != s.myJob.id && j.away then (s, t) else (semRaise s j.id c.dst.sstride.toNat 1, { t with done := true })
    | none => (s, { t with done := true })
  match c.op with
  | .multicast true =>
    if c.targets.isEmpty then (s, c)
    else
      let s := releaseAt s s.core 5
      if releasedAt s s.core 5 then
        let r := c.targets.foldl (fun (r : State × List McTarget) t =>
          let x := finish r.1 t
          (x.1, r.2 ++ [x.2])) (s, [])
        (r.1, { c with targets := r.2 })
      else (s, c)
  | _ => (s, { c with targets := c.targets.map fun t => { t with done := true } })

/-- An operation that has passed its checks takes its arm, registers its ranges and enters the queue; one that moves
nothing completes at issue (R402). `after` acts on the issuing stream. -/
def enterCopy (s : State) (c : CopyCmd) (asks : List LockAsk) (empty arm : Bool) (after : State → State) : Result :=
  engineReady s fun s =>
    if 16 ≤ s.myJob.copiesQueued then .next s.stall
    else
      match registerLocks s c.id (if empty then [] else asks) with
      | none => .next s.stall
      | some s =>
        let c := { c with give := if arm then s.armGive else none }
        let s := (if arm then s.takeArm else s).nextTicket
        let (s, c) := if empty then raiseTargets s c else (s, c)
        let done := if empty && c.targets.all (fun t => t.done) then releaseCopy s c else none
        match done with
        | some s => .next (finishCopy (after s) c)
        | none => .next (after (s.setJob fun j => { j with copies := j.copies ++ [{ c with started := empty }] }))

/-- A plain transfer (R406): the checks of R405 over its two views, then issue. -/
def issueTransferOp (s : State) (op : CopyOp) (dst src : StreamReg) (h : Option CopyShape) (scope : BitVec 3) (tag : Nat)
    (arm : Bool) (after : State → State) : Result :=
  match h with
  | none => trapIllegal s
  | some h =>
    if dst.space = 3 || (op.reads && src.space == 3) then trapIllegal s
    else
      let w : CopyRange := ⟨dst.viewSpace, (dst.span h).1, (dst.span h).2, true⟩
      let r : CopyRange := ⟨src.viewSpace, (src.span h).1, (src.span h).2, false⟩
      let rs := if op.reads then [r, w] else [w]
      checkRanges s rs fun s =>
        enterCopy s (CopyCmd.make s op dst src h scope tag) (rs.map CopyRange.ask) (h.total == 0) arm after

/-- CP (R406). -/
def execCp (d g : BitVec 4) (r : SReg) (c : BitVec 3) (t : BitVec 4) (s : State) : Result :=
  armed s fun s =>
    issueTransferOp s .linear (s.greg d) (s.greg g) (byteShape (s.sreg r)) c t.toNat true State.advance

/-- CP.2D (R406). -/
def execCp2d (d g : BitVec 4) (r : SReg) (c : BitVec 3) (t : BitVec 4) (s : State) : Result :=
  armed s fun s =>
    issueTransferOp s .plane (s.greg d) (s.greg g) (wordShape false (s.sreg r)) c t.toNat true State.advance

/-- CP.3D (R406). -/
def execCp3d (d g : BitVec 4) (r : SReg) (c : BitVec 3) (t : BitVec 4) (s : State) : Result :=
  armed s fun s =>
    issueTransferOp s .volume (s.greg d) (s.greg g) (wordShape true (s.sreg r)) c t.toNat true State.advance

/-- CP.FILL (R406): GSRC names one of s0 to s15. -/
def execCpFill (d g : BitVec 4) (r : SReg) (c : BitVec 3) (t : BitVec 4) (s : State) : Result :=
  armed s fun s =>
    issueTransferOp s (.fill (s.sreg (g.setWidth 6))) (s.greg d) StreamReg.zero (wordShape true (s.sreg r)) c t.toNat true
      State.advance

/-- CP.Y (R408): the copy stream is suspended at the continuation, c words after the instruction. -/
def execCpY (d g : BitVec 4) (r : SReg) (c : BitVec 3) (o : BitVec 6) (k : BitVec 2) (s : State) : Result :=
  let h := if k = 0#2 then byteShape (s.sreg r) else wordShape (k == 2#2) (s.sreg r)
  let op : CopyOp := if k = 0#2 then .linear else if k = 1#2 then .plane else .volume
  let next := s.pc + BitVec.ofNat 64 (4 * o.toNat)
  let id := s.ticket
  issueTransferOp s op (s.greg d) (s.greg g) h c 16 false fun s => s.waitFor (.copy id next)

/-! ### Gather and scatter (R406) -/

/-- The index list as it stands. -/
def readIndices (s : State) (who : Who) (g : StreamReg) (rows scope : Nat) : Reach (List Nat) × State :=
  Reach.andThen (readSpace s who g.viewSpace g.listAt (4 * rows) scope) fun bs s =>
    (.ok ((List.range rows).map fun i => imageField bs (4 * i) 4), s)

/-- CP.G (R406). The list is read at issue for the ranges that are registered; where that faults every row index is
taken, and the transfer meets the fault. -/
def execCpG (d g : BitVec 4) (r : SReg) (c : BitVec 3) (t : BitVec 4) (x : BitVec 1) (s : State) : Result :=
  armed s fun s =>
    let dst := s.greg d
    let src := s.greg g
    let scatter := x == 1#1
    match wordShape false (s.sreg r) with
    | none => trapIllegal s
    | some h =>
      if dst.space = 3 || src.space = 3 then trapIllegal s
      else
        let v := if scatter then dst else src
        let w := if scatter then src else dst
        let list : CopyRange := ⟨v.viewSpace, v.listAt, v.listAt + 4 * h.rows, false⟩
        let plain : CopyRange := ⟨w.viewSpace, (w.span h).1, (w.span h).2, !scatter⟩
        let op := CopyCmd.make s (.indexed scatter) dst src h c t.toNat
        if h.total = 0 then
          checkRanges s [{ list with hi := list.lo }, { plain with hi := plain.lo }] fun s =>
            if v.sideBase.toNat % 4 ≠ 0 then copyFault s causeAlignment v.viewSpace v.listAt false
            else enterCopy s op [] true true State.advance
        else
          checkRanges s [plain, list] fun s =>
            let go (s : State) (idx : Option (List Nat)) : Result :=
              let (lo, hi) := match idx with
                | some l => v.indexSpan h.rowBytes l
                | none => (v.rowAt 0 0, v.rowAt 0 0 + (2 ^ 32 - 1) * v.rstride.toNat + h.rowBytes)
              let rows : CopyRange := ⟨v.viewSpace, lo, hi, scatter⟩
              checkRanges s (if idx.isSome then [rows] else []) fun s =>
                if v.sideBase.toNat % 4 ≠ 0 then copyFault s causeAlignment v.viewSpace v.listAt false
                else
                  enterCopy s { op with index := idx } [list.ask, plain.ask, rows.ask] false true State.advance
            if v.sideBase.toNat % 4 ≠ 0 then go s none
            else
              match readIndices s ⟨s.myJob.current, s.fragOp⟩ v h.rows c.toNat with
              | (.ok l, s) => go s (some l)
              | (.fault _ _ _, s) => go s none
              | (.migrating page, s) => .next (s.waitPage page)
              | (.held _, s) => .next s.stall

/-! ### Multicast (R407) -/

/-- Ranks of CP.MC's mask. -/
def mcastRanks (g : StreamReg) : List Nat :=
  (List.range 128).filter fun r => if r < 64 then g.sclBase.getLsbD r else g.sideBase.getLsbD (r - 64)

/-- CP.MC (R407). -/
def execCpMc (d g : BitVec 4) (r : SReg) (c : BitVec 3) (t : BitVec 4) (m : BitVec 1) (s : State) : Result :=
  armed s fun s =>
    let dst := s.greg d
    let src := s.greg g
    match wordShape false (s.sreg r) with
    | none => trapIllegal s
    | some h =>
      if dst.space ≠ 2 || src.space = 3 then trapIllegal s
      else
        match s.myJob.current with
        | none => trap s { cause := causePermission, space := 2 }
        | some crew =>
          let ranks := mcastRanks dst
          let held := ranks.filter fun n => (s.member crew n).isSome
          let bad := ranks.filter fun n => (s.member crew n).isNone
          let (lo, hi) := dst.span h
          let sem := dst.sstride.toNat
          let read : CopyRange := ⟨src.viewSpace, (src.span h).1, (src.span h).2, false⟩
          let writes := held.map fun n => (⟨.peer n, lo, hi, true⟩ : CopyRange)
          let sems := if m = 1#1 then held.map fun n => (⟨.peer n, sem, sem + 4, true⟩ : CopyRange) else []
          checkRanges s (read :: writes ++ sems) fun s =>
            if !bad.isEmpty then
              trap s { cause := causeMcastPartition, space := 2,
                       lanes := some (BitVec.ofNat 128 ((bad.map fun n => 2 ^ n).sum)) }
            else if m = 1#1 && sem % 8 ≠ 0 then copyFault s causeAlignment (.peer 0) sem true
            else
              let op := { CopyCmd.make s (.multicast (m == 1#1)) dst src h c t.toNat with
                targets := ranks.map fun n => ⟨n, 0, false⟩ }
              enterCopy s op (read.ask :: writes.map CopyRange.ask) (ranks.isEmpty || h.total == 0) true fun s => s.markExt.advance

/-! ### CP.WAIT, CP.SEM and CP.PF (R409, R410) -/

/-- The operations that a tag and ALL cover. -/
def Job.covered (j : Job) (t : BitVec 4) (all : BitVec 1) : List CopyCmd :=
  j.copies.filter fun c => all == 1#1 || c.tag == t.toNat

/-- CP.WAIT (R409). -/
def execCpWait (t : BitVec 4) (a : BitVec 1) (s : State) : Result :=
  if !(s.myJob.covered t a).isEmpty then .next s.stall
  else
    let mine (e : Nat × Nat) : Bool := a == 1#1 || e.1 == t.toNat
    let scope := ((s.myJob.cdone.filter mine).map fun e => e.2).foldl max 0
    let s := acquireAt s s.core scope
    .next (s.setJob fun j => { j with cdone := j.cdone.filter fun e => !mine e }).advance

/-- CP.SEM (R409). -/
def execCpSem (d : BitVec 4) (r : SReg) (t : BitVec 4) (a : BitVec 1) (s : State) : Result :=
  armed s fun s =>
    let dst := s.greg d
    if dst.space % 3 = 0 then trapIllegal s
    else
      let off := dst.start dst.base
      checkRanges s [⟨dst.viewSpace, off, off + 4, true⟩] fun s =>
        if off % 8 ≠ 0 then copyFault s causeAlignment dst.viewSpace off true
        else
          let awaited := (s.myJob.covered t a).map fun c => c.id
          let op := CopyCmd.make s (.sem ((s.sreg r).truncate 32) awaited) dst StreamReg.zero ⟨0, 0, 0⟩ 5#3 t.toNat
          enterCopy s op [] false true fun s => s.markExt.advance

/-- CP.PF (R410): a hint; nothing that software can observe. -/
def execCpPf (_g : BitVec 4) (_r : SReg) (_l : BitVec 2) (s : State) : Result := .next s.advance

/-! ### Transfers (R403) -/

/-- For whom an operation reaches its views. -/
def CopyCmd.who (c : CopyCmd) : Who := ⟨c.crew, 2 * c.id + 1⟩

/-- A chunk of a transfer: so many bytes within one line of its source and one of its destination. -/
def chunkBytes (left src dst : Nat) : Nat := min left (min (128 - src % 128) (128 - dst % 128))

/-- Row of a view that row r of the operation reaches. -/
def CopyCmd.rowIndex (c : CopyCmd) (source : Bool) (r : Nat) : Nat :=
  match c.op with
  | .indexed scatter => if scatter != source then (c.index.getD []).getD r 0 else r
  | _ => r

/-- The source byte b of row r of plane p, and n bytes from it. -/
def readCopy (s : State) (c : CopyCmd) (p r b n : Nat) : Reach (List Byte) × State :=
  match c.op with
  | .fill v => (.ok ((List.range n).map fun i => v.extractLsb' (8 * ((b + i) % 8)) 8), s)
  | _ =>
    Reach.inSpace c.src.viewSpace
      (readSpace s c.who c.src.viewSpace ((c.src.rowAt p (c.rowIndex true r) + b) % 2 ^ 64) n c.scope)

/-- A fault of a transfer: whether it is the write that failed, and in which space. -/
inductive CopyStep where
  | ok (n : Nat) (s : State)
  | fault (cause : Nat) (addr : Word) (space : Space) (write : Bool) (s : State)
  | later (s : State)

/-- The chunk at position m of an operation's bytes, into a space. -/
def copyChunk (s : State) (c : CopyCmd) (x : Space) (m : Nat) : CopyStep :=
  let b := m % c.rowBytes
  let r := m / c.rowBytes % c.rows
  let p := m / c.rowBytes / c.rows
  let target := (c.dst.rowAt p (c.rowIndex false r) + b) % 2 ^ 64
  let fro := match c.op with
    | .fill _ => target
    | _ => c.src.rowAt p (c.rowIndex true r) + b
  let n := chunkBytes (c.rowBytes - b) fro target
  match readCopy s c p r b n with
  | (.fault cause a _, s) => .fault cause a c.src.viewSpace false s
  | (.ok bs, s) =>
    match Reach.inSpace x (writeSpace s c.who x target c.scope bs) with
    | (.ok _, s) => .ok n s
    | (.fault cause a _, s) => .fault cause a x true s
    | (_, s) => .later s
  | (_, s) => .later s

/-- A failed access becomes COPY_TRANSFER_FAULT. -/
def copyFailed (s : State) (id cause : Nat) (addr : Word) (x : Space) (write : Bool) : State :=
  s.sooner .copyTransferFault
    { job := s.myJob.id, a := id, b := cause, c := spaceCode x, v := addr, flag := write }

/-- Bytes that one destination receives. -/
def CopyCmd.bytes (c : CopyCmd) : Nat := c.shape.total

def CopyCmd.modTarget (c : CopyCmd) (rank : Nat) (f : McTarget → McTarget) : CopyCmd :=
  { c with targets := c.targets.map fun t => if t.rank = rank then f t else t }

/-- One destination of a multicast goes on by a chunk; once all its bytes have landed its semaphore is raised, a release
at .dev (R232). A destination that is away stalls alone (R164). -/
def stepTarget (s : State) (c : CopyCmd) (sem : Bool) (t : McTarget) : State :=
  match s.memberOf c.crew t.rank with
  | none => if t.done then s else copyFailed s c.id causePermission (recordAddr (.peer t.rank) 0#64) (.peer t.rank) true
  | some j =>
    if t.done || (j.id != s.myJob.id && j.away) then s
    else if c.bytes ≤ t.moved then
      let s := if sem then releaseAt s s.core 5 else s
      if sem && !releasedAt s s.core 5 then s
      else
        let s := if sem then semRaise s j.id c.dst.sstride.toNat 1 else s
        s.setJob fun j => j.modCopy c.id fun c => c.modTarget t.rank fun t => { t with done := true }
    else
      match copyChunk s c (.peer t.rank) t.moved with
      | .ok n s =>
        let s := (List.range ((n + 127) / 128)).foldl (fun s _ => s.peerParcel 8 2 j.id) s
        (s.answered s.me.id c.who.op).setJob fun j => j.modCopy c.id fun c =>
          c.modTarget t.rank fun t => { t with moved := t.moved + n }
      | .fault cause a x w s => copyFailed s c.id cause a x w
      | .later s => s

/-- A fault of this operation is about to be taken. -/
def State.copyFaulting (s : State) (id : Nat) : Bool :=
  s.agenda.any fun t => match t with
    | .event .copyTransferFault a => a.job == s.myJob.id && a.a == id
    | _ => false

/-- A started operation goes on by one chunk: a gather or scatter first reads its whole index list (R406). -/
def stepCopy (s : State) (job : JobId) (id : Nat) : State :=
  onEngine s job copyStrm fun s =>
    match s.myJob.copyOp id with
    | none => s
    | some c =>
      if !c.started || c.parked.isSome then s
      else
        match c.op with
        | .sem _ _ => s
        | .multicast sem =>
          c.targets.foldl (fun s t => if s.copyFaulting id then s else stepTarget s c sem t) s
        | .indexed scatter =>
          let v := if scatter then c.dst else c.src
          if c.index.isNone then
            match Reach.inSpace v.viewSpace (readIndices s c.who v c.rows c.scope) with
            | (.ok l, s) =>
              (s.answered s.me.id c.who.op).setJob fun j => j.modCopy id fun c => { c with index := some l }
            | (.fault cause a _, s) => copyFailed s id cause a v.viewSpace false
            | (_, s) => s
          else if c.bytes ≤ c.moved then s
          else
            match copyChunk s c c.dst.viewSpace c.moved with
            | .ok n s =>
              (s.answered s.me.id c.who.op).setJob fun j => j.modCopy id fun c => { c with moved := c.moved + n }
            | .fault cause a x w s => copyFailed s id cause a x w
            | .later s => s
        | _ =>
          if c.bytes ≤ c.moved then s
          else
            match copyChunk s c c.dst.viewSpace c.moved with
            | .ok n s =>
              (s.answered s.me.id c.who.op).setJob fun j => j.modCopy id fun c => { c with moved := c.moved + n }
            | .fault cause a x w s => copyFailed s id cause a x w
            | .later s => s

/-! ### Start, completion, faults -/

/-- The oldest operation of a job that has not started. -/
def Job.nextCopy (j : Job) : Option CopyCmd := j.copies.find? fun c => !c.started

/-- COPY_START (R404): operation a of arg.job starts, in issue order; a job that is being pre-empted starts none (R163). -/
def execCopyStart (s : State) : Result :=
  .next (onEngine s s.arg.job copyStrm fun s =>
    match s.myJob.nextCopy with
    | some c =>
      if c.id = s.arg.a && !s.myJob.preempt then
        s.setJob fun j => j.modCopy c.id fun c => { c with started := true }
      else s
    | none => s)

/-- Every byte of an operation has been moved; CP.SEM has nothing left to await. -/
def CopyCmd.moveDone (c : CopyCmd) (j : Job) : Bool :=
  match c.op with
  | .sem _ awaited => awaited.all fun id => (j.copyOp id).isNone
  | .multicast _ => c.targets.all fun t => t.done
  | _ => decide (c.bytes ≤ c.moved)

/-- CP.SEM's add, once the awaited operations are complete: a release at .core on the own pool and at .dev on a peer's
(R232); a job that is away is awaited (R164). -/
def performSem (s : State) (c : CopyCmd) (add : BitVec 32) : Option State :=
  match s.spaceJob c.crew c.dst.viewSpace with
  | none => none
  | some j =>
    if j.id != s.myJob.id && j.away then none
    else
      let scope := if j.id = s.myJob.id then 1 else 5
      let s := releaseAt s s.core scope
      if releasedAt s s.core scope then some (semRaise s j.id (c.dst.start c.dst.base) add.toNat) else none

/-- COPY_COMPLETE (R404): operation a of arg.job has performed every byte it writes. -/
def execCopyComplete (s : State) : Result :=
  .next (onEngine s s.arg.job copyStrm fun s =>
    match s.myJob.copyOp s.arg.a with
    | none => s
    | some c =>
      if !c.started || c.parked.isSome || !c.moveDone s.myJob then s
      else
        match c.op with
        | .sem add _ =>
          if (s.spaceJob c.crew c.dst.viewSpace).isNone then
            copyFailed s c.id causePermission (recordAddr c.dst.viewSpace (BitVec.ofNat 64 (c.dst.start c.dst.base)))
              c.dst.viewSpace true
          else
            match performSem s c add with
            | some s => finishCopy s c
            | none => s
        | _ =>
          match releaseCopy s c with
          | some s => finishCopy s c
          | none => s)

/-- COPY_TRANSFER_FAULT (R212): an access of operation a of arg.job met cause b at address v of space c. The operation parks
at its first unperformed line and keeps its range locks; DATA_LOST terminates the job. -/
def execCopyTransferFault (s : State) : Result :=
  match (s.job s.arg.job).bind fun j => (j.copyOp s.arg.a).map fun c => (j, c) with
  | none => .next s
  | some (j, c) =>
    if j.hardStop || c.parked.isSome then .next s
    else
      let cause := s.arg.b
      let ends := dispOf cause = 2
      let r : FaultRecord := { jobRecord s j cause with
        disp := if ends then 2 else 0, engine := 3, kind := 6, strmid := copyStrm, space := s.arg.c,
        akind := if s.arg.flag then 1 else 0, pc := c.pc,
        addr := if s.arg.c = 0 && !ends then s.arg.v &&& ~~~(127#64) else s.arg.v }
      let s := if s.field (snpReg 0x010) cause cause = 1 then snapTrigger s 2 else s
      if ends then
        .next ((s.modJob j.id fun j => { j with hardStop := true }).postLater ⟨j.id.part, r, .nothing, some j.id, none⟩)
      else
        let p := s.newPark 0 6
        .next ((s.modJob j.id fun j => j.modCopy c.id fun c => { c with parked := some p }).postLater
          ⟨j.id.part, r, .copy j.id c.id, none, none⟩)

end Sys2Proof.Machine
end

