-- ==== Sys2Proof/Machine/Diverge.lean ====
section
/-!
DEFINITION. Divergence and reconvergence (R201, R202, R348, R349), EXIT (R196) and MEET (R195).
-/

namespace Sys2Proof.Machine

/-- Lanes leave the regions at n depths from one downward, innermost first (R202 rule 4); a fragment that goes on when
such a region empties may itself arrive further out. -/
def leaveDepths (n depth : Nat) (lanes : LaneMask) (st : Stream) : Stream :=
  match n with
  | 0 => st
  | n + 1 =>
    let going := st.frag
    let st := match regionFor st.regions depth lanes with
      | none => st
      | some r =>
        match leaveRegion st r lanes false with
        | (rs, none) => { st with regions := rs }
        | (rs, some f) =>
          (arriveWith 64 { st with regions := rs, frag := f, frags := st.frags ++ [going] }).swapFrag going.id
    leaveDepths n (depth - 1) lanes st

/-- The current fragment is gone; the lanes of its mask arrive at the region of a depth (R202 rules 2 and 3). -/
def arriveAtDepth (st : Stream) (depth : Nat) : Stream :=
  match regionFor st.regions depth st.frag.mask with
  | none => st.dropFrag
  | some r =>
    match leaveRegion st r st.frag.mask true with
    | (rs, some f) => { st with regions := rs, frag := f }.settle
    | (rs, none) => { st with regions := rs }.dropFrag

/-- Entries of the split table (R201): the undiverged stream holds none. -/
def Stream.entries (st : Stream) : Nat :=
  if st.undiverged then 0 else 1 + st.frags.length + st.regions.length

/-- The stream with a fragment divided in two, and the region that they open (R202 rule 1). -/
def diverge (st : Stream) (taken other : LaneMask) (target reconv : Word) : Stream :=
  let f := st.frag
  let r : Region := ⟨reconv, f.depth + 1, f.mask, 0#128, none, st.uses⟩
  let t : Frag := { Frag.make st.newFragId taken target (f.depth + 1) with run := 64, used := st.uses }
  let n : Frag := { f with mask := other, depth := f.depth + 1 }
  let st := { st with regions := st.regions ++ [r], frag := n, frags := st.frags ++ [t] }
  let st := { st with frag := { n with pc := n.pc + 4#64, wait := .running } }.settle
  -- the fragment that took the branch may stand at the reconvergence address already
  if (st.frag :: st.frags).any fun g => g.id == t.id then ((st.swapFrag t.id).settle).swapFrag f.id else st

/-- VBR (R348). -/
def execVbr (p : BitVec 4) (t : BitVec 11) (r : BitVec 10) (s : State) : Result :=
  let m := s.mask
  let taken := m &&& s.me.pred p.toNat
  let other := m &&& ~~~ s.me.pred p.toNat
  let target := s.target t
  let reconv := s.pc + 4#64 * r.zeroExtend 64
  if taken = 0#128 then .next s.advance
  else if !s.targetOk target then trapIllegal s
  else if other = 0#128 then .next (s.goto target)
  else if !s.targetOk reconv || s.me.bracket.isSome || s.me.frag.depth = 63 || s.forbiddenLoopEnd ||
      s.me.loops.any (fun l => l.last = s.pc) then trapIllegal s
  else if 253 < s.me.entries + (if s.me.undiverged then 1 else 0) then .next s.stall
  else .next { s with me := diverge s.me taken other target reconv }

/-- VEXIT (R349, R202 rule 4). -/
def execVexit (n : BitVec 6) (s : State) : Result :=
  let d := s.me.frag.depth
  if n = 0#6 || d < n.toNat + 1 || s.me.bracket.isSome then trapIllegal s
  else .next { s with me := arriveAtDepth (leaveDepths n.toNat d s.mask s.me) (d - n.toNat) }

/-! ### MEET and EXIT -/

/-- Every stream of the job that has not ended waits at a MEET. -/
def State.allMeet (s : State) (j : JobId) : Bool :=
  (s.streamsOf j).all fun st => st.ended || (st.frag.wait == .meet && st.frag.parked.isNone && st.frags.isEmpty)

/-- A completed MEET releases every participant (R195). -/
def meetCheck (s : State) (j : JobId) : State :=
  if s.allMeet j then s.mapStreams (fun st => st.ofJob j && !st.ended) Stream.finish else s

/-- MEET (R195). -/
def execMeet (s : State) : Result :=
  if s.isMgmt || (s.me.isVector && !s.me.undiverged) || s.me.bracket.isSome then trapIllegal s
  else if s.net.txns.any fun t => t.strm == s.me.id then .next s.stall
  else .next (meetCheck (s.waitFor .meet) s.myJob.id)

/-- The issuing fragment or stream ends (R196): its lanes leave every region, and a pending arm is discarded. -/
def Stream.exit (st : Stream) : Stream :=
  let st := if st.isVector then leaveDepths st.frag.depth st.frag.depth st.frag.mask st else st
  { st with arm := ⟨false, 0#3, false, 0#3, none⟩ }.dropFrag

/-- EXIT (R196). -/
def execExit (s : State) : Result :=
  if s.isMgmt || s.me.bracket.isSome then trapIllegal s
  else
    .next (meetCheck { s with me := s.me.exit } s.myJob.id)

end Sys2Proof.Machine
end

