-- ==== Sys2Proof/Machine/Fences.lean ====
section
/-!
DEFINITION. Fences (R223, R226, R366), CFLUSH (R367) and PF (R368).
-/

namespace Sys2Proof.Machine

/-- A full fence at a scope (R223): every earlier access of the stream has performed, the release's lines are written
back, and the acquire's lines are invalidated. -/
def fullFence (s : State) (scope : Nat) (k : State → Result) : Result :=
  releaseThen s true scope fun s => k (acquireAt s s.core scope)

/-- FENCE (R366). -/
def execFence (c : BitVec 3) (s : State) : Result := fullFence s c.toNat fun s => .next s.advance

/-- FENCE.REL (R366): the release half. -/
def execFenceRel (c : BitVec 3) (s : State) : Result := releaseThen s true c.toNat fun s => .next s.advance

/-- A transaction takes a value: a load or an atomic. -/
def Txn.takesValue (t : Txn) : Bool :=
  match t.kind with
  | .store _ => false
  | .buffered _ => false
  | .asked => false
  | _ => true

/-- FENCE.ACQ (R366): every earlier load and atomic of the stream has taken its value; then the acquire half. -/
def execFenceAcq (c : BitVec 3) (s : State) : Result :=
  if s.myTxns.any Txn.takesValue then .next s.stall else .next (acquireAt s s.core c.toNat).advance

/-- FENCE.OWN (R226, R366): later accesses do not issue ahead of earlier ones, which in-order issue gives. -/
def execFenceOwn (_ : BitVec 3) (s : State) : Result := .next s.advance

/-- The cores that hold a resident job of a crew of the issuing stream's launch (R226). -/
def State.crewCores (s : State) (crew : Nat) : List Nat :=
  (s.allJobs.filter fun j =>
    j.id.part == s.myJob.id.part && j.id.acc == s.myJob.id.acc && j.state == .resident &&
      j.crews.any fun h => h.crew == crew).filterMap fun j => j.core

/-- Accesses that left a core and have not performed. -/
def State.coreBusy (s : State) (core : Nat) : Bool :=
  s.net.txns.any fun t => s.ownerAt t.strm.owner == some core

/-- FENCE.REM (R226, R366): the buffers of every core with a resident member drain to the scope, each such core is
serialised and its clean lines are invalidated; for the issuing stream it acts as a full fence. -/
def execFenceRem (a : SReg) (c : BitVec 3) (s : State) : Result :=
  let scope := c.toNat
  let n := (s.sreg a).toNat
  let cores := if s.isMgmt || 255 < n then [] else s.crewCores n
  if cores.any s.coreBusy then .next s.stall
  else
    fullFence s scope fun s =>
      let s := cores.foldl (fun s core => releaseAt s core scope) s
      if cores.all fun core => releasedAt s core scope then
        .next (cores.foldl (fun s core => acquireAt s core scope) s).advance
      else .next s.stall

/-! ### CFLUSH and PF -/

/-- The 128-byte lines that overlap [a, a + n), or the line that holds a when n = 0: first address within each. -/
def linesOf (a n : Nat) : List Nat :=
  let first := a / 128
  let last := if n = 0 then first else (a + n - 1) / 128
  (List.range (last - first + 1)).map fun k => max a ((first + k) * 128)

/-- The translated places of a list of addresses; the first failure stops. -/
def reachLines (s : State) (as : List Nat) : Except Result (State × List Place) :=
  match as with
  | [] => .ok (s, [])
  | a :: rest =>
    let va := BitVec.ofNat 64 a
    match s.translate va 1 .read with
    | (.ok x, s) =>
      match reachLines s rest with
      | .ok (s, xs) => .ok (s, x :: xs)
      | .error r => .error r
    | (.fault c, s) => .error (trap s (accessFault ⟨.global, .read, 1, 1, false⟩ c va))
    | (.migrating page, s) => .error (.next (s.waitPage page))
    | (.walking, s) => .error (.next s.stall)

/-- One covered line (R367): drained, at .die or wider written back, and clean copies below its point invalidated. -/
def flushLine (scope : Nat) (s : State) (x : Place) : State :=
  if x.apt = 0 || x.apt = 2 then
    let s := s.drainLine x.loc
    let s := if 3 ≤ scope then
        let s := if s.dirtyLine x.loc && decide (x.apt = 0) && s.hostHolds x.pa then s.backInvalidate x.pa else s
        writeBackWhere s (coreCluster s.core) fun loc => loc / 128 == x.loc / 128
      else s
    let s := if 2 ≤ scope then dropLine s s.core x.loc else s
    if 3 ≤ scope then dropCluLine s (coreCluster s.core) x.loc else s
  else s

/-- A covered line still stands above its point behind the host's answer (R119). -/
def flushHeld (s : State) (scope : Nat) (x : Place) : Bool :=
  (x.apt == 0 || x.apt == 2) && (s.bufferedLine x.loc || (decide (3 ≤ scope) && s.dirtyLine x.loc))

/-- CFLUSH (R367). -/
def execCflush (a b : SReg) (c : BitVec 3) (s : State) : Result :=
  let lines := linesOf (s.sreg a).toNat (min (s.sreg b).toNat (2 ^ 24))
  match reachLines s lines with
  | .error r => r
  | .ok (s, xs) =>
    let s := xs.foldl (flushLine c.toNat) s
    if xs.any (flushHeld s c.toNat) then .next s.stall else .next s.advance

/-- A line prefetched (R368) into its L2 slice, for level 1 into the cluster cache, and for level 0 into the L1 too: bytes that
are not held there. -/
def prefetchLine (level : Nat) (s : State) (x : Place) : State :=
  let far := decide (x.apt = 0) && (s.readHeld x.pa || s.poisonedLine (x.pa / 128))
  let s := if x.apt = 0 && !far then (s.readLine s.groupTag 4 4 x.pa).myParcel 0 x.pa 0 4 else s
  if (x.apt = 0 || x.apt = 2) && level ≤ 1 && !far then
    let base := x.loc / 128 * 128
    let clu := coreCluster s.core
    (List.range 128).foldl
      (fun s k =>
        let loc := base + k
        let put (t : Table Byte) (key : Nat) (b : Byte) : Table Byte :=
          if (tableFind t key).isSome then t else tablePut t key b
        if (wcbNewest s.mm.wcb s.core loc).isSome then s
        else
          let held := s.cluDirtyAt clu loc
          let b := (held.or (tableFind s.mm.cluClean (clu * cacheStride + loc))).getD
            ((pointRead s loc 1).headD blankByte)
          { s with mm := { s.mm with
              cluClean := if held.isSome then s.mm.cluClean else put s.mm.cluClean (clu * cacheStride + loc) b,
              l1Clean := if level = 0 then put s.mm.l1Clean (s.core * cacheStride + loc) b else s.mm.l1Clean } }) s
  else s

/-- PF (R368): a failed translation drops the request. -/
def execPf (a b : SReg) (_ : BitVec 1) (l : BitVec 2) (s : State) : Result :=
  let lines := linesOf (s.sreg a).toNat (min (s.sreg b).toNat 65536)
  .next (lines.foldl
    (fun s a =>
      match s.translate (BitVec.ofNat 64 a) 1 .read with
      | (.ok x, s) => prefetchLine l.toNat s x
      | (_, s) => s) s).advance

end Sys2Proof.Machine
end

