-- ==== Sys2Proof/Machine/HostPort.lean ====
section
/-!
DEFINITION. The host port (R115, R118 to R120, R130, R132): host reads and writes of the tiers, snoops, bias, the link, the
HDM decoders, and the disciplining of the DTB.
-/

namespace Sys2Proof.Machine

/-! ### HDM decoders and host accesses (R118, R119) -/

/-- Where a decoder's tier begins, and how large it may be. -/
def hdmTier (k : Nat) : Nat × Nat := if k = 0 then (0, hbmTop) else (lpddrBase, lpddrTop - lpddrBase)

/-- HDM_DECODER_COMMIT (R118): decoder a at host address b of size c; one that exceeds its tier fails to commit. -/
def execHdmDecoderCommit (s : State) : Result :=
  let k := s.arg.a
  if 1 < k || (hdmTier k).2 < s.arg.c then .next s
  else .next { s with sys := { s.sys with cxl := { s.sys.cxl with hdm := tablePut s.sys.cxl.hdm k (s.arg.b, s.arg.c) } } }

/-- The device address that a decoder gives a host address. -/
def State.hdmAddress (s : State) (hpa : Nat) : Option Nat :=
  [0, 1].findSome? fun k =>
    (tableFind s.sys.cxl.hdm k).bind fun d =>
      if d.1 ≤ hpa && decide (hpa < d.1 + d.2) then some ((hdmTier k).1 + (hpa - d.1)) else none

/-- Bit of the bias bitmap for a device address, and how many bits it has (R119). -/
def biasBit (pa : Nat) : Nat := if inLpddr pa then 11534336 + (pa - lpddrBase) / 65536 else pa / 65536
def biasBits : Nat := 9306112 * 8

/-- Address of a bit's byte in the bitmap. -/
def State.biasByte (s : State) (bit : Nat) : Nat := s.field 0x018 51 16 * 65536 + bit / 8

/-- A page is under host bias. -/
def State.hostBias (s : State) (pa : Nat) : Bool :=
  s.field 0x010 0 0 == 1 && (cellGet s.mm.mem (s.biasByte (biasBit pa))).getLsbD (biasBit pa % 8)

/-- The snoop filter records a line that the host holds; a full one gives up its oldest entry (R119), at once and not when the host
has answered (log entry 186). -/
def State.recordSnoop (s : State) (line : Nat) : State :=
  if s.sys.cxl.snoop.contains line then s
  else
    let put (s : State) : State :=
      { s with sys := { s.sys with cxl := { s.sys.cxl with snoop := s.sys.cxl.snoop ++ [line] } } }
    if s.sys.cxl.snoop.length < 262144 then put s
    else
      match s.sys.cxl.snoop with
      | [] => put s
      | old :: rest =>
        put ((({ s with sys := { s.sys with cxl := { s.sys.cxl with snoop := rest } } }).backInvalidate (128 * old)).count
          0x028 48 1)

/-- HOST_MEM_READ (R118, R119): b bytes at host address a; the answer carries poison where a line is poisoned. -/
def execHostMemRead (s : State) : Result :=
  if !s.sys.cxl.up || s.sys.boot = .minimal then .next s
  else
    match s.hdmAddress s.arg.a with
    | none => .next s
    | some pa =>
      let sect := sectorsOf pa (max 1 (min s.arg.b (128 - pa % 128)))
      if s.mustRebuild pa then .next ((s.askLine pa 0 sect false).event .hostMemRead s.arg) else
      let bs := sliceRead s pa s.arg.b
      let bad := s.poisonedAt pa s.arg.b
      let s := (s.noteRead pa sect).parcel ⟨0, pa, 0, s.extSlack 6, 0, sect, hostStop, sliceStop pa, 16, []⟩
      let s := if s.hostBias pa then s.recordSnoop (pa / 128) else s
      .next { s with sys := { s.sys with cxl := { s.sys.cxl with answer := some (bs, bad) } } }

/-- HOST_MEM_WRITE (R118): the bytes at host address a, performed at the owning slice. -/
def execHostMemWrite (s : State) : Result :=
  if !s.sys.cxl.up || s.sys.boot = .minimal then .next s
  else
    match s.hdmAddress s.arg.a with
    | none => .next s
    | some pa =>
      let sect := sectorsOf pa s.arg.bytes.length
      .next (sliceWrite (s.parcel ⟨2, pa, 2, s.extSlack 6, 0, sect, hostStop, sliceStop pa, 16, []⟩) pa s.arg.bytes)

/-- HOST_SNOOP (R311): the host snoops the line at host address a: dirty bytes go back to the host, copies are dropped, and
watches on it fire. -/
def execHostSnoop (s : State) : Result :=
  let line := s.arg.a / 128
  let loc := hostLoc / 128 + line
  let s := (List.range 69).foldl (fun s clu => writeBackWhere s clu fun x => x / 128 == loc) s
  let drop (t : Table Byte) : Table Byte := t.filter fun e => e.1 % cacheStride / 128 != loc
  .next ({ s with
    mm := { s.mm with l1Clean := drop s.mm.l1Clean, cluClean := drop s.mm.cluClean },
    sys := { s.sys with cxl := { s.sys.cxl with shared := s.sys.cxl.shared.filter fun x => x.2 != line } } }.fireLine loc)

/-- BI_RESPONSE (R119): BIRsp to the snoop of line a, with the flag a BISnpInv; the line is no longer recorded (log entry 168), and
the increments that waited for it come about. -/
def execBiResponse (s : State) : Result :=
  .next (settleCounters { s with sys := { s.sys with cxl := { s.sys.cxl with
    pendingBi := s.sys.cxl.pendingBi.erase (s.arg.a, s.arg.flag), snoop := s.sys.cxl.snoop.erase s.arg.a } } } s.arg.a)

/-! ### Bias commands (R120) -/

/-- A bit of the bitmap written at its slice. -/
def setBias (s : State) (bit : Nat) (v : Bool) : State :=
  let a := s.biasByte bit
  let old := cellGet s.mm.mem a
  let m : Byte := BitVec.ofNat 8 (2 ^ (bit % 8))
  sliceWrite s a [if v then old ||| m else old &&& ~~~m]

/-- The recorded lines of the page that a bit stands for. -/
def State.recordedLines (s : State) (bit : Nat) : List Nat :=
  s.sys.cxl.snoop.filter fun l => biasBit (128 * l) == bit

/-- BIAS_SET (R120): page a's bit is written, and the command ends. -/
def execBiasSet (s : State) : Result :=
  .next ({ s with sys := { s.sys with cxl := { s.sys.cxl with bias := some (false, s.arg.a) } } }.event .biasCmdDone {})

/-- BIAS_CLEAR (R120): every recorded line of page a is back-invalidated first. -/
def execBiasClear (s : State) : Result :=
  let s := (s.recordedLines s.arg.a).foldl (fun s l => s.backInvalidate (128 * l)) s
  .next ({ s with sys := { s.sys with cxl := { s.sys.cxl with bias := some (true, s.arg.a) } } }.event .biasCmdDone {})

/-- BIAS_CMD_DONE (R120): the bit is written, by a clear once no line of the page is recorded, and BUSY clears. The line of the
bitmap itself must be given back by the host first (R119). -/
def execBiasCmdDone (s : State) : Result :=
  match s.sys.cxl.bias with
  | none => .next s
  | some (clears, bit) =>
    let rest := if clears then s.recordedLines bit else []
    if s.hostHolds (s.biasByte bit) then .next ((s.backInvalidate (s.biasByte bit)).event .biasCmdDone {})
    else if rest.isEmpty then
      let s := if bit < biasBits then setBias s bit (!clears) else s
      .next ({ s with sys := { s.sys with cxl := { s.sys.cxl with bias := none } } }.setField 0x020 63 63 0)
    else .next ((rest.foldl (fun s l => s.backInvalidate (128 * l)) s).event .biasCmdDone {})

/-! ### The link (R115, R133) -/

/-- CXL_LINK_DOWN (R133). -/
def execCxlLinkDown (s : State) : Result :=
  .next ({ s with sys := { s.sys with cxl := { s.sys.cxl with up := false } } }.raiseHif 0)

/-- CXL_LINK_UP (R115). -/
def execCxlLinkUp (s : State) : Result :=
  .next { s with sys := { s.sys with cxl := { s.sys.cxl with up := true } } }

/-! ### The DTB (R129, R130) -/

/-- REFERENCE_CLOCK_INPUT_CHANGE (R129): flag tells whether the input is present. -/
def execReferenceClockInputChange (s : State) : Result :=
  .next { s with time := { s.time with external := s.arg.flag } }

/-- DTB_STEP (R130): v is added to NS at the next tick; a write of 0 is ignored. -/
def execDtbStep (s : State) : Result :=
  if s.arg.v = 0#64 then .next s
  else .next ({ s with time := { s.time with step := some (s.time.step.getD 0#64 + s.arg.v) } }.raiseHif 2)

/-- PTM_REQUEST (R130): one exchange begins and T1 is captured; ignored while EN = 0 or an exchange runs. -/
def execPtmRequest (s : State) : Result :=
  if s.field 0x058 0 0 = 0 || s.sys.cxl.ptm.isSome then .next s
  else
    .next ({ s with sys := { s.sys with cxl := { s.sys.cxl with ptm := some s.time.ticks } } }.setReg 0x060 s.time.ns)

/-- PTM_RESPONSE (R130): master time v, propagation delay b. -/
def execPtmResponse (s : State) : Result :=
  match s.sys.cxl.ptm with
  | none => .next s
  | some _ =>
    let s := { s with sys := { s.sys with cxl := { s.sys.cxl with ptm := none } } }
    .next ((((s.setReg 0x068 s.time.ns).setReg 0x070 s.arg.v).setReg 0x078 (placeField 0 32 s.arg.b)).raiseHif 3)

/-- PTM_TIMEOUT (R130): no response within 10 µs. -/
def execPtmTimeout (s : State) : Result :=
  match s.sys.cxl.ptm with
  | none => .next s
  | some t =>
    if s.time.ticks < t + 10 * Config.ticksPerMicrosecond then .next s
    else .next ({ s with sys := { s.sys with cxl := { s.sys.cxl with ptm := none } } }.raiseHif 4)

end Sys2Proof.Machine
end

