-- ==== Sys2Proof/Machine/Sched.lean ====
section
/-!
DEFINITION. The scheduler of a partition: dispatchable jobs and the Sieve (R148 to R150, R155 to R157), placement (R154),
admission (R152), the end of a job (R150, R151), migration (R160) and soft pre-emption (R161, R162, R165).
-/

namespace Sys2Proof.Machine

/-! ### The Sieve (R155 to R157) -/

/-- A job of a launch still stands in the launch pool. -/
def Launch.inPool (l : Launch) (j : Nat) : Bool := !l.cancelled && decide (l.fresh ≤ j) && !l.killed.contains j

/-- A job of a launch is DONE or TERMINATED. -/
def State.jobEnded (s : State) (l : Launch) (j : Nat) : Bool :=
  let id : JobId := ⟨l.part, l.acc, j⟩
  !l.inPool j && (s.job id).isNone && !s.sch.records.any fun r => r.ends == some id

/-- Two regions, each of one job, may touch, and one of them is written (R156). -/
def regionsMeet (a : RegionEntry) (i : Nat) (b : RegionEntry) (j : Nat) : Bool :=
  let x := a.interval i
  let y := b.interval j
  decide (x.1 < y.2) && decide (y.1 < x.2) && (a.acc.getLsbD 1 || b.acc.getLsbD 1)

/-- Job j of launch b waits for job i of launch a (R156). -/
def jobWaits (a : Launch) (i : Nat) (b : Launch) (j : Nat) : Bool :=
  a.regions.any fun x => b.regions.any fun y => regionsMeet x i y j

/-- Job j of a launch is held back by an earlier launch (R156, R157). -/
def State.sieveHolds (s : State) (b : Launch) (j : Nat) : Bool :=
  !b.regions.isEmpty &&
    s.sch.launches.any fun a =>
      a.part == b.part && decide (a.acc < b.acc) && !a.regions.isEmpty &&
        (a.overflowed || b.overflowed ||
          (List.range a.jobs).any fun i => !s.jobEnded a i && jobWaits a i b j)

/-! ### Candidates (R148, R150, R164) -/

/-- A job offered to a die, with the priority level and the queue that offer it. -/
structure Cand where
  level  : Nat
  queue  : Nat
  launch : Launch
  job    : Nat
  deriving DecidableEq, Repr

def Cand.id (c : Cand) : JobId := ⟨c.launch.part, c.launch.acc, c.job⟩

/-- Priority level of a queue (R147). -/
def State.queuePri (s : State) (part queue : Nat) : Nat := s.field (schReg part (0x100 + 8 * queue)) 2 0

/-- Jobs may leave a launch: it is released, its patches have passed. -/
def Launch.open_ (l : Launch) : Bool := l.released && l.patch == .passed

/-- A job of a launch may be dispatched now. -/
def State.dispatchable (s : State) (l : Launch) (j : Nat) : Bool :=
  match s.job ⟨l.part, l.acc, j⟩ with
  | some x =>
    !x.migrating && !x.hardStop && (x.state == .suspended || (x.state == .ready && l.open_))
  | none => l.open_ && l.inPool j && decide (j < l.jobs) && !s.sieveHolds l j

/-- The job numbers of a launch's jobs in a state. -/
def State.jobsIn (s : State) (l : Launch) (st : JobState) : List Nat :=
  ((s.allJobs.filter fun j => j.id.part == l.part && j.id.acc == l.acc && j.state == st).map fun j => j.id.job).filter
    (s.dispatchable l)

/-- The lowest number of a list. -/
def lowest (xs : List Nat) : Option Nat := firstBy (fun a b => decide (a ≤ b)) xs

/-- A launch's candidate (R148, R150): a suspended job first, else the lowest READY one. -/
def State.launchCandidate (s : State) (l : Launch) : Option Nat :=
  match lowest (s.jobsIn l .suspended) with
  | some j => some j
  | none =>
    let fresh := if l.open_ && !l.cancelled then firstFrom (l.jobs - l.fresh) l.fresh (s.dispatchable l) else none
    lowest ((s.jobsIn l .ready) ++ fresh.toList)

/-- A queue's candidate (R148): of the oldest launch that has one. -/
def State.queueCandidate (s : State) (part queue : Nat) : Option Cand :=
  (s.sch.launches.filter fun l => l.part == part && l.queue == queue).findSome? fun l =>
    (s.launchCandidate l).map fun j => ⟨s.queuePri part queue, queue, l, j⟩

/-- The spaces that the started operations of a job reach, each with the crew that its operation captured. -/
def Job.reaches (j : Job) : List (Option Nat × Space) :=
  let of (crew : Option Nat) (g : StreamReg) (os : List Word) : List (Option Nat × Space) :=
    os.map fun o => (crew, g.spaceOf o)
  ((j.copies.filter fun c => c.started).flatMap fun c =>
    let to_ := match c.op with
      | .multicast _ => (c.targets.filter fun t => !t.done).map fun t => (c.crew, Space.peer t.rank)
      | _ => of c.crew c.dst [c.dst.base]
    to_ ++ of c.crew c.src [c.src.base]) ++
    (j.mcmds.filter fun c => c.started).flatMap fun c =>
      of c.crew c.a [c.a.base, c.a.sclBase, c.a.sideBase] ++ of c.crew c.b [c.b.base, c.b.sclBase, c.b.sideBase]

/-- The crew, and the ranks in it, that a started cooperative product waits for: a member for its origin, an origin for the members of
its tile group (R391, R392). -/
def MatrixCmd.partners (c : MatrixCmd) : List (Nat × Nat) :=
  match c.op, c.crew with
  | .coop, some k => (List.range (coopParts c.a)).map fun p => (k, c.tile + coopRows c.a * coopCols c.a * p)
  | _, _ => []

/-- Jobs that stalled accesses, operations and sends wait for, which come first in their level (R164). -/
def State.wantedJobs (s : State) : List JobId :=
  ((s.me :: s.streams).flatMap fun st =>
    (st.frag :: st.frags).filterMap fun f => match f.wait with
      | .peer j _ => some j
      | .barrier _ j => if st.id.owner = .job j then none else some j
      | _ => none) ++
    (s.allJobs.flatMap fun j => j.reaches.filterMap fun x => match x with
      | (some crew, .peer r) => (s.memberOfLaunch j.id crew r).map fun k => k.id
      | _ => none) ++
    (s.allJobs.flatMap fun j =>
      (j.coopAsk.toList.filter fun q => q.answer.isNone).map (fun q => q.origin) ++
        (j.mcmds.flatMap MatrixCmd.partners).filterMap fun x => (s.memberOfLaunch j.id x.1 x.2).map fun k => k.id) ++
    s.guide.sends.map fun r => r.dst

/-- The wanted jobs of a partition that may be dispatched. -/
def State.wantedCandidates (s : State) (part : Nat) : List Cand :=
  s.wantedJobs.filterMap fun id =>
    if id.part = part then
      (s.launch part id.acc).bind fun l =>
        if s.dispatchable l id.job then some ⟨s.queuePri part l.queue, l.queue, l, id.job⟩ else none
    else none

def State.sched (s : State) (part : Nat) : Sched := tableGet s.sch.scheds part ⟨0, [], [], []⟩

def State.modSched (s : State) (part : Nat) (f : Sched → Sched) : State :=
  { s with sch := { s.sch with scheds := tableSet s.sch.scheds part (f (s.sched part)) ⟨0, [], [], []⟩ } }

/-- Queues of a level after the one served last, with wrap-around (R148). -/
def queueOrder (last : Option Nat) : List Nat :=
  let k := match last with
    | some n => n + 1
    | none => 0
  (List.range 64).map fun i => (k + i) % 64

/-- Every candidate in the order in which a decision offers them: by level, wanted jobs first, then round-robin. -/
def State.candidates (s : State) (part : Nat) : List Cand :=
  (List.range 8).flatMap fun p =>
    ((s.wantedCandidates part).filter fun c => c.level == p) ++
      ((queueOrder (tableFind (s.sched part).lastQueue p)).filterMap fun q =>
        if s.queuePri part q = p then s.queueCandidate part q else none)

/-! ### Placement (R154) -/

/-- The dies of a list from the one after a die, with wrap-around. -/
def diesAfter (dies : List Nat) (last : Option Nat) : List Nat :=
  match last with
  | some d => (dies.filter fun x => decide (d < x)) ++ dies.filter fun x => decide (x ≤ d)
  | none => dies

/-- Of the cores of a die that can take the job now, the one with the most free granules; ties to the lowest. -/
def State.bestCore (s : State) (part die : Nat) (n : Need) : Option Nat :=
  let able := (s.coresFor part n.guide).filter fun c => coreDie c == die && roomBeside (s.jobsAt c) n
  firstBy (fun a b =>
    decide (s.freeGranules b n.guide < s.freeGranules a n.guide) ||
      (s.freeGranules a n.guide == s.freeGranules b n.guide && decide (a ≤ b))) able

/-- The dies on which a candidate may be placed. -/
def State.candDies (s : State) (part : Nat) (c : Cand) : List Nat :=
  let dies := ((s.coresFor part c.launch.guide).map coreDie).eraseDups
  match s.job c.id with
  | some j => if j.state == .suspended && !c.launch.mayMigrate then dies.filter fun d => d == j.die else dies
  | none => dies

/-- The core that a candidate goes to (R154). -/
def State.placeFor (s : State) (part : Nat) (c : Cand) : Option Nat :=
  (diesAfter (s.candDies part c) c.launch.lastDie).findSome? fun d => s.bestCore part d c.launch.need

/-- A job that has left the launch pool and holds no core state yet. -/
def newJob (l : Launch) (n order : Nat) : Job :=
  { Job.none with
    id := ⟨l.part, l.acc, n⟩, state := .distributed, order := order, guide := l.guide, sup := l.sup, ctx := l.ctx,
    tag := l.tag, kimage := l.kimage,
    ctxBase := l.ctxArea + BitVec.ofNat 64
      (n * (0xB0000 + 65536 * ((l.pword.extractLsb' 8 8).toNat + (l.pword.extractLsb' 16 8).toNat))),
    param := l.param, nvec := l.header.nvec, pword := l.pword, rr := l.flags.getLsbD 5 }

/-- A launch whose job n has been taken from the pool. -/
def Launch.take (l : Launch) (n : Nat) : Launch :=
  if n = l.fresh then
    let gone := l.killed
    let next := (firstFrom (gone.length + 1) (n + 1) fun k => !gone.contains k).getD (n + 1)
    { l with fresh := next, killed := gone.filter fun k => decide (next ≤ k) }
  else { l with killed := n :: l.killed }

/-- A candidate is DISTRIBUTED to a core. -/
def distribute (s : State) (c : Cand) (core : Nat) : State :=
  let here (j : Job) : Job :=
    { j with state := .distributed, core := some core, die := coreDie core, order := s.ticket, since := s.time.ticks }
  let s := match s.job c.id with
    | some _ => s.modJob c.id here
    | none => (s.setJobs (s.jobs ++ [here (newJob c.launch c.job s.ticket)])).modLaunch c.launch.part c.launch.acc
        fun l => l.take c.job
  let s := s.nextTicket.modLaunch c.launch.part c.launch.acc fun l => { l with lastDie := some (coreDie core) }
  s.modSched c.launch.part fun d =>
    { d with
      lastQueue := tablePut d.lastQueue c.level c.queue, soft := d.soft.filter fun p => p.1 != c.id }

/-! ### Soft pre-emption (R161, R162, R165) -/

/-- A job is asked to give way: it runs on; t is when the request escalates, 0 for never. An earlier request's time
stands (R161). -/
def Job.mark (j : Job) (t : Nat) : Job :=
  { j with softMark := match j.softMark with
      | some 0 => some t
      | some n => some n
      | .none => some t }

/-- Resident jobs that a waiting candidate may ask to give way. -/
def State.victims (s : State) (part : Nat) (c : Cand) : List Job :=
  (s.allJobs.filter fun j =>
    j.id.part == part && j.state == .resident && j.guide == c.launch.guide && decide (c.level < j.priority) &&
      match j.core with
      | some k => (s.candDies part c).contains (coreDie k) &&
          roomBeside ((s.jobsAt k).filter fun x => x.id != j.id) c.launch.need
      | none => false)

/-- One request on behalf of a candidate that is left waiting (R162). -/
def softRequest (s : State) (part : Nat) (c : Cand) : State :=
  if s.field (schReg part 0x000) 0 0 = 0 || (s.sched part).soft.any (fun p => p.1 == c.id) then s
  else
    match firstBy (fun (a b : Job) =>
        decide (b.priority < a.priority) || (a.priority == b.priority && decide (b.order ≤ a.order))) (s.victims part c) with
    | none => s
    | some j =>
      let t := s.time.ticks + Config.ticksPerMicrosecond * s.field (schReg part 0x010) 31 0
      (s.modJob j.id fun j => j.mark (max t 1)).modSched part fun d => { d with soft := (c.id, j.id) :: d.soft }

/-- A request stands while its target is RESIDENT and the waiting candidate's level is strictly higher (R162, R165). -/
def dropRequests (s : State) (part : Nat) : State :=
  let keep (p : JobId × JobId) : Bool :=
    match s.launch part p.1.acc, s.job p.2 with
    | some l, some j => j.state == .resident && decide (s.queuePri part l.queue < j.priority)
    | _, _ => false
  let gone := (s.sched part).soft.filter fun p => !keep p
  let s := s.modSched part fun d => { d with soft := d.soft.filter keep }
  gone.foldl (fun s p =>
    if (s.sched part).soft.any (fun q => q.2 == p.2) then s
    else s.modJob p.2 fun j => { j with softMark := if s.quiescing part then some 0 else none }) s

/-! ### SCHED_DISPATCH (R148, R149) -/

/-- The candidates are offered in turn; those that no core can take ask for room, and with BACKFILL = 0 hold back their
kind at lower levels. -/
def offer (s : State) (part : Nat) (backfill : Bool) (blocked : List (Bool × Nat)) (cs : List Cand) : State :=
  match cs with
  | [] => s
  | c :: rest =>
    if blocked.any fun b => b.1 == c.launch.guide && decide (b.2 < c.level) then offer s part backfill blocked rest
    else
      match s.placeFor part c with
      | some core => distribute s c core
      | none =>
        offer (softRequest s part c) part backfill
          (if backfill then blocked else (c.launch.guide, c.level) :: blocked) rest

/-- The launches of a partition that carry a tag are discarded as far as their jobs have not been dispatched (R124, R150). -/
def cancelTag (s : State) (part : Nat) (tag : Word) : State :=
  ((s.sch.launches.filter fun l => l.part == part && l.tag == tag).map fun l => l.acc).foldl
    (fun s acc => cancelLaunch s part acc false) s

/-- SCHED_DISPATCH (R148): one decision of partition a's scheduler; with the flag, a mailbox's cancel of the launches with
TAG v (R124; how the dispatcher hands it over is not stated, log entry 30). -/
def execSchedDispatch (s : State) : Result :=
  let part := s.arg.a
  if !s.isLowest part then .next s
  else if s.arg.flag then .next (cancelTag s part s.arg.v)
  else if s.quiescing part || s.sys.halted.contains part then .next s
  else
    let s := dropRequests s part
    .next (offer s part (s.field (schReg part 0x000) 1 1 == 1) [] (s.candidates part))

/-! ### JOB_ADMIT (R152) -/

/-- The patches of a launch laid over a section's bytes (R194). -/
def patchSection (ps : List Patch) (e : Nat) (m : List Host.Cell) : List Host.Cell :=
  (ps.filter fun p => p.engine == e).foldl
    (fun m p => cellsSet m (4 * p.word) (leBytes 4 (patchWord p (cellsNat m (4 * p.word) 4)))) m

/-- Engine e of a section table. -/
def engineOf (e : Nat) : Engine :=
  match e with
  | 0 => .control
  | 1 => .vector
  | 2 => .matrix
  | _ => .copy

/-- The instruction stores filled from the image (R194, R261), section by section; then what follows. -/
def fillStores (s : State) (l : Launch) (es : List Nat) (done : List Section) (k : State → List Section → State) :
    State :=
  match es with
  | [] => k s done
  | e :: rest =>
    let (off, size, entry) := l.header.sections.getD e (0, 0, 0)
    if size = 0 then fillStores s l rest done k
    else
      fetchRead s l (l.kimage + BitVec.ofNat 64 off) size fun s bs =>
        let sec : Section := ⟨engineOf e, l.kimage + BitVec.ofNat 64 off, size, entry,
          patchSection l.patches e (cellsSet [] 0 bs)⟩
        fillStores s l rest (done ++ [sec]) k

/-- FPCTL at an entry point (R197, R275): the partition word's flush flag and rounding mode. -/
def startFpctl (pword : BitVec 32) : BitVec 4 := pword.extractLsb' 24 1 ++ pword.extractLsb' 25 3

/-- A stream at its entry point (R241). -/
def startStream (j : Job) (l : Launch) (strm : Nat) (x : Section) : Stream :=
  let st := Stream.start ⟨.job j.id, strm⟩ x.engine (if x.engine = .vector then BitVec.allOnes 128 else 0#128)
    (x.base + BitVec.ofNat 64 x.entry)
  let st := { st with fpctl := startFpctl j.pword }
  ((st.setS 1#6 j.param).setS 2#6 (BitVec.ofNat 64 j.id.job)).setS 3#6 (j.kimage + BitVec.ofNat 64 l.header.dataOff)

/-- Stream numbers that a section starts (R195). -/
def streamNumbers (e : Engine) (nvec : Nat) : List Nat :=
  match e with
  | .control => [0]
  | .vector => (List.range nvec).map fun v => v + 1
  | .matrix => [17]
  | .copy => [18]

/-- Every stream of a job at its entry point. -/
def startStreams (j : Job) (l : Launch) : List Stream :=
  j.sections.flatMap fun x => (streamNumbers x.engine j.nvec).map fun n => startStream j l n x

/-- The lowest job slot of a core that no resident job has. -/
def State.freeSlot (s : State) (core : Nat) : Nat :=
  (firstBelow 4 fun k => !(s.residentAt core).any fun j => j.slot == k).getD 0

/-- The Canary's budget of a job (R168): never below the floor. -/
def State.budgetOf (s : State) (l : Launch) : Nat :=
  max 65536 (if l.budget = 0 then s.field (schReg l.part 0x008) 47 0 else l.budget)

/-- Ranges of a job's context area, by offset and size, zeroed before it is admitted to a core; what follows comes once all are. A range
that is not mapped, where the manual gives no outcome, stays as it is (log entry 100). -/
def zeroArea (s : State) (j : Job) (core : Nat) (xs : List (Nat × Nat)) (k : State → State) : State :=
  match xs with
  | [] => k (s.answered ⟨.job j.id, 0⟩ 1)
  | x :: rest =>
    match writeVia s ({ j with core := some core }.via 5 0 1) (j.ctxBase + BitVec.ofNat 64 x.1) (List.replicate x.2 0#8) with
    | (.ok _, s) => zeroArea s j core rest k
    | (.fault _ _ _, s) => zeroArea s j core rest k
    | (_, s) => s

/-- The split-table areas of a launch's vector streams, in a job's context area (R214). -/
def Launch.splitAreas (l : Launch) : List (Nat × Nat) :=
  if (l.header.sections.getD 1 (0, 0, 0)).2.1 = 0 then []
  else (List.range l.header.nvec).map fun v => (0x10000 + 0x2000 * v, 8192)

/-- The slots from which a job's streams take their on-core entries back (R203). -/
def State.savedSlots (s : State) (id : JobId) : List (Nat × Nat) :=
  ((s.streamsOf id).filter fun st => st.isVector && st.bracket.isNone && !st.undiverged).map fun st =>
    (0x10000 + 0x2000 * (st.id.strm - 1) + 32 * 240, 512)

/-- A job takes its slot on a core. -/
def Job.seat (s : State) (l : Launch) (core : Nat) (j : Job) : Job :=
  { j with
    state := .resident, core := some core, die := coreDie core, slot := s.freeSlot core, order := s.ticket,
    priority := s.queuePri l.part l.queue, softMark := Option.none }

/-- A core's memory of what it issued last, for a job that leaves a slot to another (R206). -/
def State.forgetIssues (s : State) (core slot : Nat) : State :=
  { s with lastIssue := [Engine.control, .vector, .matrix, .copy].foldl (fun t e => tableErase t (issueKey core slot e)) s.lastIssue }

/-- A fresh job begins (R152): its split-table areas hold no entry and read as zeros (R203). -/
def admitFresh (s : State) (l : Launch) (id : JobId) (core : Nat) : State :=
  fillStores s l [0, 1, 2, 3] [] fun s secs =>
  zeroArea s ((s.job id).getD Job.none) core l.splitAreas fun s =>
    let s := (acquireAt s core 5).forgetIssues core (s.freeSlot core)
    let begin_ (j : Job) : Job :=
      { j.seat s l core with
        canary := 0, budget := s.budgetOf l, ext := false, tokens := [], lateGives := [], gregs := [], panels := [],
        scratch := [], resident := [], sections := secs, param := l.param, rr := l.flags.getLsbD 5 }
    let s := s.nextTicket.modJob id begin_
    match s.job id with
    | some j => { s with streams := s.streams ++ startStreams j l }
    | none => s

/-- A fragment or copy for which RESUME was given while its job was suspended goes on (R211, R313). -/
def resumeParked (st : Stream) : Stream :=
  (st.frag :: st.frags).foldl
    (fun t f => (f.parks.filter fun p => p.resumed).foldl (fun t p => resumeStream t f.id p.no) t) st

/-- The range locks saved with a job stand on its core again, all or none (R163, R400); until they do none of its streams
issues. -/
def State.restoreLocks (s : State) (id : JobId) (core : Nat) : State :=
  let saved := s.locks.filter fun l => l.job == id && l.core.isNone
  if 64 < (s.locks.filter fun l => l.core == some core).length + saved.length then s
  else
    { s with locks := s.locks.map fun (k : RangeLock) =>
        if k.job == id && k.core.isNone then { k with core := some core } else k }

/-- A suspended job goes on (R163): its parked copies hold their range locks again, and what was resumed or killed
while it was suspended is now (R211). -/
def admitSuspended (s : State) (l : Launch) (id : JobId) (core : Nat) : State :=
  zeroArea s ((s.job id).getD Job.none) core (s.savedSlots id) fun s =>
  let s := (acquireAt s core 5).forgetIssues core (s.freeSlot core)
  let back (j : Job) : Job :=
    { j.seat s l core with
      preempt := false,
      copies := j.copies.map fun c => match c.parked with
        | some p => if p.resumed then { c with parked := none } else c
        | none => c }
  let s := s.nextTicket.modJob id back
  let s := s.restoreLocks id core
  let s := s.mapStreams (fun st => st.ofJob id) resumeParked
  match s.job id with
  | some j =>
    if j.killWanted then
      (stopJob s id).postLater ⟨id.part, jobRecord s j causeKilled, .nothing, some id, none⟩
    else s
  | none => s

/-- A distributed job's launch lets it be admitted: a fresh one once its patches have passed, a suspended one always (R153). -/
def State.mayAdmit (s : State) (j : Job) : Bool :=
  j.state == .distributed && !j.migrating && !j.hardStop && !s.quiescing j.id.part &&
    !s.sys.halted.contains j.id.part &&
    match s.launch j.id.part j.id.acc with
    | some l => l.patch == .passed || !(s.streamsOf j.id).isEmpty
    | none => false

/-- The core that can take a distributed job now: its own, or after a migration the best of its die. -/
def State.seatFor (s : State) (j : Job) : Option Nat :=
  match j.core with
  | some c => if roomBeside (s.residentAt c) j.need then some c else none
  | none => s.bestCore j.id.part j.die j.need

/-- Admission order of a die (R152): by queue priority, then by distribution. -/
def State.admissionOrder (s : State) (die : Nat) : List Job :=
  let pri (j : Job) : Nat := match s.launch j.id.part j.id.acc with
    | some l => s.queuePri j.id.part l.queue
    | none => 8
  sortBy (fun a b => decide (pri a < pri b) || (pri a == pri b && decide (a.order ≤ b.order)))
    (s.allJobs.filter fun j => j.die == die && s.mayAdmit j)

/-- JOB_ADMIT (R152): die a admits the first of its distributed jobs that a core can take. -/
def execJobAdmit (s : State) : Result :=
  let s := s.rest
  let pick := (s.admissionOrder s.arg.a).findSome? fun j => (s.seatFor j).map fun c => (j, c)
  match pick with
  | none => .next s
  | some (j, core) =>
    match s.launch j.id.part j.id.acc with
    | none => .next s
    | some l =>
      .next (if (s.streamsOf j.id).isEmpty then admitFresh s l j.id core else admitSuspended s l j.id core)

/-! ### JOB_DONE (R150, R151, R196) -/

/-- Every stream of the job has ended, and no operation that it issued is left (R196). -/
def State.jobFinished (s : State) (j : Job) : Bool :=
  j.state == .resident && !j.hardStop && (s.streamsOf j.id).all (fun st => st.ended) && j.copies.isEmpty &&
    j.mcmds.isEmpty && !(s.net.txns.any fun t => t.strm.owner == .job j.id) &&
    !(s.guide.sends.any fun r => r.src == j.id)

/-- JOB_DONE (R151): arg.job has ended; or its launch waits to complete. -/
def execJobDone (s : State) : Result :=
  let id := s.arg.job
  let s := s.rest
  match s.job id with
  | none => .next (completeLaunch s id.part id.acc)
  | some j =>
    if !s.jobFinished j then .next s
    else
      let s := releaseJob s j
      if jobReleased s j then .next (concludeJob s id false) else .next s

/-! ### Migration (R160) -/

/-- Reference ticks in 4 us. -/
def fourMicros : Nat := 4 * Config.ticksPerMicrosecond

/-- Free job slots of a die's cores in a partition. -/
def State.freeSlots (s : State) (part die : Nat) (guide : Bool) : Nat :=
  (((s.coresFor part guide).filter fun c => coreDie c == die).map fun c => 4 - (s.jobsAt c).length).sum

/-- A guide stream waits to send to the job: it stays on a die attached to that guide die (R180). -/
def State.boundTo (s : State) (id : JobId) (target : Nat) : Bool :=
  (s.me :: s.streams).any fun st =>
    (st.frag :: st.frags).any fun f => match f.wait, st.id.owner with
      | .peer k _, .job o =>
        k == id && match (s.job o).bind fun x => x.core with
          | some c => coreKind c == .guide && target / 2 + 4 != coreDie c
          | none => false
      | _, _ => false

/-- Jobs of a die that may migrate and have waited 4 us or more, the most recently distributed or suspended first (suspend
gives a suspended job a new place in the order). -/
def State.overdue (s : State) (part die : Nat) : List Job :=
  sortBy (fun a b => decide (b.order ≤ a.order)) (s.allJobs.filter fun j =>
    j.id.part == part && j.die == die && !j.migrating && (j.state == .distributed || j.state == .suspended) &&
      !j.hardStop && decide (j.since + fourMicros ≤ s.time.ticks) &&
      match s.launch part j.id.acc with
      | some l => l.mayMigrate
      | none => false)

/-- A partition's dies of a core kind. -/
def State.diesOf (s : State) (part : Nat) (guide : Bool) : List Nat := ((s.coresFor part guide).map coreDie).eraseDups

/-- Of the dies that have advertised to a die and are the partition's still, the one with the most free slots; ties to the lowest. -/
def State.bestAdvert (s : State) (part die : Nat) : Option (Nat × Nat) :=
  firstBy (fun (a b : Nat × Nat) => decide (b.2 < a.2) || (a.2 == b.2 && decide (a.1 ≤ b.1)))
    (((s.diesOf part (decide (4 ≤ die))).filter fun d => d != die).filterMap fun d =>
      (tableFind (s.sched part).adverts (8 * die + d)).bind fun n => if n = 0 then none else some (d, n))

/-- Quarters that a job lies in: its core's, or where it holds none its partition's part of the die. -/
def State.quartersOf (s : State) (j : Job) : List Nat :=
  match j.core with
  | some c => [coreQuarter c]
  | none => (if j.die < 4 then [j.die] else [2 * (j.die - 4), 2 * (j.die - 4) + 1]).filter fun q => s.ownerOf q == j.id.part

/-- A job is packed and on its way to a die (R160); the quarters that it leaves stay busy until it has arrived (R142). -/
def packJob (s : State) (j : Job) (die : Nat) : State :=
  let part := j.id.part
  let s := s.modJob j.id fun j => { j with migrating := true, leaving := s.quartersOf j, core := none, die := die }
  (s.count (schReg part 0x048) 48 1).sendControl (s.controlStop part j.die) (s.controlStop part die) .migrationReceive
    { job := j.id }

/-- A die's free slots are told to the partition's other dies (R160). -/
def advertise (s : State) (part die : Nat) : State :=
  let n := s.freeSlots part die (decide (4 ≤ die))
  ((s.diesOf part false ++ s.diesOf part true).filter fun d => d != die).foldl (fun s d =>
    s.sendControl (s.controlStop part die) (s.controlStop part d) .migrationAdvert
      { a := part, b := die, c := n, flag := true, v := BitVec.ofNat 64 d }) s

/-- MIGRATION_ADVERT (R160): die b of partition a advertises its free slots, and packs jobs when it is overloaded; with the flag its
c free slots become known to die v. -/
def execMigrationAdvert (s : State) : Result :=
  let part := s.arg.a
  let die := s.arg.b
  if s.arg.flag then
    .next (s.modSched part fun d => { d with adverts := tablePut d.adverts (8 * s.arg.v.toNat + die) s.arg.c })
  else if s.field (schReg part 0x038) 8 8 = 0 || !s.isLowest part || !(s.diesOf part (decide (4 ≤ die))).contains die then .next s
  else
    let s := advertise s part die
    let jobs := s.overdue part die
    if jobs.length < max 1 (s.field (schReg part 0x038) 7 0) then .next s
    else
      match s.bestAdvert part die with
      | none => .next s
      | some (to_, n) =>
        .next (((jobs.filter fun j => !s.boundTo j.id to_).take n).foldl (fun s j => packJob s j to_) s)

/-- MIGRATION_RECEIVE (R160): arg.job takes its place in the admission order of the die that received it. -/
def execMigrationReceive (s : State) : Result :=
  .next (s.nextTicket.modJob s.arg.job fun j =>
    if j.migrating then { j with migrating := false, leaving := [], order := s.ticket, since := s.time.ticks } else j)

/-- SOFT_PREEMPT_TIMEOUT (R161): a job asked by the scheduler to give way has not reached DONE in time. -/
def execSoftPreemptTimeout (s : State) : Result :=
  .next (s.modJob s.arg.job fun j =>
    match j.softMark with
    | some t => if j.state == .resident && decide (0 < t) && decide (t ≤ s.time.ticks) && !j.hardStop then
        { j with preempt := true } else j
    | none => j)

end Sys2Proof.Machine
end

