-- ==== Sys2Proof/Machine/Sys.lean ====
section
/-!
DEFINITION. The SYS group (R308 to R312, R315) with its events: NOP to MTS, TLBI and its acknowledgements, the end of a
SLEEP. EXIT and MEET are in Machine/Diverge.lean, RESUME and KILL in Machine/Service.lean.
-/

namespace Sys2Proof.Machine

/-- NOP (R309). -/
def execNop (s : State) : Result := .next s.advance

/-- TRAP (R309): parks after itself; ADDR holds A. -/
def execTrap (a : SReg) (s : State) : Result := trap s { cause := causeTrap, addr := s.sreg a }

/-- BKPT (R309). -/
def execBkpt (s : State) : Result := trap s { cause := causeBkpt }

/-- YIELD (R206, R309): under GTO the stream becomes the youngest, and is not the one that issued last. -/
def execYield (s : State) : Result :=
  let t := s.advance
  if s.me.isVector && !s.myJob.rr then
    .next { t.nextTicket with
      me := { t.me with age := s.ticket + 1 },
      lastIssue := tableErase t.lastIssue (issueKey s.core s.myJob.slot .vector) }
  else .next t

/-! ### SLEEP and WATCH -/

/-- SLEEP (R310): a fired watch takes precedence; A of all ones sets no time limit. -/
def execSleep (d a : SReg) (s : State) : Result :=
  let deadline := match s.me.frag.wait with
    | .sleep t _ => t
    | _ => s.sreg a
  if s.me.fired then
    .next (({ s with me := { s.me with fired := false } }.setS d 1#64).advance)
  else if deadline ≠ BitVec.allOnes 64 && decide (deadline.toNat ≤ (s.dtb (coreDie s.core)).toNat) then
    .next ((s.setS d 0#64).advance)
  else .next (s.waitFor (.sleep deadline d))

/-- SLEEP_DEADLINE (R310): the die's copy has reached the deadline of fragment a of a stream; while its job is suspended nothing is
compared. -/
def execSleepDeadline (s : State) : Result :=
  match s.stream s.arg.strm with
  | none => .next s
  | some _ =>
    let s := s.select s.arg.strm s.arg.a
    match s.me.frag.wait with
    | .sleep deadline d =>
      if s.me.frag.id ≠ s.arg.a || !s.ownerIssues s.me.id.owner || s.me.fired || deadline = BitVec.allOnes 64 ||
          (s.dtb (coreDie s.core)).toNat < deadline.toNat then .next s
      else .next ((s.setS d 0#64).advance)
    | _ => .next s

/-- A slice that holds the monitor of a line, numbered over both tiers (R311). -/
def watchSlice (line : Nat) : Nat := if inLpddr (128 * line) then 384 + lpddrSlice (lbnOf (128 * line)) else hbmSlice (128 * line)

/-- Arming at a full slice fires and frees the oldest of its 64 monitors (R311). -/
def makeRoom (s : State) (line : Nat) : State :=
  let here := (s.me :: s.streams).filterMap fun st =>
    st.watch.bind fun w => if 128 * w.line < hostLoc && watchSlice w.line == watchSlice line then some (st.id, w.ticket) else none
  if here.length < 64 then s
  else
    match firstBy (fun (a b : StreamId × Nat) => decide (a.2 ≤ b.2)) here with
    | some o => s.modStream o.1 fun st => { st with watch := none, fired := true }
    | none => s

/-- The stream's monitor armed on a line. -/
def State.arm (s : State) (line : Nat) : State :=
  { s.nextTicket with me := { s.me with watch := some ⟨line, s.ticket⟩, fired := false } }

/-- WATCH (R311). -/
def execWatch (a : SReg) (s : State) : Result :=
  let va := s.sreg a
  let s0 := { s with me := { s.me with watch := none } }
  match s0.translate va 1 .read with
  | (.fault c, _) => trap s (accessFault ⟨.global, .read, 1, 1, false⟩ c va)
  | (.migrating page, _) => .next (s.waitPage page)
  | (.walking, u) => .next { u with me := s.me }.stall
  | (.ok x, s) =>
    match x.apt with
    | 0 => .next ((makeRoom s (x.pa / 128)).arm (x.pa / 128)).advance
    | 1 => .next ((makeRoom s (x.pa / 128)).arm (x.pa / 128)).advance
    | 2 =>
      let line := (hostLoc + x.pa) / 128
      let held := s.sys.cxl.shared.contains (s.core, x.pa / 128)
      let s := if held then s
        else { s with sys := { s.sys with cxl := { s.sys.cxl with shared := (s.core, x.pa / 128) :: s.sys.cxl.shared } } }
      .next (s.arm line).advance
    | _ => .next ({ s with me := { s.me with fired := true } }.advance)

/-- SNAP (R144, R309). -/
def execSnap (s : State) : Result :=
  if decide (1 ≤ s.priv) || s.field (snpReg 0x000) 5 5 = 1 then .next (snapTrigger s 0).advance
  else .next s.advance

/-! ### Special registers (R312) -/

/-- A register that only vector streams hold. -/
def vectorSpecial (n : Nat) : Bool := n == 11 || n == 12 || n == 13 || n == 14 || n == 18

/-- TOKARM as a word. -/
def Arm.word (m : Arm) : Word :=
  placeField 13 1 (natOfBool m.te) ||| placeField 8 3 m.ttok.toNat ||| placeField 5 1 (natOfBool m.ge) |||
    placeField 0 3 m.gtok.toNat

/-- The value of a special register. -/
def State.special (s : State) (n : Nat) : Option Word :=
  let j := s.myJob
  let mine (v : Word) : Word := if s.isMgmt then 0#64 else v
  if vectorSpecial n && !s.me.isVector then none
  else
    match n with
    | 0 => some (mine (BitVec.ofNat 64 j.id.job))
    | 1 => some (mine (BitVec.ofNat 64 (j.id.acc % 2 ^ 32)))
    | 2 => some (mine (BitVec.ofNat 64 s.me.id.strm))
    | 3 => some (BitVec.ofNat 64 (coreIdWord s.core))
    | 4 => some (if s.isMgmt then BitVec.allOnes 64 else ((j.current.map fun c => BitVec.ofNat 64 c).getD (BitVec.allOnes 64)))
    | 5 =>
      some (if s.isMgmt then BitVec.allOnes 64
        else
          (((j.current.bind fun c => (j.crews.find? fun h => h.crew == c).map fun h => h.rank).map
            fun r => BitVec.ofNat 64 r).getD (BitVec.allOnes 64)))
    | 6 => some (s.dtb (coreDie s.core))
    | 7 => some (BitVec.ofNat 64 (s.cycleOf s.core))
    | 8 => some (mine j.param)
    | 9 => some (mine (BitVec.ofNat 64 j.grant))
    | 10 => some (mine j.ctxBase)
    | 11 => some (s.me.rrb.zeroExtend 64)
    | 12 => some (s.me.qstat.zeroExtend 64)
    | 13 => some (s.me.frag.mask.extractLsb' 0 64)
    | 14 => some (s.me.frag.mask.extractLsb' 64 64)
    | 15 => some s.me.arm.word
    | 16 => some (boolWord j.rr)
    | 17 => some (s.me.fpctl.zeroExtend 64)
    | 18 => some (s.me.srgen.zeroExtend 64)
    | 19 => some (s.me.dtbFrac.zeroExtend 64)
    | 20 => some (BitVec.ofNat 64 s.priv)
    | _ => none

/-- What reading a special register does: a read of DTBNS takes the fraction of that copy (R312). -/
def State.afterMfs (s : State) (n : Nat) : State :=
  if n = 6 then { s with me := { s.me with dtbFrac := s.time.frac } } else s

/-- MFS (R312). -/
def execMfs (d n : BitVec 6) (s : State) : Result :=
  match s.special n.toNat with
  | some v => .next (((s.afterMfs n.toNat).setS d v).advance)
  | none => trapIllegal s

/-- A special register written field by field; none where the write is refused. -/
def State.setSpecial (s : State) (n : Nat) (v : Word) : Option State :=
  if vectorSpecial n && !s.me.isVector then none
  else
    match n with
    | 4 =>
      some (s.setJob fun j => if j.crews.any fun h => v = BitVec.ofNat 64 h.crew then { j with current := some v.toNat } else j)
    | 11 => some { s with me := { s.me with rrb := v.extractLsb' 0 5 } }
    | 12 => some { s with me := { s.me with qstat := v.extractLsb' 0 35 } }
    | 15 =>
      some { s with me := { s.me with
        arm := ⟨bitOf v 13, v.extractLsb' 8 3, bitOf v 5, v.extractLsb' 0 3, none⟩ } }
    | 16 => some (if s.isMgmt then s else s.setJob fun j => { j with rr := bitOf v 0 })
    | 17 => some { s with me := { s.me with fpctl := v.extractLsb' 0 4 } }
    | 18 =>
      let x := v.extractLsb' 0 32
      some { s with me := { s.me with srgen := if x = 0#32 then 1#32 else x } }
    | _ => none

/-- MTS (R312). -/
def execMts (n b : BitVec 6) (s : State) : Result :=
  match s.setSpecial n.toNat (s.sreg b) with
  | some s => .next s.advance
  | none => trapIllegal s

/-! ### TLBI (R40, R315) -/

/-- Fields of TLBI's control word. -/
def tlbiScope (v : Word) : Nat := bitsOf v 18 16
def tlbiReserved (v : Word) : Bool := bitsOf v 63 22 ≠ 0 || bitOf v 19 || bitsOf v 15 13 ≠ 0

/-- Context that a TLBI names: 4,096 for every one. -/
def tlbiCtx (v : Word) : Nat := if bitOf v 12 then 4096 else bitsOf v 11 0

/-- The structures of a core set: their TLBs, and from .clu on the cluster TLBs, from .die on the walk caches. -/
def tlbPlacesOf (cores : List Nat) (scope : Nat) : List TlbPlace :=
  cores.map .core ++ (if 2 ≤ scope then (cores.map coreCluster).eraseDups.map .cluster else []) ++
    (if 3 ≤ scope then (cores.map coreDie).eraseDups.map .walkCache else [])

/-- Every core of the module. -/
def allCores : List Nat := List.range 548

/-- The structures that a TLBI at a scope reaches from a core (R315); at .part those of a partition's cores. -/
def State.tlbiPlaces (_s : State) (core part scope : Nat) (w : BitVec 64) : List TlbPlace :=
  match scope with
  | 1 => [.core core]
  | 2 => tlbPlacesOf (allCores.filter fun c => coreCluster c == coreCluster core) 2
  | 3 => tlbPlacesOf (allCores.filter fun c => coreDie c == coreDie core) 3
  | 4 => tlbPlacesOf (allCores.filter fun c => decide (c < 544) && ownerIn w (coreQuarter c) == part) 4
  | _ => tlbPlacesOf allCores 5

/-- Accesses parked on a page that the TLBI covers, by range (log entry 165), context and the die where they are parked, re-walk
(R43). -/
def releaseParked (s : State) (part ctx lo hi : Nat) (places : List TlbPlace) : State :=
  let hits (p c die : Nat) (page : PageRef) : Bool :=
    p == part && (ctx == 4096 || c == ctx) && decide (lo < page.base + 2 ^ page.bits) && decide (page.base < hi) &&
      places.contains (.walkCache die)
  let covers (j : Job) (page : PageRef) : Bool := hits j.id.part j.ctx.toNat (coreDie (j.core.getD 0)) page
  let s := { s with mm := { s.mm with pageWaits := s.mm.pageWaits.filter fun w => !hits w.part w.ctx w.die w.page } }
  let wake (j : Job) (f : Frag) : Frag :=
    match f.wait with
    | .migrating page n => if covers j page then { f with wait := .stalled n } else f
    | _ => f
  s.allJobs.foldl
    (fun s j => s.mapStreams (fun st => st.ofJob j.id) fun st =>
      { st with frag := wake j st.frag, frags := st.frags.map (wake j) }) s

/-- TLBI (R315): every structure in the scope is told once; the stream goes on when each has acknowledged. -/
def execTlbi (d a b : SReg) (s : State) : Result :=
  let v := s.sreg d
  let base := (s.sreg a).toNat
  let len := (s.sreg b).toNat
  let scope := tlbiScope v
  let lo := if len = 0 then 0 else base
  let hi := if len = 0 then 2 ^ 57 else min (base + len) (2 ^ 57)
  let w := s.ownerWord
  let part := if s.isMgmt then bitsOf v 21 20 else s.part
  let ctx := tlbiCtx v
  if s.priv = 0 || tlbiReserved v || scope = 0 || 5 < scope || 2 ^ 57 ≤ base || (s.isMgmt && scope < 5) ||
      (s.isMgmt && ownerIn w part ≠ part) then trapIllegal s
  else
    match s.me.frag.wait with
    | .shootdown _ =>
      if s.mm.tlbi.any fun t => t.2 == (part, ctx, lo, hi) then .next s
      else .next (releaseParked s part ctx lo hi (s.tlbiPlaces s.core part scope w)).advance
    | _ =>
      let places := s.tlbiPlaces s.core part scope w
      let s := { s with mm := { s.mm with tlbi := s.mm.tlbi ++ places.map fun p => (p, part, ctx, lo, hi) } }
      .next ((places.foldl (fun s p => s.event .tlbiAck { place := p }) s).waitFor (.shootdown s.ticket)).nextTicket

/-- Cores that a structure serves. -/
def placeCores (p : TlbPlace) : List Nat :=
  match p with
  | .core c => [c]
  | .cluster k => allCores.filter fun c => coreCluster c == k
  | .walkCache d => allCores.filter fun c => coreDie c == d

/-- An access of a stream of the cores that a structure serves is under way to the range, or to the page of an entry that the
structure has dropped for the TLBIs it has to acknowledge (R40). -/
def State.rangeBusy (s : State) (p : TlbPlace) (lo hi : Nat) : Bool :=
  let pages := (s.mm.tlbiPages.filter fun x => x.1 == p).map fun x => x.2
  let hit (a : Nat) : Bool :=
    (decide (lo ≤ a) && decide (a < hi)) || pages.any fun g => decide (g.base ≤ a) && decide (a < g.base + 2 ^ g.bits)
  s.net.txns.any fun t =>
    match t.strm.owner with
    | .mgmt _ => false
    | .job j => match (s.job j).bind fun x => x.core with
      | some c => (placeCores p).contains c && hit t.va.toNat
      | none => false

/-- An entry of a page overlaps the range of a TLBI for a context. -/
def overlapsRange (part ctx lo hi ePart eCtx page bits : Nat) : Bool :=
  ePart == part && (ctx == 4096 || eCtx == ctx) && decide (page * 2 ^ bits < hi) && decide (lo < (page + 1) * 2 ^ bits)

/-- A structure serves a requester: a core TLB its core, a cluster TLB its cluster, a walker pool every requester of its die. -/
def placeServes (p : TlbPlace) (m : Miss) : Bool :=
  match p with
  | .core c => m.who == c
  | .cluster k => decide (m.who < 1000) && coreCluster m.who == k
  | .walkCache d => m.die == d

/-- The answer that a walk has left lies in the range of a TLBI; one that found a leaf counts by the leaf's page. -/
def Miss.inRange (part ctx lo hi : Nat) (m : Miss) : Bool :=
  match m.ended with
  | some (some l) => overlapsRange part ctx lo hi m.part m.ctx (m.va / 2 ^ l.bits) l.bits
  | _ => overlapsRange part ctx lo hi m.part m.ctx (m.va / 65536) 16

/-- The entries and the walks' answers that one structure drops, and the dirty lines that the caches it serves write back (R40). A
walk in flight reads its entries when it ends, so that it begins anew behind the TLBI (R39). -/
def applyTlbi (s : State) (p : TlbPlace) (part ctx lo hi : Nat) : State :=
  let s := match p with
    | .core c => writeBackCluster (drainCore s c) (coreCluster c)
    | .cluster k => writeBackCluster ((placeCores p).foldl drainCore s) k
    | .walkCache _ => s
  let gone (t : TlbEntry) : Bool := t.place == p && overlapsRange part ctx lo hi t.part t.ctx t.page t.bits
  let pages := ((s.mm.tlb.filter gone).map fun t => (p, (⟨t.page * 2 ^ t.bits, t.bits⟩ : PageRef))).filter fun x =>
    !s.mm.tlbiPages.contains x
  { s with mm := { s.mm with
      tlb := s.mm.tlb.filter fun t => !gone t,
      walks := s.mm.walks.filter fun t =>
        !(p == .walkCache t.die && overlapsRange part ctx lo hi t.part t.ctx t.page t.level),
      misses := s.mm.misses.filter fun m => !(m.ended.isSome && placeServes p m && m.inRange part ctx lo hi),
      tlbiPages := s.mm.tlbiPages ++ pages } }

/-- Lines that a structure's caches still hold back (R119). -/
def tlbiHeld (s : State) (p : TlbPlace) : Bool :=
  match p with
  | .core c => s.mm.wcb.any (fun b => b.core == c) || s.mm.cluDirty.any fun e => e.1 / cacheStride == coreCluster c
  | .cluster k => s.mm.cluDirty.any fun e => e.1 / cacheStride == k
  | .walkCache _ => false

/-- TLBI_ACK (R40): a structure acknowledges the TLBIs that it has been told of, once their conditions hold. -/
def execTlbiAck (s : State) : Result :=
  let p := s.arg.place
  let mine := s.mm.tlbi.filter fun t => t.1 == p
  let s := mine.foldl
    (fun s t =>
      let s := applyTlbi s p t.2.1 t.2.2.1 t.2.2.2.1 t.2.2.2.2
      if s.rangeBusy p t.2.2.2.1 t.2.2.2.2 || tlbiHeld s p then s
      else { s with mm := { s.mm with tlbi := s.mm.tlbi.erase t } }) s
  .next (if s.mm.tlbi.any (fun t => t.1 == p) then s
    else { s with mm := { s.mm with tlbiPages := s.mm.tlbiPages.filter fun x => x.1 ≠ p } })

end Sys2Proof.Machine
end

