-- ==== Sys2Proof/Machine/Partition.lean ====
section
/-!
DEFINITION. The quiesce handshake (R139 to R143, R431, R432): request, stop, quiesced, refusal and release.
-/

namespace Sys2Proof.Machine

/-- The rows of R140. -/
def ownerRows : List Nat := [0xE4, 0xE0, 0xA4, 0xA0, 0x00]

/-- PRT_STAT as a whole (R431): what a request or an end writes. -/
def prtStat (s : State) (busy result quiesced queue quart : Nat) : State :=
  s.setReg (prtReg 0x010)
    (placeField 63 1 busy ||| placeField 60 3 result ||| placeField 59 1 quiesced ||| placeField 8 6 queue |||
      placeField 0 2 quart)

/-- A mask that a request may name: quarters 0 and 1, 2 and 3, or all, and a union of partitions (R142). -/
def State.maskOk (s : State) (m : Nat) : Bool :=
  (m == 3 || m == 12 || m == 15) &&
    (List.range 4).all fun q => (List.range 4).all fun r => s.ownerOf q != s.ownerOf r || m.testBit q == m.testBit r

/-- The registers that a handshake captures (R142 step 3). -/
def capturedOffsets : List Nat :=
  [prtReg 0x000, prtReg 0x020] ++ (List.range 4).map (fun q => prtReg (0x040 + 8 * q)) ++
    (List.range 8).map fun k => prtReg (0x080 + 8 * k)

/-- PRT_QUIESCE (R142, R143): mask a; dispatch and admission stop, and resident jobs are asked to give way. -/
def execPrtQuiesce (s : State) : Result :=
  let m := s.arg.a
  if s.field (prtReg 0x010) 63 63 = 1 then .next s
  else if !s.maskOk m then .next (prtStat s 0 3 0 0 0)
  else
    let s := prtStat s 1 0 0 0 0
    let s := { s with sys := { s.sys with quiesce := some ⟨BitVec.ofNat 4 m, s.time.ticks, none⟩ } }
    .next ((s.allJobs.filter fun j => m.testBit j.id.part && j.state == .resident && j.softMark.isNone).foldl
      (fun s j => s.modJob j.id fun j => j.mark 0) s)

/-- Quarters that a job occupies while it is resident, distributed or in migration, to them or from them (R142 step 4). -/
def State.jobQuarters (s : State) (j : Job) : List Nat :=
  if j.state = .resident || j.state = .distributed || j.migrating then s.quartersOf j ++ j.leaving else []

/-- The jobs that make a quarter busy. -/
def State.busyJobs (s : State) (q : Nat) : List Job := s.allJobs.filter fun j => (s.jobQuarters j).contains q

/-- The launch queues of a quarter that are not empty. -/
def State.fullQueues (s : State) (q : Nat) : List Nat := (List.range 64).filter fun k => 0 < s.queueLength q k

/-- A quarter of a handshake is busy. -/
def State.quarterBusy (s : State) (mask : BitVec 4) (q : Nat) : Bool :=
  !(s.busyJobs q).isEmpty || (firstBelow 4 (fun k => mask.getLsbD k) != some q && !(s.fullQueues q).isEmpty)

/-- The first busy quarter of a mask. -/
def State.firstBusy (s : State) (mask : BitVec 4) : Option Nat :=
  firstBelow 4 fun q => mask.getLsbD q && s.quarterBusy mask q

/-- QUIESCE_REACHED (R142 step 3). -/
def execQuiesceReached (s : State) : Result :=
  match s.sys.quiesce with
  | none => .next s
  | some q =>
    if q.captured.isSome || (s.firstBusy q.mask).isSome then .next s
    else
      let t : Table (BitVec 64) := capturedOffsets.foldl (fun t o => tablePut t o (s.reg o)) []
      .next (prtStat { s with sys := { s.sys with quiesce := some { q with captured := some t } } } 1 0 1 0 0)

/-- Dispatch resumes; the handshake's marks go (R142). -/
def endQuiesce (s : State) (mask : BitVec 4) : State :=
  let s := { s with sys := { s.sys with quiesce := none } }
  (s.allJobs.filter fun j => mask.getLsbD j.id.part && j.softMark == some 0).foldl
    (fun s j => s.modJob j.id fun j => { j with softMark := none }) s

/-- QUIESCE_TIMEOUT (R142 step 4): PRT_BUSY, the busy quarter and its queue. -/
def execQuiesceTimeout (s : State) : Result :=
  match s.sys.quiesce with
  | none => .next s
  | some q =>
    let limit := q.since + Config.ticksPerMicrosecond * s.field (prtReg 0x018) 31 0
    match s.firstBusy q.mask with
    | none => .next s
    | some b =>
      if q.captured.isSome || decide (s.time.ticks < limit) then .next s
      else
        let queues := (s.busyJobs b).filterMap fun j => (s.launch j.id.part j.id.acc).map fun l => l.queue
        let queue := (lowest (if (s.busyJobs b).isEmpty then s.fullQueues b else queues)).getD 0
        .next (endQuiesce (prtStat s 0 1 0 queue b) q.mask)

/-! ### Release -/

/-- PRT_ILV of a partition, from its quarters (R139, R146). -/
def ilvOf (quarters : List Nat) : Nat :=
  bitSet (quarters ++ quarters.flatMap fun q => (List.range 3).map fun i => 4 + 6 * (q / 2) + 3 * (q % 2) + i)

/-- The quarters of a partition in a configuration. -/
def ownedBy (w : BitVec 64) (p : Nat) : List Nat := (List.range 4).filter fun q => ownerIn w q == p

/-- PRT_NETB as an owner word requires it: open exactly inside one partition. -/
def netbOf (w : BitVec 64) : Nat :=
  let same (a b : Nat) : Bool := ownerIn w a == ownerIn w b
  natOfBool (same 0 1) + 2 * natOfBool (same 2 3) + 4 * natOfBool (same 0 2) + 8 * natOfBool (same 1 3) +
    16 * natOfBool (same 0 1) + 32 * natOfBool (same 2 3)

/-- Ranges of two quarters overlap in either tier. -/
def State.rangesMeet (s : State) (q r : Nat) : Bool :=
  [0x080, 0x088].any fun o =>
    let base (k : Nat) : Nat := s.field (prtReg (o + 16 * k)) 31 0
    let limit (k : Nat) : Nat := s.field (prtReg (o + 16 * k)) 63 32
    decide (max (base q) (base r) < min (limit q) (limit r))

/-- What a release compares outside the mask (R142): owners, interleave entries, ranges, and the boundaries that do not
lie within it. -/
def State.sameOutside (s : State) (mask : BitVec 4) (old : Table (BitVec 64)) : Bool :=
  let was (o : Nat) : BitVec 64 := tableGet old o 0#64
  let inside (a b : Nat) : Bool := mask.getLsbD a && mask.getLsbD b
  let boundary (n a b : Nat) : Bool := inside a b || bitOf (s.reg (prtReg 0x020)) n == bitOf (was (prtReg 0x020)) n
  ((List.range 4).all fun q =>
    mask.getLsbD q ||
      (ownerIn (s.reg (prtReg 0x000)) q == ownerIn (was (prtReg 0x000)) q &&
        [0x040 + 8 * q, 0x080 + 16 * q, 0x088 + 16 * q].all fun o => s.reg (prtReg o) == was (prtReg o))) &&
    boundary 0 0 1 && boundary 1 2 3 && boundary 2 0 2 && boundary 3 1 3 && boundary 4 0 1 && boundary 5 2 3

/-- The six release checks (R142). -/
def State.releaseOk (s : State) (mask : BitVec 4) (old : Table (BitVec 64)) : Bool :=
  let w := s.reg (prtReg 0x000)
  ownerRows.contains (bitsOf w 7 0) && s.sameOutside mask old &&
    ((List.range 4).all fun q => (List.range 4).all fun r => ownerIn w q == ownerIn w r || !s.rangesMeet q r) &&
    ((List.range 4).all fun q =>
      s.field (prtReg (0x040 + 8 * q)) 15 0 == if ownerIn w q == q then ilvOf (ownedBy w q) else 0) &&
    s.field (prtReg 0x020) 5 0 == netbOf w

/-- PRT_RELEASE (R142, R143): mask a; a failed check restores what was captured. -/
def execPrtRelease (s : State) : Result :=
  match s.sys.quiesce with
  | none => .next s
  | some q =>
    match q.captured with
    | none => .next s
    | some old =>
      if s.arg.a ≠ q.mask.toNat then .next s
      else if s.releaseOk q.mask old then
        let ended := { s with sch := { s.sch with scheds := s.sch.scheds.map fun e => (e.1, { e.2 with adverts := [] }) } }
        .next (endQuiesce (prtStat ended 0 0 0 0 0) q.mask)
      else
        let s := capturedOffsets.foldl (fun s o => s.setReg o (tableGet old o 0#64)) s
        .next (endQuiesce (prtStat s 0 2 0 0 0) q.mask)

end Sys2Proof.Machine
end

