-- ==== Sys2Proof/Machine/Passes.lean ====
section
/-!
DEFINITION. Binning and visibility (R172 to R176, R412, R413): passes, the binning unit, the resolvers and their stores.
-/

namespace Sys2Proof.Machine

def State.setPasses (s : State) (ps : List Pass) : State := { s with guide := { s.guide with passes := ps } }
def State.setStores (s : State) (vs : List VisStore) : State := { s with guide := { s.guide with stores := vs } }

def State.modPass (s : State) (id : Nat) (f : Pass → Pass) : State :=
  s.setPasses (s.guide.passes.map fun p => if p.id = id then f p else p)

/-- The open pass of a partition. -/
def State.openPass (s : State) (part : Nat) : Option Pass :=
  s.guide.passes.find? fun p => p.part == part && !p.closed

/-- Stream forms are issued undiverged or inside a bracket (R411). -/
def streamForm (s : State) (r : Result) : Result := if s.me.whole || !s.me.isVector then r else trapIllegal s

/-! ### The pass descriptor (R172) -/

def Pass.binsWide (p : Pass) : Nat := (p.width + 31) / 32
def Pass.binsHigh (p : Pass) : Nat := (p.height + 31) / 32
def Pass.bins (p : Pass) : Nat := p.binsWide * p.binsHigh

/-- The pass that a descriptor and its draw table open; none where a field is out of range or reserved bits stand. -/
def passOf (s : State) (desc : Word) (d tab : List Byte) : Option Pass :=
  let p : Pass :=
    { id := s.ticket, part := s.part, gd := coreDie s.core, seq := BitVec.ofNat 32 (imageField d 0 4), desc := desc,
      ctx := s.myJob.ctx, user := s.priv == 0, width := imageField d 4 2, height := imageField d 6 2,
      emitters := imageField d 8 4, ended := 0, buf := BitVec.ofNat 64 (imageField d 0x10 8),
      size := imageField d 0x18 8, drawTab := tab, used := 0, full := false, closed := false, told := false, prims := [],
      nextBin := 0 }
  let range (lo hi n : Nat) : Bool := decide (lo ≤ n) && decide (n ≤ hi)
  if range 1 8192 p.width && range 1 8192 p.height && range 1 (2 ^ 24) p.emitters && p.buf.toNat % 65536 == 0 &&
      p.size % 65536 == 0 && (d.drop 0x28).all (fun b => b == 0#8) && tab.all fun b => decide (b.toNat ≤ 2)
  then some { p with used := 8 * p.bins }
  else none

/-- PRIM.OPEN (R172, R412). -/
def execPrimOpen (b : BitVec 6) (s : State) : Result :=
  let va := s.sreg b
  let refuse (s : State) : Result := trap s { cause := causePermission, addr := va }
  streamForm s <|
    if va.toNat % 64 ≠ 0 then trap s (accessFault ⟨.global, .read, 64, 64, false⟩ causeAlignment va)
    else
      withRead s 5 va 64 fun s d =>
        let table : Word := BitVec.ofNat 64 (imageField d 0x20 8)
        withRead s 5 table 256 fun s tab =>
          match passOf s va d tab with
          | none => refuse s
          | some p =>
            if (s.openPass s.part).isSome then refuse s
            else .next (s.nextTicket.setPasses (s.guide.passes ++ [p])).advance

/-! ### Emission (R412) -/

def State.arrive (s : State) (p : Primitive) : State :=
  { s with guide := { s.guide with arrivals := s.guide.arrivals ++ [p] } }

/-- No pass of the partition is open (R412). -/
def inPass (s : State) (r : Result) : Result :=
  if (s.openPass s.part).isSome then r else trap s { cause := causePermission }

/-- PRIM.EMIT (R412): the active lanes emit in ascending order. -/
def execPrimEmit (d a b : VNum) (p : BitVec 4) (s : State) : Result :=
  inPass s <|
    let emit (s : State) (l : Nat) : State :=
      let z2 := laneOf (s.vregAt b 0) l
      let xs := (List.range 8).map fun k => laneOf (s.vregAt a k) l
      s.arrive ⟨s.part, false, laneOf (s.vreg d) l, xs ++ [z2], laneOf (s.vregAt b 1) l⟩
    .next ((lanesOf (s.active p)).foldl emit s).advance

/-- PRIM.END (R412). -/
def execPrimEnd (s : State) : Result :=
  streamForm s <| inPass s <| .next (s.arrive ⟨s.part, true, 0#32, [], 0#32⟩).advance

/-! ### Triangles -/

/-- Coordinate k of a triangle: x, y and z of vertex 0, then 1, then 2. -/
def Primitive.at_ (p : Primitive) (k : Nat) : Num := fp32.decode (p.xs.getD k 0#32).toNat

/-- A vertex on the screen. -/
def Primitive.vertex (p : Primitive) (v : Nat) : Num × Num := (p.at_ (3 * v), p.at_ (3 * v + 1))

/-- Twice the signed area of a triangle, exactly. -/
def doubleArea (a b c : Num × Num) : Num :=
  let sub (x y : Num) : Num := Num.add 0 x y.neg
  Num.add 0 (Num.mul (sub b.1 a.1) (sub c.2 a.2)) (Num.mul (sub b.2 a.2) (sub c.1 a.1)).neg

def Primitive.area (p : Primitive) : Num := doubleArea (p.vertex 0) (p.vertex 1) (p.vertex 2)

def Num.isInf (x : Num) : Bool :=
  match x with
  | .inf _ => true
  | _ => false

def Primitive.unbounded (p : Primitive) : Bool := (List.range 9).any fun k => (p.at_ k).isInf

/-- A triangle with a NaN coordinate, or with zero area, is discarded without cost (R412). -/
def Primitive.empty (p : Primitive) : Bool :=
  (List.range 9).any (fun k => (p.at_ k).isNan) || (!p.unbounded && p.area.isZero)

/-- Lowest and highest bin that a coordinate range touches, of n. -/
def binRange (xs : List Num) (n : Nat) : Nat × Nat :=
  let low := xs.foldl (fun a x => if x.lt a then x else a) (.inf false)
  let high := xs.foldl (fun a x => if a.lt x then x else a) (.inf true)
  let bin (x : Num) : Int := (x.scale (-5)).toIntSat ⟨3, 0⟩ (-1) n
  ((max (bin low) 0).toNat, (bin high + 1).toNat)

/-- The bins that a triangle's bounding box touches (R173): columns from, to (exclusive), rows from, to. -/
def Primitive.box (q : Primitive) (p : Pass) : (Nat × Nat) × (Nat × Nat) :=
  let xs := (List.range 3).map fun v => (q.vertex v).1
  let ys := (List.range 3).map fun v => (q.vertex v).2
  let c := binRange xs p.binsWide
  let r := binRange ys p.binsHigh
  ((c.1, min c.2 p.binsWide), (r.1, min r.2 p.binsHigh))

def Primitive.touches (q : Primitive) (p : Pass) (bx by_ : Nat) : Bool :=
  let ((c0, c1), (r0, r1)) := q.box p
  decide (c0 ≤ bx) && decide (bx < c1) && decide (r0 ≤ by_) && decide (by_ < r1)

def Primitive.records (q : Primitive) (p : Pass) : Nat :=
  let ((c0, c1), (r0, r1)) := q.box p
  (c1 - c0) * (r1 - r0)

/-! ### The binning unit (R173) -/

/-- The unit reaches memory in the name of the job that opened the pass. -/
def Pass.via (p : Pass) : Via := ⟨.unit p.gd, p.part, p.ctx.toNat, p.user, false, ⟨.mgmt p.part, 3⟩, 2 * p.id + 1⟩

/-- Bytes of BINBUF, whose layout is not architectural: free values. -/
def fillBins (s : State) (p : Pass) (from_ n : Nat) : State :=
  let r := s.freeBytes n
  (writeVia r.2 p.via (p.buf + BitVec.ofNat 64 from_) r.1).2

/-- A triangle is recorded, or discarded with every later one when it does not fit. -/
def recordPrimitive (s : State) (p : Pass) (q : Primitive) : State :=
  let cost := 64 * q.records p
  if q.empty then s
  else if p.full || p.size < p.used + cost then s.modPass p.id fun p => { p with full := true }
  else
    let s := fillBins s p p.used cost
    s.modPass p.id fun p => { p with used := p.used + cost, prims := p.prims ++ [q] }

/-- STATUS of a pass that has closed is written, with a release at .dev, and its bins go to the resolvers; a write that cannot
go now is tried again. -/
def tellStatus (s : State) (p : Pass) : State :=
  match writeVia s p.via (p.desc + 0xC#64) (leBytes 4 (if p.full then 2 else 1)) with
  | (.ok _, s) => (s.answered p.via.strm p.via.op).modPass p.id fun p => { p with told := true }
  | (_, s) => s

/-- Passes that have closed and whose STATUS has not been written. -/
def State.untold (s : State) : List Pass := s.guide.passes.filter fun p => p.closed && !p.told

/-- An end form arrives; the last one closes the pass. -/
def endForm (s : State) (p : Pass) : State :=
  let s := s.modPass p.id fun p => { p with ended := p.ended + 1, closed := decide (p.emitters ≤ p.ended + 1) }
  if p.ended + 1 < p.emitters then s else tellStatus s { p with closed := true }

/-- PRIMITIVE_ARRIVAL (R173): STATUS of closed passes that wait for it, and the oldest primitive or end form on its way
reaches the binning unit. -/
def execPrimitiveArrival (s : State) : Result :=
  let s := s.untold.foldl tellStatus s
  match s.guide.arrivals with
  | [] => .next s
  | q :: rest =>
    let s := { s with guide := { s.guide with arrivals := rest } }
    match s.openPass q.part with
    | none => .next s
    | some p => .next (if q.ends then endForm s p else recordPrimitive s p q)

/-! ### The resolvers (R174 to R176) -/

/-- What stands at a pixel: the primitive, its depth, u and v. -/
structure Cover where
  prim  : Primitive
  depth : Nat
  u     : Nat
  v     : Nat
  deriving DecidableEq, Repr

/-- Edge a to b of a triangle that turns positively is a top or a left edge: rows run downward. -/
def topLeft (a b : Num × Num) : Bool := b.2.lt a.2 || (b.2.eq a.2 && a.1.lt b.1)

/-- What a bounded triangle shows at a point: nothing where it does not cover it (R174); u is the weight of vertex 1 and v that of vertex
2 (log entry 194). -/
def Primitive.coverAt (q : Primitive) (p : Num × Num) : Option Cover :=
  let zero := Num.fin false 0 0
  let flip := q.area.lt zero
  let turn (x : Num) : Num := if flip then x.neg else x
  let w (a b : Nat) : Num := turn (doubleArea (q.vertex a) (q.vertex b) p)
  let edge (a b : Nat) : Bool :=
    zero.lt (w a b) ||
      ((w a b).isZero && (if flip then topLeft (q.vertex b) (q.vertex a) else topLeft (q.vertex a) (q.vertex b)))
  if edge 1 2 && edge 2 0 && edge 0 1 then
    let area := turn q.area
    let z := Num.add 0 (Num.add 0 (Num.mul (q.at_ 2) (w 1 2)) (Num.mul (q.at_ 5) (w 2 0))) (Num.mul (q.at_ 8) (w 0 1))
    some ⟨q, fp32.quotient nearestEven z area, fp16.quotient nearestEven (w 2 0) area,
      fp16.quotient nearestEven (w 0 1) area⟩
  else none

/-- The same for any triangle; for one with an infinite coordinate the manual states nothing, and it is free whether it
covers the point and with what. -/
def Primitive.cover (q : Primitive) (p : Num × Num) (free : Nat) : Option Cover :=
  if q.unbounded then
    let x := Config.freeBits free
    if x.testBit 64 then some ⟨q, x % 2 ^ 32, x / 2 ^ 32 % 2 ^ 16, x / 2 ^ 48 % 2 ^ 16⟩ else none
  else q.coverAt p

/-- Draw of a primitive identifier, and its ordering class (R176). -/
def Primitive.draw (q : Primitive) : Nat := (q.ident.extractLsb' 24 8).toNat
def Pass.classOf (p : Pass) (q : Primitive) : Nat := (p.drawTab.getD q.draw 0#8).toNat

/-- At equal depth the later primitive wins, or it is free which one does (R176). -/
def laterWins (p : Pass) (old new : Primitive) (free : Nat) : Bool :=
  if (p.classOf old == 0 && p.classOf new == 0) ||
      (old.draw == new.draw && p.classOf new == 1 && old.inst == new.inst) then true
  else (Config.freeBits free).testBit 0

/-- A pixel after one more primitive. -/
def resolvePrimitive (p : Pass) (at_ : Num × Num) (free : Nat) (c : Option Cover) (q : Primitive × Nat) :
    Option Cover :=
  match q.1.cover at_ (free + 2 * q.2), c with
  | none, c => c
  | some n, none => some n
  | some n, some o =>
    let x := fp32.decode n.depth
    let y := fp32.decode o.depth
    if x.lt y then some n
    else if x.eq y && laterWins p o.prim n.prim (free + 2 * q.2 + 1) then some n
    else some o

/-- A store's entry (R174). -/
def Cover.entry (c : Cover) : BitVec 96 := BitVec.ofNat 96 (c.prim.ident.toNat + 2 ^ 32 * c.depth + 2 ^ 64 * c.u + 2 ^ 80 * c.v)

/-- Entry of a pixel that nothing covers: u and v are zero (log entry 194). -/
def emptyEntry : BitVec 96 := BitVec.ofNat 96 (0xFFFFFFFF + 2 ^ 32 * 0x7F800000)

/-- The centre of a pixel. -/
def pixelCentre (x y : Nat) : Num × Num := (.fin false (2 * x + 1) (-1), .fin false (2 * y + 1) (-1))

/-- Final visibility of a bin: the pixels of it that something covers. -/
def resolveBin (p : Pass) (free bin : Nat) : Table (BitVec 96) :=
  let bx := bin % p.binsWide
  let by_ := bin / p.binsWide
  let prims := (p.prims.filter fun q => q.touches p bx by_).zipIdx
  (List.range 1024).filterMap fun e =>
    let x := 32 * bx + e % 32
    let y := 32 * by_ + e / 32
    if p.width ≤ x || p.height ≤ y then none
    else (prims.foldl (resolvePrimitive p (pixelCentre x y) (free + 2 * e * prims.length)) none).map fun c => (e, c.entry)

/-- Resolvers of a partition on a guide die (R174): 0 to 3 with clusters 0 to 2, 4 to 7 with clusters 3 to 5. -/
def State.resolversOf (s : State) (p : Pass) : List Nat :=
  (List.range 8).filter fun r => s.ownerOf (2 * (p.gd - 4) + r / 4) == p.part

/-- A free store of the resolvers of a pass. -/
def State.freeStore (s : State) (p : Pass) : Option (Nat × Nat) :=
  ((s.resolversOf p).flatMap fun r => [(r, 0), (r, 1)]).find? fun x =>
    !s.guide.stores.any fun v => v.gd == p.gd && v.resolver == x.1 && v.slot == x.2

/-- A closed pass has a bin for its resolvers, and they have a free store. -/
def State.mayResolve (s : State) (p : Pass) : Bool := p.told && decide (p.nextBin < p.bins) && (s.freeStore p).isSome

/-- BIN_RESOLVE (R174): the next bin of the oldest closed pass of partition a whose resolvers have a free store goes there,
and is resolved. -/
def execBinResolve (s : State) : Result :=
  match s.guide.passes.find? fun p => p.part == s.arg.a && s.mayResolve p with
  | none => .next s
  | some p =>
    match s.freeStore p with
    | none => .next s
    | some (r, k) =>
      let v : VisStore := ⟨p.gd, r, k, p.id, p.nextBin, resolveBin p s.draw p.nextBin⟩
      let s := { s with draw := s.draw + 2048 * p.prims.length }
      .next ((s.setStores (s.guide.stores ++ [v])).modPass p.id fun p => { p with nextBin := p.nextBin + 1 })

/-! ### VIS.LD (R413) -/

/-- Passes whose bins have all been released are gone. -/
def dropPasses (s : State) : State :=
  s.setPasses (s.guide.passes.filter fun p =>
    decide (p.nextBin < p.bins) || s.guide.stores.any fun v => v.pass == p.id)

/-- VIS.LD and its releasing form: sB names bx, by and PASSSEQ. A bin that is not final stalls; one outside its pass, one
of no pass of the partition, or a store already released raises PERMISSION. -/
def visLoad (s : State) (release : Bool) (d a : VNum) (b : SReg) (p : BitVec 4) : Result :=
  let w := s.sreg b
  let bx := bitsOf w 15 0
  let by_ := bitsOf w 31 16
  let refuse := trap s { cause := causePermission }
  match s.guide.passes.reverse.find? fun q => q.part == s.part && q.seq.toNat == bitsOf w 63 32 with
  | none => refuse
  | some q =>
    if q.binsWide ≤ bx || q.binsHigh ≤ by_ then refuse
    else
      let bin := by_ * q.binsWide + bx
      if q.nextBin ≤ bin then .next s.stall
      else
        match s.guide.stores.find? fun v => v.pass == q.id && v.bin == bin with
        | none => refuse
        | some v =>
          let at_ (l : Nat) : Nat := (tableGet v.entries (elemOf (s.vreg a) 32 l % 1024) emptyEntry).toNat
          let vs := (List.range 3).map fun k => mapElems 32 fun l => at_ l / 2 ^ (32 * k) % 2 ^ 32
          let s := s.writeGroup d (s.active p) vs
          let s := if release then
              dropPasses (s.setStores (s.guide.stores.filter fun x => !(x.pass == q.id && x.bin == bin)))
            else s
          .next s.advance

/-- VIS.LD (R413). -/
def execVisLd (d a : VNum) (b : SReg) (p : BitVec 4) (s : State) : Result := visLoad s false d a b p

/-- VIS.LD.REL (R413). -/
def execVisLdRel (d a : VNum) (b : SReg) (p : BitVec 4) (s : State) : Result := visLoad s true d a b p

end Sys2Proof.Machine
end

