-- ==== Sys2Proof/Machine/Power.lean ====
section
/-!
DEFINITION. Clocks, power and temperature (R18 to R22): the power cap, current limit, droop, throttling and shutdown.
-/

namespace Sys2Proof.Machine

def State.modPower (s : State) (f : Power → Power) : State := { s with sys := { s.sys with power := f s.sys.power } }

/-- The cap that BOOT_PWRCAP.WATTS stands for (R19). -/
def capWatts (w : Nat) : Nat := if w = 0 || decide (3200 < w) then 3200 else if w < 1000 then 1000 else w

/-- POWER_CAP_WRITE (R19): v as BOOT_PWRCAP's WATTS. -/
def execPowerCapWrite (s : State) : Result := .next (s.setField (bootReg 0x050) 15 0 (bitsOf s.arg.v 15 0))

/-- Steps below 2.7 GHz at which a quarter runs: the lower clock of the cap's and the temperature's (R19, R22). -/
def State.clockSteps (s : State) (q : Nat) : Nat := max s.sys.power.capped (tableGet s.sys.power.thermal q 0)

/-- Steps of a clock (Machine/Ops.lean, clockOf); the management complex is not throttled. -/
def State.stepsOf (s : State) (clock : Nat) : Nat := if clock < 8 then s.clockSteps (clock % 4) else 0

/-- The die of a clock. -/
def clockDie (clock : Nat) : Nat := if clock < 4 then clock else if clock < 8 then 4 + (clock - 4) / 2 else 6

/-- A clock is stretched: its die's supply droops, or the current limit is reached (R19, R20). -/
def State.stretched (s : State) (clock : Nat) : Bool :=
  s.sys.power.limited || s.sys.power.droop.contains (clockDie clock)

/-- Every quarter runs at 1.8 GHz. -/
def State.slowest (s : State) : Bool := (List.range 4).all fun q => 3 ≤ s.clockSteps q

/-- POWER_WINDOW_END (R19): the 1 ms window's mean was a watts. -/
def execPowerWindowEnd (s : State) : Result :=
  let cap := capWatts (s.field (bootReg 0x050) 15 0)
  let mean := s.arg.a
  let move := if cap < mean then CapMove.down else if 20 * mean ≤ 19 * cap then .up else .hold
  let s := s.setField (bootReg 0x050) 63 63 (natOfBool (decide (cap < mean) && s.slowest))
  .next (s.modPower fun p => { p with move := move })

/-- The quarters whose partition holds part of a die (R139). -/
def dieQuarters (die : Nat) : List Nat :=
  if die < 4 then [die] else if die < 6 then [2 * (die - 4), 2 * (die - 4) + 1] else []

/-- A die of the partition of a quarter is in a list. -/
def State.partitionHas (s : State) (q : Nat) (dies : List Nat) : Bool :=
  dies.any fun d => (dieQuarters d).any fun k => s.ownerOf k == s.ownerOf q

/-- CLOCK_STEP (R19, R22): a 100 µs interval passes; each partition moves one step for its temperature, and all for the
cap. -/
def execClockStep (s : State) : Result :=
  let p := s.sys.power
  let thermal (q : Nat) : Nat :=
    let n := tableGet p.thermal q 0
    if s.partitionHas q p.hot then min 3 (n + 1) else if s.partitionHas q p.warm then n else n - 1
  let capped := match p.move with
    | .down => min 3 (p.capped + 1)
    | .up => p.capped - 1
    | .hold => p.capped
  .next (s.modPower fun p =>
    { p with capped := capped, thermal := (List.range 4).foldl (fun t q => tableSet t q (thermal q) 0) p.thermal })

/-- THERMAL_THROTTLE (R22): die a's hottest sensor is at b degrees: from 105 on it is hot, until it falls below 100. -/
def execThermalThrottle (s : State) : Result :=
  let d := s.arg.a
  .next (s.modPower fun p =>
    let hot := p.hot.filter fun x => x != d
    let warm := p.warm.filter fun x => x != d
    if 105 ≤ s.arg.b then { p with hot := d :: hot, warm := warm }
    else if 100 ≤ s.arg.b && (p.hot.contains d || p.warm.contains d) then { p with hot := hot, warm := d :: warm }
    else { p with hot := hot, warm := warm })

/-- THERMAL_SHUTDOWN (R22): power leaves the compute dies. -/
def execThermalShutdown (s : State) : Result := .next ((stopWith s 3#8).modPower fun p => { p with compute := false })

/-- CURRENT_LIMIT (R19). -/
def execCurrentLimit (s : State) : Result := .next (s.modPower fun p => { p with limited := true })

/-- CURRENT_BELOW_LIMIT (R19). -/
def execCurrentBelowLimit (s : State) : Result := .next (s.modPower fun p => { p with limited := false })

/-- DROOP_DETECT (R20): tile or guide die a. -/
def execDroopDetect (s : State) : Result :=
  if 6 ≤ s.arg.a then .next s
  else .next (s.modPower fun p => { p with droop := s.arg.a :: p.droop.filter fun x => x != s.arg.a })

/-- DROOP_RECOVER (R20). -/
def execDroopRecover (s : State) : Result :=
  .next (s.modPower fun p => { p with droop := p.droop.filter fun x => x != s.arg.a })

end Sys2Proof.Machine
end

