-- ==== Sys2Proof/Machine/Rays.lean ====
section
/-!
DEFINITION. Rays (R181 to R185, R415 to R418): records, traversal of a versioned BVH, candidates, parking.
-/

namespace Sys2Proof.Machine

def State.setRays (s : State) (rs : List Ray) : State := { s with guide := { s.guide with rays := rs } }

def State.modRay (s : State) (id : Nat) (f : Ray → Ray) : State :=
  s.setRays (s.guide.rays.map fun r => if r.id = id then f r else r)

/-- The ray of the issuing job whose record lies at an address. -/
def State.rayAt (s : State) (a : Word) : Option Ray :=
  s.guide.rays.find? fun r => r.job == s.myJob.id && r.record == a

/-- Rays that a core's unit holds: it has 256 slots (R415). -/
def State.raysHeld (s : State) (core : Nat) : Nat :=
  (s.guide.rays.filter fun r => r.phase != .parked && (((s.job r.job).bind fun j => j.core) == some core)).length

/-! ### Arithmetic in FP32, nearest-even, nothing fused (R418) -/

/-- Patterns of a vector's components. -/
structure Vec3 where
  x : Nat
  y : Nat
  z : Nat
  deriving DecidableEq, Repr

def fadd (a b : Nat) : Nat := fp32.ofNum nearestEven (Num.add 0 (fp32.decode a) (fp32.decode b))
def fsub (a b : Nat) : Nat := fp32.ofNum nearestEven (Num.add 0 (fp32.decode a) (fp32.decode b).neg)
def fmul (a b : Nat) : Nat := fp32.ofNum nearestEven (Num.mul (fp32.decode a) (fp32.decode b))
def fdiv (a b : Nat) : Nat := fp32.quotient nearestEven (fp32.decode a) (fp32.decode b)
def flt (a b : Nat) : Bool := (fp32.decode a).lt (fp32.decode b)
def fle (a b : Nat) : Bool := flt a b || (fp32.decode a).eq (fp32.decode b)

def Vec3.sub (a b : Vec3) : Vec3 := ⟨fsub a.x b.x, fsub a.y b.y, fsub a.z b.z⟩

def Vec3.cross (a b : Vec3) : Vec3 :=
  ⟨fsub (fmul a.y b.z) (fmul a.z b.y), fsub (fmul a.z b.x) (fmul a.x b.z), fsub (fmul a.x b.y) (fmul a.y b.x)⟩

/-- x, then + y, then + z. -/
def Vec3.dot (a b : Vec3) : Nat := fadd (fadd (fmul a.x b.x) (fmul a.y b.y)) (fmul a.z b.z)

/-- Three FP32 patterns in a row of bytes. -/
def vec3At (bs : List Byte) (off : Nat) : Vec3 :=
  ⟨imageField bs off 4, imageField bs (off + 4) 4, imageField bs (off + 8) 4⟩

def Vec3.ofList (xs : List (BitVec 32)) : Vec3 :=
  ⟨(xs.getD 0 0#32).toNat, (xs.getD 1 0#32).toNat, (xs.getD 2 0#32).toNat⟩

/-! ### Traversal (R181, R418) -/

/-- Entry and exit of one axis of a box; a NaN gives way to the other bound. A ray that does not move along the axis is between the
two planes, or on one of them, for ever (log entry 89). -/
def slab (o d lo hi : Nat) : Nat × Nat :=
  if d % 2 ^ 31 = 0 && fle lo o && fle o hi then (fp32.signed true fp32.infCode, fp32.infCode)
  else
    let a := fdiv (fsub lo o) d
    let b := fdiv (fsub hi o) d
    (fp32.pick false a b, fp32.pick true a b)

/-- The t at which a ray enters a box at or before tmax; none where it misses it. -/
def boxEntry (r : Ray) (lo hi : Vec3) : Option Nat :=
  let o := Vec3.ofList r.origin
  let d := Vec3.ofList r.dir
  let xs := slab o.x d.x lo.x hi.x
  let ys := slab o.y d.y lo.y hi.y
  let zs := slab o.z d.z lo.z hi.z
  let near := [xs.1, ys.1, zs.1].foldl (fp32.pick true) r.tmin.toNat
  let far := [xs.2, ys.2, zs.2].foldl (fp32.pick false) r.tmax.toNat
  if fle near far then some near else none

/-- Child c of a node's 128 bytes, with the t at which the ray enters its box; a child more than 14 levels below the root
is a miss. -/
def childOf (r : Ray) (node : Nat) (depth : Nat) (bs : List Byte) (c : Nat) : Option (Nat × RayItem) :=
  let ty := imageField bs 4 1 / 4 ^ c % 4
  let ix := imageField bs (0x70 + 4 * c) 4
  let count := imageField bs (5 + c) 1
  let item : Option RayItem := match ty with
    | 1 => if depth < 14 then some (.node ix (depth + 1)) else none
    | 2 => if count = 0 then none else some (.run node ix ix (ix + count))
    | _ => none
  item.bind fun i =>
    (boxEntry r (vec3At bs (0x10 + 24 * c)) (vec3At bs (0x10 + 24 * c + 12))).map fun t => (t, i)

/-- A node with a reserved type or non-zero reserved bytes is empty. -/
def nodeEmpty (bs : List Byte) : Bool :=
  (List.range 4).any (fun c => imageField bs 4 1 / 4 ^ c % 4 == 3) || imageField bs 9 7 != 0

/-- The children of a node that a ray visits, in ascending entry t, ties to the lower child. -/
def childrenOf (r : Ray) (node depth : Nat) (bs : List Byte) : List RayItem :=
  if nodeEmpty bs then []
  else
    (sortBy (fun (a b : Nat × RayItem) => fle a.1 b.1) ((List.range 4).filterMap (childOf r node depth bs))).map
      fun x => x.2

/-- The edge-and-determinant test of R418: t, u and v. -/
def hitOf (r : Ray) (bs : List Byte) : Option (Nat × Nat × Nat) :=
  let v0 := vec3At bs 0
  let d := Vec3.ofList r.dir
  let e1 := (vec3At bs 0x0C).sub v0
  let e2 := (vec3At bs 0x18).sub v0
  let p := d.cross e2
  let det := e1.dot p
  let w := (Vec3.ofList r.origin).sub v0
  let u := fdiv (w.dot p) det
  let q := w.cross e1
  let v := fdiv (d.dot q) det
  let t := fdiv (e2.dot q) det
  let one := 0x3F800000
  if !(fp32.decode det).isZero && !(fp32.decode det).isNan && fle 0 u && fle 0 v && fle (fadd u v) one &&
      fle r.tmin.toNat t && fle t r.tmax.toNat then some (t, u, v)
  else none

/-- An accepted hit: tmax becomes t, and the best hit is replaced by a lower t (R418). -/
def Ray.accept (r : Ray) (t prim u v : BitVec 32) : Ray :=
  let better := match r.best with
    | some b => flt t.toNat b.1.toNat
    | none => true
  { r with tmax := t, best := if better then some (t, prim, u, v) else r.best }

/-- FP16 of an FP32 pattern. -/
def halfOf (x : Nat) : Nat := fp16.ofNum nearestEven (fp32.decode x)

/-- A triangle's 48 bytes met by a ray: an opaque hit is accepted at once, any other becomes a candidate. -/
def meetTriangle (r : Ray) (tri : Nat) (bs : List Byte) : Ray :=
  match hitOf r bs with
  | none => r
  | some (t, u, v) =>
    let b (n : Nat) : BitVec 32 := BitVec.ofNat 32 n
    let prim := b (imageField bs 0x24 4)
    if imageField bs 0x28 1 % 2 = 1 then r.accept (b t) prim (b u) (b v)
    else { r with phase := .candidate (b t) (b tri) (b u) (b v) (BitVec.ofNat 8 (imageField bs 0x29 1)) prim false }

/-- How a stretch of traversal ends. -/
inductive RayEnd where
  /-- it goes on, or presents a candidate -/
  | at_ (r : Ray) (s : State)
  | complete (r : Ray) (s : State)
  | fault (r : Ray) (cause : Nat) (addr : Word) (s : State)
  deriving Repr

/-- The ray unit's reads of nodes and triangles: in the job's name, at .dev. -/
def rayRead (s : State) (r : Ray) (a : Nat) (n : Nat) : Reach (List Byte) × State :=
  match s.job r.job with
  | some j => readVia s (j.via 5 r.strm (2 * r.id + 1)) (BitVec.ofNat 64 a) n
  | none => (.held 0, s)

/-- At most so many nodes and triangles of a traversal (R418): nodes before their later siblings, runs in ascending
index. -/
def traverse (fuel : Nat) (s : State) (r : Ray) : RayEnd :=
  match fuel with
  | 0 => .at_ r s
  | fuel + 1 =>
    match r.stack with
    | [] => .complete r s
    | .node i depth :: rest =>
      match rayRead s r (r.nodes.toNat + 128 * i) 128 with
      | (.ok bs, s) => traverse fuel (s.answered ⟨.job r.job, r.strm⟩ (2 * r.id + 1)) { r with stack := childrenOf r i depth bs ++ rest }
      | (.fault c a _, s) => .fault r c a s
      | (_, s) => .at_ r s
    | .run n first next stop :: rest =>
      if stop ≤ next then traverse fuel s { r with stack := rest }
      else
        match rayRead s r (r.tris.toNat + 48 * next) 48 with
        | (.ok bs, s) =>
          let s := s.answered ⟨.job r.job, r.strm⟩ (2 * r.id + 1)
          let r := meetTriangle { r with stack := .run n first (next + 1) stop :: rest } next bs
          if r.phase = .traversing then traverse fuel s r else .at_ r s
        | (.fault c a _, s) => .fault r c a s
        | (_, s) => .at_ r s

/-! ### Records (R185) -/

/-- A write to a ray's record, in the job's name at .core. -/
def rayWrite (s : State) (r : Ray) (off : Nat) (bs : List Byte) : Reach Unit × State :=
  match s.job r.job with
  | some j => writeVia s (j.via 1 r.strm (2 * r.id + 1)) (r.record + BitVec.ofNat 64 off) bs
  | none => (.held 0, s)

/-- The best hit's 16 bytes: without one t is +infinity, and the manual gives the rest no value. -/
def bestBytes (s : State) (r : Ray) : List Byte × State :=
  match r.best with
  | some (t, prim, u, v) =>
    (leBytes 4 t.toNat ++ leBytes 4 prim.toNat ++ leBytes 4 u.toNat ++ leBytes 4 v.toNat, s)
  | none =>
    let x := s.freeBytes 12
    (leBytes 4 0x7F800000 ++ x.1, x.2)

/-- Index by which a stack entry of the record names what is still to visit: a node, or the node of a run. -/
def RayItem.index (i : RayItem) : Nat :=
  match i with
  | .node n _ => n
  | .run n _ _ _ => n

/-- Level below the root of what a stack entry visits; of a run the record and the unit keep none. -/
def RayItem.level (i : RayItem) : Nat :=
  match i with
  | .node _ d => d
  | .run _ _ _ _ => 0

/-- The traversal state in a record (R185): best hit, depth, current node, and the stack below it. -/
def stateBytes (best : List Byte) (r : Ray) : List Byte :=
  let items := (r.stack.take 45).map RayItem.index
  best ++ leBytes 4 (items.length - 1) ++ leBytes 4 (items.headD 0) ++ leBytes 8 0 ++
    (items.drop 1 ++ List.replicate (44 - (items.length - 1)) 0).flatMap fun n => leBytes 4 n

/-- Entry k of the traversal state in a record: 0 is the current node. -/
def recordIndex (bs : List Byte) (k : Nat) : Nat := imageField bs (if k = 0 then 0x44 else 0x4C + 4 * k) 4

/-- What an entry of a record says is to be visited: what the unit knows of that node, or a node that software put there. -/
def recordItem (r : Ray) (bs : List Byte) (k : Nat) : RayItem :=
  let n := recordIndex bs k
  match r.stack[k]? with
  | some i => if i.index = n then i else .node n i.level
  | none => .node n 0

/-- The stack that a record gives. -/
def recordStack (r : Ray) (bs : List Byte) : List RayItem :=
  let depth := min (imageField bs 0x40 4) 44
  if r.stack.isEmpty && depth == 0 && recordIndex bs 0 == 0 then []
  else (List.range (depth + 1)).map (recordItem r bs) ++ (if depth = 44 then r.stack.drop 45 else [])

/-- A parked ray as its record's 256 bytes give it (R185, R417): the version is the pinned one, and tmax the t of the best
hit. -/
def Ray.ofRecord (r : Ray) (bs : List Byte) : Ray :=
  let w (off : Nat) : BitVec 32 := BitVec.ofNat 32 (imageField bs off 4)
  let best := if w 0x30 = 0x7F800000#32 then none else some (w 0x30, w 0x34, w 0x38, w 0x3C)
  { r with
    origin := [w 0, w 4, w 8], tmin := w 0x0C, dir := [w 0x10, w 0x14, w 0x18],
    tmax := (best.map fun b => b.1).getD (w 0x1C), best := best, stack := recordStack r bs }

/-- A ray is parked (R185): its state goes to its record, STATE becomes 1, and its slot is free; a write that cannot go now is
tried again. -/
def parkRay (s : State) (r : Ray) : State :=
  let b := bestBytes s r
  match rayWrite b.2 r 0x30 (stateBytes b.1 r) with
  | (.ok _, s) =>
    match rayWrite s r 0x2C (leBytes 4 1) with
    | (.ok _, s) => (s.answered ⟨.job r.job, r.strm⟩ (2 * r.id + 1)).modRay r.id fun r => { r with phase := .parked }
    | (_, s) => s.modRay r.id fun r => { r with phase := .parking }
  | (_, s) => s.modRay r.id fun r => { r with phase := .parking }

/-- RAY_PARK (R185): ray a is parked. -/
def execRayPark (s : State) : Result :=
  match s.guide.rays.find? fun r => r.id == s.arg.a with
  | some r => .next (if r.phase = .parked then s else parkRay s r)
  | none => .next s

/-- A completed ray (R416): its best hit and STATE 2 are written, its version is unpinned; a write that cannot go now is
tried again. -/
def completeRay (s : State) (r : Ray) : State :=
  let b := bestBytes s r
  match rayWrite b.2 r 0x30 b.1 with
  | (.ok _, s) =>
    match rayWrite s r 0x2C (leBytes 4 2) with
    | (.ok _, s) =>
      let s := (s.answered ⟨.job r.job, r.strm⟩ (2 * r.id + 1)).setRays (s.guide.rays.filter fun x => x.id ≠ r.id)
      reclaimVersions (unpinVersion s r.job.part r.ctx r.desc r.version)
    | (_, s) => s
  | (_, s) => s

/-- A traversal that meets a fault parks its ray (R212), and a record of the ray unit is posted; DATA_LOST terminates the
job. -/
def rayFault (s : State) (r : Ray) (cause : Nat) (a : Word) : State :=
  match s.job r.job with
  | none => s
  | some j =>
    let ends := dispOf cause = 2
    let rec_ : FaultRecord := { jobRecord s j cause with
      disp := if ends then 2 else 0, engine := 4, kind := 5, strmid := r.strm, akind := 0, addr := a }
    let s := if s.field (snpReg 0x010) cause cause = 1 then snapTrigger s 2 else s
    if ends then
      (s.modJob j.id fun j => { j with hardStop := true }).postLater ⟨j.id.part, rec_, .nothing, some j.id, none⟩
    else (parkRay s r).postLater ⟨j.id.part, rec_, .nothing, none, none⟩

/-- RAY_TRAVERSAL_STOP (R418): the traversal of ray a goes on until it presents a candidate or completes the ray; a long one
takes several steps. -/
def execRayTraversalStop (s : State) : Result :=
  match s.guide.rays.find? fun r => r.id == s.arg.a with
  | none => .next s
  | some r =>
    if r.phase ≠ .traversing || !((s.job r.job).any fun j => j.state == .resident && !j.hardStop) then .next s
    else
      match traverse 64 s r with
      | .at_ r s => .next (s.modRay r.id fun _ => r)
      | .complete r s => .next (completeRay (s.modRay r.id fun _ => r) r)
      | .fault r c a s => .next (rayFault (s.modRay r.id fun _ => r) r c a)

/-! ### RAY.Q (R415) -/

/-- The lanes' addresses: sB plus the zero-extended lane. -/
def laneAddrs (s : State) (a : VNum) (b : SReg) (m : LaneMask) : List (Nat × Word) :=
  (lanesOf m).map fun l => (l, s.sreg b + BitVec.ofNat 64 (elemOf (s.vreg a) 32 l))

/-- The request of a ray instruction on records. -/
def recordReq (k : AccessKind) : Req := ⟨.global, k, 256, 256, false⟩

/-- The checks of a ray instruction on its records; one that the host holds is awaited. -/
def withRecords (s : State) (k : AccessKind) (lanes : List (Nat × Word)) (go : State → Result) : Result :=
  if s.mustWait lanes then .next s.stall
  else
    match checkAccess s (recordReq k) lanes with
    | .error r => r
    | .ok (s, ps) =>
      if ps.any fun p => spotHeld s 1 true p.2 256 then .next (holdAll s true ps).stall
      else
        match (lanes.zip ps).find? fun x => spotPoisoned s 1 x.2.2 256 with
        | some x => trap s (accessFault (recordReq k) causeDataLost x.1.2)
        | none => go s

/-- The root node of a version in a descriptor's 64 bytes: none for an empty BVH (R184). -/
def rootOf (d : List Byte) (version : Nat) : Option Nat :=
  if version = 0 then none
  else (firstBelow 4 fun k => imageField d (0x20 + 8 * k) 4 == version).map fun k => imageField d (0x24 + 8 * k) 4

/-- A ray as its record and its descriptor give it; RSV bytes and the alignment of NODEBASE and TRIBASE are not looked at (log entry 195). -/
def newRay (s : State) (lane : Nat) (a : Word) (rec_ d : List Byte) : Ray :=
  let w (off : Nat) : BitVec 32 := BitVec.ofNat 32 (imageField rec_ off 4)
  let version := imageField d 0 4
  { id := 0, job := s.myJob.id, strm := s.me.id.strm, lane := lane, ctx := s.myJob.ctx, record := a,
    desc := BitVec.ofNat 64 (imageField rec_ 0x20 8), version := BitVec.ofNat 32 version,
    nodes := BitVec.ofNat 64 (imageField d 8 8), tris := BitVec.ofNat 64 (imageField d 0x10 8),
    origin := [w 0, w 4, w 8], dir := [w 0x10, w 0x14, w 0x18], tmin := w 0x0C, tmax := w 0x1C, best := none,
    stack := ((rootOf d version).map fun n => RayItem.node n 0).toList, phase := .traversing }

/-- The rays of the lanes, read from their records and descriptors in lane order. -/
def readRays (s : State) (lanes : List (Nat × Word)) (k : State → List Ray → Result) : Result :=
  match lanes with
  | [] => k s []
  | (l, a) :: rest =>
    withRead s 1 a 256 fun s rec_ =>
      let desc : Word := BitVec.ofNat 64 (imageField rec_ 0x20 8)
      if desc.toNat % 64 ≠ 0 then trap s (accessFault ⟨.global, .read, 64, 64, false⟩ causeAlignment desc)
      else
        withRead s 5 desc 64 fun s d =>
          readRays s rest fun s rs => k s (newRay s l a rec_ d :: rs)

/-- A ray enters the unit: the version and STATE 0 are written to its record. -/
def submitRay (s : State) (r : Ray) : State :=
  let r := { r with id := s.ticket }
  (rayWrite (s.nextTicket.setRays (s.guide.rays ++ [r])) r 0x28 (leBytes 4 r.version.toNat ++ leBytes 4 0)).2

/-- One lane of RAY.Q in one step: a slot and the version are free, the version is pinned and written to the record and to the lane of
VD; none while the unit or the version table is full. -/
def submitLane (s : State) (d : VNum) (r : Ray) : Option State :=
  if 256 ≤ s.raysHeld s.core then none
  else
    (pinVersion s r.job.part r.ctx r.desc r.version).map fun s =>
      (submitRay s r).setLanes d 0 (mapElems 32 fun _ => r.version.toNat) (1#128 <<< r.lane)

/-- The rays of RAY.Q in lane order, as far as there is room: with room for all it goes on, else it stalls, and the lanes that have
submitted theirs do not submit again (R415). -/
def submitLanes (s : State) (d : VNum) (rs : List Ray) : State :=
  match rs with
  | [] => { s with me := { s.me with frag := { s.me.frag with rayLanes := 0#128 } } }.advance
  | r :: rest =>
    match submitLane s d r with
    | some t => submitLanes { t with me := { t.me with frag := { t.me.frag with
        rayLanes := t.me.frag.rayLanes ||| 1#128 <<< r.lane } } } d rest
    | none => s.stall

/-- RAY.Q (R415). -/
def execRayQ (d a b : BitVec 6) (p : BitVec 4) (s : State) : Result :=
  let lanes := laneAddrs s a b (s.active p &&& ~~~s.me.frag.rayLanes)
  withRecords s .write lanes fun s => readRays s lanes fun s rs => .next (submitLanes s d rs)

/-! ### RAY.HIT (R416) -/

/-- The event of a ray and the four words of its lane; none while it must be waited for. A lane without a candidate has
free values where the candidate would stand. -/
def rayEvent (s : State) (l : Nat) (a : Word) (state : Nat) : Option (List Nat) :=
  let free (event : Nat) : List Nat :=
    let x := Config.freeBits (s.draw + l)
    [event + 256 * (x % 256), x / 2 ^ 8 % 2 ^ 32, x / 2 ^ 40 % 2 ^ 32, x / 2 ^ 72 % 2 ^ 32]
  match s.rayAt a with
  | some r =>
    match r.phase with
    | .traversing | .parking => none
    | .parked => some (free 2)
    | .candidate t tri u v group _ _ =>
      some [1 + 256 * group.toNat, t.toNat, tri.toNat, halfOf u.toNat + 2 ^ 16 * halfOf v.toNat]
  | none => if state = 2 then some (free 0) else if state = 1 then some (free 2) else none

/-- STATE of the lanes' records, in lane order. -/
def readStates (s : State) (lanes : List (Nat × Word)) (k : State → List (Nat × Word × Nat) → Result) : Result :=
  match lanes with
  | [] => k s []
  | (l, a) :: rest =>
    withRead s 1 (a + 0x2C#64) 4 fun s bs => readStates s rest fun s xs => k s ((l, a, leNat bs) :: xs)

/-- RAY.HIT (R416). -/
def execRayHit (d a b : BitVec 6) (p : BitVec 4) (s : State) : Result :=
  let m := s.active p
  let lanes := laneAddrs s a b m
  withRecords s .read lanes fun s =>
    readStates s lanes fun s xs =>
      let events := xs.map fun x => (x.1, rayEvent s x.1 x.2.1 x.2.2)
      if events.any fun e => e.2.isNone then .next s.stall
      else
        let word (k l : Nat) : Nat := (((events.find? fun e => e.1 == l).bind fun e => e.2).getD []).getD k 0
        let show_ (r : Ray) : Ray := match r.phase with
          | .candidate t tri u v g n _ => { r with phase := .candidate t tri u v g n true }
          | _ => r
        let mine (r : Ray) : Bool := r.job == s.myJob.id && lanes.any fun x => x.2 == r.record
        let s := s.setRays (s.guide.rays.map fun r => if mine r then show_ r else r)
        let s := s.writeGroup d m ((List.range 4).map fun k => mapElems 32 (word k))
        .next { s with draw := s.draw + 128 }.advance

/-! ### RAY.RES (R417) -/

/-- A decision on a candidate that the ray has: accepted with the lane's t where that lies in range. -/
def Ray.decide_ (r : Ray) (decision : Nat) (t prim u v : BitVec 32) : Ray :=
  let r := { r with phase := .traversing }
  let r := if (decision = 1 || decision = 2) && fle r.tmin.toNat t.toNat && fle t.toNat r.tmax.toNat
    then r.accept t prim u v else r
  if decision = 2 then { r with stack := [] } else r

/-- The run of the current node entered again after a triangle, or at its start (R417). -/
def Ray.reenter (r : Ray) (after : Option Nat) : Ray :=
  match r.stack with
  | .run n first _ stop :: rest =>
    { r with stack := .run n first (match after with
      | some t => max first (t + 1)
      | none => first) stop :: rest }
  | _ => r

/-- The parked rays of the lanes: a lane and its ray. -/
def parkedLanes (s : State) (lanes : List (Nat × Word)) : List (Nat × Ray) :=
  lanes.filterMap fun x => (s.rayAt x.2).bind fun r => if r.phase = .parked then some (x.1, r) else none

/-- The parked rays as their records give them, with their decisions, read before anything is changed. -/
def readParked (s : State) (w : Nat → Nat → Nat) (xs : List (Nat × Ray))
    (k : State → List (Nat × Ray × Nat) → Result) : Result :=
  match xs with
  | [] => k s []
  | (l, r) :: rest =>
    withRead s 1 r.record 256 fun s bs => readParked s w rest fun s ys => k s ((l, r.ofRecord bs, w 0 l / 2 ^ 24) :: ys)

/-- The triangles that parked rays are decided at, read before anything is changed. -/
def readTriangles (s : State) (w : Nat → Nat → Nat) (xs : List (Nat × Ray × Nat))
    (k : State → List (Nat × List Byte) → Result) : Result :=
  match xs with
  | [] => k s []
  | (l, r, decision) :: rest =>
    if decision = 3 then readTriangles s w rest k
    else
      withRead s 5 (BitVec.ofNat 64 (r.tris.toNat + 48 * w 2 l)) 48 fun s bs =>
        readTriangles s w rest fun s ys => k s ((l, bs) :: ys)

/-- A parked ray reloaded (R417): its run is entered again, and the decision is taken at the triangle read. -/
def Ray.reload (r : Ray) (l decision : Nat) (t : BitVec 32) (tri : Nat) (bs : List Byte) : Ray :=
  if decision = 3 then { r.reenter none with phase := .traversing, lane := l }
  else
    let (u, v) := match hitOf { r with tmin := 0xFF800000#32, tmax := 0x7F800000#32 } bs with
      | some (_, u, v) => (u, v)
      | none => (0x7FC00000, 0x7FC00000)
    ({ r with lane := l }.reenter (some tri)).decide_ decision t (BitVec.ofNat 32 (imageField bs 0x24 4))
      (BitVec.ofNat 32 u) (BitVec.ofNat 32 v)

/-- A lane of RAY.RES: a candidate that RAY.HIT presented is decided; a parked ray goes on from its record. -/
def resolveLane (w : Nat → Nat → Nat) (parked : List (Nat × Ray × Nat)) (tris : List (Nat × List Byte)) (s : State)
    (x : Nat × Word) : State :=
  let l := x.1
  let decision := w 0 l / 2 ^ 24
  let t : BitVec 32 := BitVec.ofNat 32 (w 1 l)
  match s.rayAt x.2 with
  | none => s
  | some r =>
    match r.phase with
    | .traversing | .parking => s
    | .candidate _ _ u v _ prim shown => if shown then s.modRay r.id fun r => r.decide_ decision t prim u v else s
    | .parked =>
      let bs := ((tris.find? fun y => y.1 == l).map fun y => y.2).getD []
      match parked.find? fun y => y.1 == l with
      | none => s
      | some (_, read, _) =>
        (rayWrite (s.modRay r.id fun _ => read.reload l decision t (w 2 l) bs) r 0x2C (leBytes 4 0)).2

/-- RAY.RES (R417): decision values 4 to 255 are reserved. -/
def execRayRes (d a b : BitVec 6) (p : BitVec 4) (s : State) : Result :=
  let m := s.active p
  let lanes := laneAddrs s a b m
  let w (n l : Nat) : Nat := elemOf (s.vregAt d n) 32 l
  if lanes.any fun x => decide (4 ≤ w 0 x.1 / 2 ^ 24) then trapIllegal s
  else
    withRecords s .write lanes fun s =>
      let parked := parkedLanes s lanes
      let waits (x : Nat × Word) : Bool := (s.rayAt x.2).any fun r => r.phase == .parking
      if lanes.any waits || (256 < s.raysHeld s.core + parked.length && !parked.isEmpty) then .next s.stall
      else
        readParked s w parked fun s parked =>
          readTriangles s w parked fun s tris => .next (lanes.foldl (resolveLane w parked tris) s).advance

end Sys2Proof.Machine
end

