-- ==== Sys2Proof/Machine/Residency.lean ====
section
/-!
DEFINITION. Virtualised vector registers (R198, R199) and spilled split-table entries (R203): what an instruction needs on
the core before it issues, and the fills and spills that bring it there; WHOLE and ENDWHOLE (R204).
-/

namespace Sys2Proof.Machine

/-! ### Residence (R198) -/

/-- Address of a register's backing slot; vector streams are numbered from 1. -/
def Job.slotOf (j : Job) (strm reg : Nat) : Word :=
  j.ctxBase + BitVec.ofNat 64 (0x30000 + 0x8000 * (strm - 1) + 0x200 * reg)

/-- A fault on the context area, charged to a fragment (R199, R203). -/
def contextFault (s : State) (kind regno cause : Nat) (a : Word) (write : Bool) : State :=
  takeFault s { cause := cause, kind := kind, space := 3, akind := if write then 1 else 0, addr := a, regno := regno }

/-- The engine takes the next step that the current fragment's next instruction needs (R198). -/
def startFill (s : State) : State :=
  match s.fetch with
  | none => s
  | some bs =>
    match decodeBytes (coreKind s.core) s.me.engine bs with
    | .instr i =>
      match residence 64 s (s.needs i) with
      | .wants s e a => s.sooner e a
      | _ => s
    | .reject _ => s

/-- REGISTER_FILL_DONE (R198): register a of arg.strm is filled from its backing slot, for fragment b; with the flag the engine
begins to make that fragment's registers resident. -/
def execRegisterFillDone (s : State) : Result :=
  let reg := s.arg.a
  let starts := s.arg.flag
  let s := s.select s.arg.strm s.arg.b
  let strm := s.me.id.strm
  if starts then .next (if s.myJob.works && s.me.frag.ready then startFill s else s)
  else if s.myJob.holds strm reg || s.myJob.state ≠ .resident || s.myJob.physical ≤ s.myJob.resident.length then .next s
  else
    match readVia s (s.myJob.via 1 s.me.id.strm s.fragOp) (s.myJob.slotOf strm reg) 512 with
    | (.ok bs, s) =>
      let s := (s.answered s.me.id s.fragOp).setJob fun j => j.touch strm reg false
      .next { s with me := s.me.setVAfter reg (BitVec.ofNat 4096 (leNat bs)) }
    | (.fault c a _, s) => .next (contextFault s 2 reg c a false)
    | (.migrating page, s) => .next (s.waitPage page)
    | (.held _, s) => .next s

/-- REGISTER_SPILL_DONE (R198): register a of stream c of the job is written to its backing slot and resident no more, for
fragment b of arg.strm. -/
def execRegisterSpillDone (s : State) : Result :=
  let reg := s.arg.a
  let vs := s.arg.c
  let s := s.select s.arg.strm s.arg.b
  let owner := s.me.id.owner
  match s.stream ⟨owner, vs⟩ with
  | none => .next s
  | some st =>
    if !s.myJob.holds vs reg || s.myJob.state ≠ .resident then .next s
    else
      match writeVia s (s.myJob.via 1 s.me.id.strm s.fragOp) (s.myJob.slotOf vs reg) (leBytes 512 (st.vregAfter reg).toNat) with
      | (.ok _, s) =>
        let s := (s.answered s.me.id s.fragOp).setJob fun j => j.drop vs reg
        .next (s.modStream ⟨owner, vs⟩ fun st => { st with spilled := reg :: st.spilled.filter fun r => r ≠ reg })
      | (.fault c a _, s) => .next (contextFault s 3 reg c a true)
      | (.migrating page, s) => .next (s.waitPage page)
      | (.held _, s) => .next s

/-! ### The split table (R203) -/

/-- Address of a slot of a stream's split-table area. -/
def Job.splitSlot (j : Job) (strm slot : Nat) : Word :=
  j.ctxBase + BitVec.ofNat 64 (0x10000 + 0x2000 * (strm - 1) + 32 * slot)

/-- Slots that the stream's entries take, those that WHOLE saved included. -/
def Stream.slotsTaken (st : Stream) : List Nat :=
  let of (fs : List Frag) (rs : List Region) : List Nat := fs.filterMap (fun f => f.slot) ++ rs.filterMap fun r => r.slot
  of (st.frag :: st.frags) st.regions ++
    match st.bracket with
    | some b => of b.frags b.regions
    | none => []

/-- Entries of a diverged stream that stand on the core. -/
def Stream.entriesOnCore (st : Stream) : Nat :=
  if st.undiverged then 0
  else ((st.frag :: st.frags).filter fun f => f.slot.isNone).length + (st.regions.filter fun r => r.slot.isNone).length

/-- Entries are numbered for an event: fragments by twice their identity, regions by one more than twice their place. -/
def fragCode (f : Frag) : Nat := 2 * f.id
def regionCode (n : Nat) : Nat := 2 * n + 1

def Stream.slotOfEntry (st : Stream) (code : Nat) : Option Nat :=
  if code % 2 = 0 then ((st.frag :: st.frags).find? fun f => f.id == code / 2).bind fun f => f.slot
  else (st.regions[code / 2]?).bind fun r => r.slot

/-- An entry in a slot, or back on the core, where it counts as used. -/
def Stream.setSlot (st : Stream) (code : Nat) (slot : Option Nat) : Stream :=
  let date (n : Nat) : Nat := if slot.isNone then st.uses + 1 else n
  let put (f : Frag) : Frag := if f.id = code / 2 then { f with slot := slot, used := date f.used } else f
  if code % 2 = 0 then { st with frag := put st.frag, frags := st.frags.map put }
  else { st with regions := st.regions.zipIdx.map fun r =>
    if r.2 = code / 2 then { r.1 with slot := slot, used := date r.1.used } else r.1 }

/-- The entry that spills next (R203): a fragment before a region, the one not used for longest; never the current one. -/
def Stream.nextSpill (st : Stream) : Option Nat :=
  match firstBy (fun (a b : Frag) => decide (a.used ≤ b.used)) (st.frags.filter fun f => f.slot.isNone) with
  | some f => some (fragCode f)
  | none =>
    (firstBy (fun (a b : Region × Nat) => decide (a.1.used ≤ b.1.used))
      (st.regions.zipIdx.filter fun r => r.1.slot.isNone)).map fun r => regionCode r.2

/-- Regions of the current fragment's lanes at some depths, by their places. -/
def Stream.regionsAt (st : Stream) (low high : Nat) : List (Nat × Region) :=
  (st.regions.zipIdx.filter fun r =>
    decide (low ≤ r.1.depth) && decide (r.1.depth ≤ high) && (r.1.waiting &&& st.frag.mask) != 0#128).map fun r => (r.2, r.1)

/-- The first of some regions whose entry is spilled. Where they are more than the core can hold at once, one that was on the
core since the fragment last issued has been there for its step. -/
def Stream.firstSpilled (st : Stream) (rs : List (Nat × Region)) : Option Nat :=
  (rs.find? fun r => r.2.slot.isSome && (decide (rs.length ≤ 14) || decide (r.2.used ≤ st.frag.used))).map fun r =>
    regionCode r.1

/-- The entry that the current fragment needs back on the core before it goes on: its own, then that of the region at whose
reconvergence address it stands. -/
def Stream.wantsEntry (st : Stream) : Option Nat :=
  if st.frag.slot.isSome then some (fragCode st.frag)
  else st.firstSpilled ((st.regionsAt st.frag.depth st.frag.depth).filter fun r => r.2.reconv == st.frag.pc)

/-- A step that an instruction needs of the split table before it issues (R203): an entry, and whether it is filled. -/
abbrev SplitStep := Option (Nat × Bool)

/-- A fill, or the spill that makes room for it. -/
def Stream.fillStep (st : Stream) (code : Nat) : Nat × Bool :=
  if 16 ≤ st.entriesOnCore then
    match st.nextSpill with
    | some c => (c, false)
    | none => (code, true)
  else (code, true)

/-- What an instruction needs: a divergent VBR room for two more entries, VEXIT and EXIT the regions that their lanes leave. -/
def State.splitNeed (s : State) (i : Instr) : SplitStep :=
  let st := s.me
  let left (low : Nat) : SplitStep := (st.firstSpilled (st.regionsAt low st.frag.depth)).map st.fillStep
  if st.bracket.isSome || st.undiverged then none
  else
    match i with
    | .vbr p _ _ =>
      let taken := s.mask &&& st.pred p.toNat
      if taken ≠ 0#128 && taken ≠ s.mask && decide (14 < st.entriesOnCore) then st.nextSpill.map fun c => (c, false) else none
    | .vexit n => left (st.frag.depth - n.toNat)
    | .exit => left 1
    | _ => none

/-- The bytes of slots of the split-table area written for the current fragment; a fault is charged to it, and it waits for a
page or a line. -/
def writeSplit (s : State) (slot : Nat) (bs : List Byte) (k : State → State) : State :=
  match writeVia s (s.myJob.via 1 s.me.id.strm s.fragOp) (s.myJob.splitSlot s.me.id.strm slot) bs with
  | (.ok _, s) => k (s.answered s.me.id s.fragOp)
  | (.fault c a _, s) => contextFault s 4 0xFFFF c a true
  | (.migrating page, s) => s.waitPage page
  | (.held _, s) => s

/-- n slots read for the current fragment, which then hold nothing. -/
def takeSplit (s : State) (slot n : Nat) (k : State → State) : State :=
  match readVia s (s.myJob.via 1 s.me.id.strm s.fragOp) (s.myJob.splitSlot s.me.id.strm slot) (32 * n) with
  | (.ok _, s) => writeSplit s slot (List.replicate (32 * n) 0#8) k
  | (.fault c a _, s) => contextFault s 4 0xFFFF c a false
  | (.migrating page, s) => s.waitPage page
  | (.held _, s) => s

/-- n entries written from a slot on. How an entry lies in its slot is not architectural: the bytes are free values. -/
def putSplit (s : State) (slot n : Nat) (k : State → State) : State :=
  let r := s.freeBytes (32 * n)
  writeSplit r.2 slot r.1 k

/-- SPLIT_TABLE_SPILL_FILL (R203), for fragment b of arg.strm: entry a spills, or with the flag returns; a fragment that waited
for the entry of its region then arrives. -/
def execSplitTableSpillFill (s : State) : Result :=
  let code := s.arg.a
  let fills := s.arg.flag
  let s := s.select s.arg.strm s.arg.b
  let put (slot : Option Nat) (s : State) : State := { s with me := s.me.setSlot code slot }
  if s.myJob.state ≠ .resident then .next s
  else
    match s.me.slotOfEntry code, fills with
    | some k, true => .next (takeSplit s k 1 fun s => let s := put none s; { s with me := s.me.settle })
    | none, false =>
      match firstBelow 240 fun k => !s.me.slotsTaken.contains k with
      | some k => .next (putSplit s k 1 (put (some k)))
      | none => .next s
    | _, _ => .next s

/-! ### WHOLE (R204) -/

/-- A fragment waits at a WHOLE. -/
def Frag.atWhole (f : Frag) : Bool :=
  match f.wait with
  | .whole _ => f.parked.isNone
  | _ => false

/-- Ticket of a wait at WHOLE. -/
def Frag.wholeTicket (f : Frag) : Nat :=
  match f.wait with
  | .whole n => n
  | _ => 0

/-- Every live fragment of the stream waits at some WHOLE. -/
def Stream.allWhole (st : Stream) : Bool :=
  st.isVector && st.bracket.isNone && !st.ended && (st.frag :: st.frags).all Frag.atWhole

/-- The bracket starts: one fragment at depth 0 with every lane, from the instruction after WHOLE. -/
def Stream.startBracket (st : Stream) : Stream :=
  let f : Frag := Frag.make st.newFragId (BitVec.allOnes 128) st.frag.pc 0
  let t := { st with bracket := some ⟨st.frag :: st.frags, st.regions⟩, frag := f, frags := [], regions := [] }
  t.finish

/-- The issuing stream's fragments all stand at a WHOLE: the on-core entries go to slots 240 to 255 and the bracket starts, or
the one that reached a WHOLE last is charged with the difference of their addresses. -/
def wholeCheck (s : State) : State :=
  if s.me.allWhole then
    if s.me.frags.all fun f => f.pc = s.me.frag.pc then
      let go (s : State) : State := { s with me := s.me.startBracket }
      if s.me.entriesOnCore = 0 then go s else putSplit s 240 s.me.entriesOnCore go
    else
      let last := firstBy (fun (a b : Frag) => decide (b.wholeTicket ≤ a.wholeTicket)) (s.me.frag :: s.me.frags)
      let s := { s with me := s.me.swapFrag ((last.map fun f => f.id).getD s.me.frag.id) }
      takeFault s { cause := causeIllegalInstruction }
  else s

/-- WHOLE (R204); a fragment that waits at it is offered again, and finds the set complete however it became so. -/
def execWhole (s : State) : Result :=
  if s.me.bracket.isSome then trapIllegal s
  else if s.me.frag.atWhole then .next (wholeCheck s)
  else .next (wholeCheck (s.waitFor (.whole s.ticket)).nextTicket)

/-- Entries that WHOLE saved. -/
def Bracket.saved (b : Bracket) : Nat :=
  if b.regions.isEmpty then 0
  else (b.frags.filter fun f => f.slot.isNone).length + (b.regions.filter fun r => r.slot.isNone).length

/-- ENDWHOLE's effect on the stream: the split table is as WHOLE found it, and every fragment continues after ENDWHOLE; one
that continues at its reconvergence address arrives there. -/
def Stream.endBracket (st : Stream) (b : Bracket) : Stream :=
  match b.frags with
  | [] => st
  | f :: fs =>
    let next := st.finish.frag.pc
    let go (g : Frag) : Frag := { g with pc := next, wait := .running, parked := none, behind := [], woken := false }
    (f :: fs).foldl (fun (t : Stream) g =>
      if (t.frag :: t.frags).any fun h => h.id == g.id then (t.swapFrag g.id).settle else t)
      { st.finish with bracket := none, frag := go f, frags := fs.map go, regions := b.regions }

/-- ENDWHOLE (R204): the saved entries return from slots 240 to 255. -/
def execEndwhole (s : State) : Result :=
  match s.me.bracket with
  | none => trapIllegal s
  | some b =>
    let go (s : State) : State := { s with me := s.me.endBracket b }
    if b.saved = 0 then .next (go s) else .next (takeSplit s 240 b.saved go)

end Sys2Proof.Machine
end

