-- ==== Sys2Proof/Machine/Preempt.lean ====
section
/-!
DEFINITION. Hard pre-emption (R163, R214, R235, R400) and the Canary (R168, R169).
-/

namespace Sys2Proof.Machine

/-! ### Steps 1 to 3: what was issued completes -/

/-- A matrix command that runs to its end before its job leaves: all but the products, which stop between blocks (R400). -/
def MatrixCmd.runsToEnd (c : MatrixCmd) : Bool :=
  c.started && match c.op with
    | .step => false
    | .loop => false
    | .coop => false
    | _ => true

/-- An operation in flight that completes first; one parked on a fault, or a CP.SEM that awaits what will not start, is
saved (R163). -/
def CopyCmd.inFlight (c : CopyCmd) : Bool :=
  c.started && c.parked.isNone && match c.op with
    | .sem _ _ => false
    | _ => true

/-- Everything that a job issued has completed. -/
def State.settled (s : State) (j : Job) : Bool :=
  !(s.net.txns.any fun t => t.strm.owner == .job j.id) && j.queries == 0 && !(j.copies.any CopyCmd.inFlight) &&
    !(j.mcmds.any MatrixCmd.runsToEnd) && !(s.guide.sends.any fun r => r.src == j.id)

/-- A ray of a job still waits to be written to its record. -/
def State.raysParking (s : State) (j : JobId) : Bool := s.guide.rays.any fun r => r.job == j && r.phase == .parking

/-- Migrated commands are recalled, CP.SEM operations that wait are unissued again, rays are parked, and what the job wrote
is released at .dev (R185, R235, R400). -/
def recallAll (s : State) (j : Job) : State :=
  let back (c : MatrixCmd) : MatrixCmd := { c with helper := none }
  let wait (c : CopyCmd) : CopyCmd := match c.op with
    | .sem _ _ => { c with started := false }
    | _ => c
  let s := s.modJob j.id fun j => { j with mcmds := j.mcmds.map back, copies := j.copies.map wait }
  let s := (s.guide.rays.filter fun r => r.job == j.id && r.phase != .parked).foldl parkRay s
  releaseAt s (j.core.getD 0) 5

/-! ### Step 4: the context area (R214) -/

/-- A piece of the context area: its offset, its bytes where the manual lays them out, how many bytes it leaves open, the
KIND of a fault there, and the register. -/
structure SavePiece where
  off   : Nat
  known : List Byte
  open_ : Nat
  kind  : Nat
  regno : Nat

def savePiece (off : Nat) (known : List Byte) (open_ : Nat) : SavePiece := ⟨off, known, open_, 3, 0xFFFF⟩

/-- ASCII "TW9CTX" and two zero bytes. -/
def contextMark : List Byte := [0x54#8, 0x57#8, 0x39#8, 0x43#8, 0x54#8, 0x58#8, 0#8, 0#8]

/-- The blocks of the streams and of the job, whose layout within is not given. -/
def blockPieces (j : Job) : List SavePiece :=
  [savePiece 0 contextMark 248, savePiece 0x100 [] 1024, savePiece 0x800 [] 2048, savePiece 0x1000 [] 2048,
    savePiece 0x1800 [] 2048] ++
    (List.range j.nvec).map fun v => savePiece (0x2000 + 0x400 * v) [] 1024

/-- The split table of a stream: the entries on the core go to slots 240 to 255, and the slots that hold no entry are zeroed
(R203). A stream inside a bracket has its entries there already (R204). -/
def Stream.splitPieces (st : Stream) : List SavePiece :=
  let at_ (k : Nat) (known : List Byte) (n : Nat) : SavePiece := ⟨0x10000 + 0x2000 * (st.id.strm - 1) + 32 * k, known, n, 4, 0xFFFF⟩
  let unused := ((List.range 240).filter fun k => !st.slotsTaken.contains k).map fun k => at_ k (List.replicate 32 0#8) 0
  let n := min st.entriesOnCore 16
  if st.bracket.isSome then unused
  else unused ++ [at_ 240 [] (32 * n), at_ (240 + n) (List.replicate (512 - 32 * n) 0#8) 0]

def splitPieces (s : State) (j : Job) : List SavePiece :=
  ((s.streamsOf j.id).filter Stream.isVector).flatMap fun st => st.splitPieces.filter fun p => 0 < p.known.length + p.open_

/-- The resident registers, in their backing slots. -/
def registerPieces (s : State) (j : Job) : List SavePiece :=
  j.resident.filterMap fun e =>
    (s.stream ⟨.job j.id, e.1⟩).map fun st =>
      ⟨0x30000 + 0x8000 * (e.1 - 1) + 0x200 * e.2.1, leBytes 512 (st.vregAfter e.2.1).toNat, 0, 3, e.2.1⟩

/-- Panels that a job has been granted (R197). -/
def Job.panelCount (j : Job) : Nat := 4 * (j.pword.extractLsb' 8 8).toNat

/-- The accumulator panels in FP32, row by row. -/
def panelPieces (j : Job) : List SavePiece :=
  (List.range j.panelCount).map fun m =>
    savePiece (0xB0000 + 16384 * m) ((List.range 4096).flatMap fun e => leBytes 4 (j.panel m (e / 64) (e % 64)).toNat) 0

/-- The panels, then the scratchpad. -/
def granulePieces (j : Job) : List SavePiece :=
  panelPieces j ++ [savePiece (0xB0000 + 16384 * j.panelCount) (cellsGet j.scratch 0 j.grant) 0]

/-- What the Canary writes: the blocks and split tables, and with an accumulator chain open the panels (R163 step 3; every granted
panel counts as live, log entry 187). -/
def canaryPieces (s : State) (j : Job) : List SavePiece :=
  blockPieces j ++ splitPieces s j ++ if j.mcmds.isEmpty then [] else panelPieces j

/-- How the saving goes. -/
inductive Saved where
  | done (s : State)
  | fault (kind regno cause : Nat) (a : Word) (s : State)
  | later (s : State)

def savePieces (s : State) (j : Job) (ps : List SavePiece) : Saved :=
  match ps with
  | [] => .done (s.answered ⟨.job j.id, 0⟩ 1)
  | p :: rest =>
    let r := s.freeBytes p.open_
    match writeVia r.2 (j.via 5 0 1) (j.ctxBase + BitVec.ofNat 64 p.off) (p.known ++ r.1) with
    | (.ok _, s) => savePieces s j rest
    | (.fault c a _, s) => .fault p.kind p.regno c a s
    | (_, s) => .later s

/-- A receiver's inbound entries are copied to its save areas (R373). -/
def saveInbound (j : Job) : Job :=
  j.inPorts.foldl (fun (j : Job) p =>
    { j with scratch := cellsSet j.scratch p.save (p.entries.flatMap fun e => leBytes 128 e.toNat) }) j

/-- A fault while the context area is written parks the pre-emption until firmware resumes it (R214); it is a trigger of R144
like any other. -/
def saveFault (s : State) (j : Job) (kind regno cause : Nat) (a : Word) : State :=
  let s := if s.field (snpReg 0x010) cause cause = 1 then snapTrigger s 2 else s
  let r : FaultRecord := { jobRecord s j cause with
    disp := dispOf cause, kind := kind, space := 3, akind := 1, addr := a, regno := regno }
  if dispOf cause = 2 then
    (s.modJob j.id fun j => { j with hardStop := true }).postLater ⟨j.id.part, r, .nothing, some j.id, none⟩
  else
    (s.modJob j.id fun j => { j with savePark := some (s.newPark 0 kind) }).postLater
      ⟨j.id.part, r, .save j.id, none, none⟩

/-! ### Step 5 -/

/-- Registers of a stream that stand in their slots after the saving. -/
def Stream.spillAll (j : Job) (st : Stream) : Stream :=
  let mine := (j.resident.filter fun e => e.1 == st.id.strm).map fun e => e.2.1
  { st with spilled := mine ++ st.spilled.filter fun r => !mine.contains r }

/-- Hard pre-emption of its job fires a stream's monitor (R311). -/
def Stream.fireWatch (st : Stream) : Stream :=
  if st.watch.isSome then { st with watch := none, fired := true } else st

/-- The job's slot, streams and granules are free, and it is SUSPENDED; its range locks are saved with it. -/
def suspend (s : State) (j : Job) : State :=
  let s := s.mapStreams (fun st => st.ofJob j.id) fun st => (st.spillAll j).fireWatch
  let s := { s with locks := s.locks.map fun (k : RangeLock) => if k.job == j.id then { k with core := none } else k }
  let s := s.nextTicket.modJob j.id fun j =>
    { j with
      state := .suspended, preempt := false, softMark := none, resident := [], since := s.time.ticks, order := s.ticket }
  s.count (schReg j.id.part 0x058) 48 1

/-- HARD_PREEMPT_DONE (R163): arg.job, asked to leave, is saved once what it issued has completed. -/
def execHardPreemptDone (s : State) : Result :=
  let s := s.rest
  match s.job s.arg.job with
  | none => .next s
  | some j =>
    if j.state ≠ .resident || !j.preempt || j.hardStop || j.savePark.isSome || !s.settled j then .next s
    else
      let s := recallAll s j
      if !releasedAt s (j.core.getD 0) 5 || s.raysParking j.id then .next s
      else
        let s := s.modJob j.id saveInbound
        match s.job j.id with
        | none => .next s
        | some j =>
          match savePieces s j (blockPieces j ++ splitPieces s j ++ registerPieces s j ++ granulePieces j) with
          | .done s => .next (suspend s j)
          | .fault kind regno cause a s => .next (saveFault s j kind regno cause a)
          | .later s => .next s

/-! ### The Canary (R168, R169) -/

/-- CANARY_EXPIRY (R169): arg.job stops issuing, its parked copies are abandoned, what it issued completes; the split tables,
stream blocks and live panels are written, WATCHDOG is recorded, and the job ends once its record stands. -/
def execCanaryExpiry (s : State) : Result :=
  let s := s.rest
  match s.job s.arg.job with
  | none => .next s
  | some j =>
    if !j.expired || j.savePark.isSome then .next s
    else
      let parked := (j.copies.filter fun c => c.parked.isSome).map fun c => c.id
      let s := parked.foldl (fun s op => s.freeLocks j.id op) s
      let s := s.modJob j.id fun j =>
        { j with preempt := true, copies := j.copies.filter fun c => c.parked.isNone }
      if !s.settled j then .next s
      else
        let s := recallAll s j
        if s.raysParking j.id then .next s else
        match savePieces s j (canaryPieces s j) with
        | .done s =>
          let s := (s.modJob j.id fun j => { j with hardStop := true }).raise (schReg j.id.part 0x028) 2
          let s := if s.field (snpReg 0x010) causeWatchdog causeWatchdog = 1 then snapTrigger s 2 else s
          .next (s.postLater ⟨j.id.part, jobRecord s j causeWatchdog, .nothing, some j.id, none⟩)
        | .fault kind regno cause a s => .next (saveFault s j kind regno cause a)
        | .later s => .next s

end Sys2Proof.Machine
end

