-- ==== Sys2Proof/Machine/Reduce.lean ====
section
/-!
DEFINITION. Scans and reductions over the fixed pairwise tree (R289 to R291, R345).
-/

namespace Sys2Proof.Machine

/-- How two present values combine; E is the element number of the rounding (R276). -/
abbrev Combine := Nat → Nat → Nat → Nat

/-- A node: one present child passes up unchanged, none leaves it absent (R289). -/
def joinNode (c : Combine) (e : Nat) (x y : Option Nat) : Option Nat :=
  match x, y with
  | some x, some y => some (c e x y)
  | some x, none => some x
  | none, y => y

/-- One level of the tree: node i of the new level covers elements from 2 x size x i. -/
def nextLevel (c : Combine) (size i : Nat) (xs : List (Option Nat)) : List (Option Nat) :=
  match xs with
  | x :: y :: rest => joinNode c (2 * size * i) x y :: nextLevel c size (i + 1) rest
  | xs => xs

/-- The levels of the tree, the leaves last, each with the elements that its nodes cover. -/
def treeLevels (c : Combine) (fuel size : Nat) (xs : List (Option Nat)) (below : List (Nat × List (Option Nat))) :
    List (Nat × List (Option Nat)) :=
  match fuel with
  | 0 => (size, xs) :: below
  | fuel + 1 => treeLevels c fuel (2 * size) (nextLevel c size 0 xs) ((size, xs) :: below)

/-- Levels above the leaves: log2 of the element count. -/
def treeHeight (w : Nat) : Nat := (elemCount w).log2


/-- RED's result: the root, or the operation's identity (R289). -/
def treeRoot (levels : List (Nat × List (Option Nat))) (identity : Nat) : Nat :=
  match levels with
  | (_, some x :: _) :: _ => x
  | _ => identity

/-- The left fold of the maximal aligned nodes that cover the elements below n, from position pos (R290); each step draws
with the highest element that its result covers. -/
def prefixFold (c : Combine) (n pos : Nat) (acc : Option Nat) (levels : List (Nat × List (Option Nat))) : Option Nat :=
  match levels with
  | [] => acc
  | (size, xs) :: rest =>
    if pos + size ≤ n then
      prefixFold c n (pos + size) (joinNode c (pos + size - 1) acc (xs.getD (pos / size) none)) rest
    else prefixFold c n pos acc rest

/-- An operation of R345: its element width, how it takes an operand (R271), its combination and its identity. -/
structure Reduction where
  w        : Nat
  operand  : Nat → Nat
  combine  : Combine
  identity : Nat

/-- The tree over the present elements of a register. -/
def treeOf (r : Reduction) (present : Nat → Bool) (v : VReg) : List (Nat × List (Option Nat)) :=
  treeLevels r.combine (treeHeight r.w) 1
    ((List.range (elemCount r.w)).map fun e => if present e then some (r.operand (elemOf v r.w e)) else none) []

/-- The floating-point operations of SCAN and RED (R345); FTZ flushes every operand, one that is combined with none too (R271). -/
def floatReduction (s : State) (op : Nat) (t : BitVec 3) : Reduction :=
  let f := floatFormat t.toNat
  match op with
  | 0 => ⟨f.width, f.flush s.me.ftz, fun e x y => f.result s.me.ftz (s.rounding s.me.rmode e)
      (Num.add s.me.rmode (f.read s.me.ftz x) (f.read s.me.ftz y)), 0⟩
  | 1 => ⟨f.width, f.flush s.me.ftz, fun _ x y => f.pick false (f.flush s.me.ftz x) (f.flush s.me.ftz y), f.infCode⟩
  | _ => ⟨f.width, f.flush s.me.ftz, fun _ x y => f.pick true (f.flush s.me.ftz x) (f.flush s.me.ftz y), f.signed true f.infCode⟩

/-- The integer operations of SCAN and RED (R345). -/
def intReduction (op : Nat) (t : BitVec 3) : Reduction :=
  let w := intWidth t
  let g := tySigned t
  match op with
  | 8 => ⟨w, id, fun _ x y => (x + y) % 2 ^ w, 0⟩
  | 9 => ⟨w, id, fun _ x y => if toInt w g y < toInt w g x then y else x, ofInt w (hiBound w g)⟩
  | 10 => ⟨w, id, fun _ x y => if toInt w g x < toInt w g y then y else x, ofInt w (loBound w g)⟩
  | 11 => ⟨w, id, fun _ x y => Nat.land x y, 2 ^ w - 1⟩
  | 12 => ⟨w, id, fun _ x y => Nat.lor x y, 0⟩
  | _ => ⟨w, id, fun _ x y => Nat.xor x y, 0⟩

/-- The checks that SCAN and RED share, and the step of the generator where FADD rounds (R276, R345). -/
def reduction (s : State) (o : BitVec 6) (t : BitVec 3) (k : State → Reduction → Result) : Result :=
  if !reductionOp o then trapIllegal s
  else if o.toNat < 8 then
    if 3 ≤ t.toNat then trapType s
    else
      let s := if o.toNat = 0 then s.stepGen s.me.rmode else s
      k s (floatReduction s o.toNat t)
  else if intWidth t = 4 then trapType s
  else k s (intReduction o.toNat t)

/-- SCAN (R290, R345). -/
def execScan (d a : VNum) (o : BitVec 6) (p : BitVec 4) (t : BitVec 3) (s : State) : Result :=
  reduction s o t fun s r =>
    let m := s.active p
    let levels := treeOf r (fun e => m.getLsbD (laneOfElem r.w e)) (s.vreg a)
    .next (s.writeActive d m (mapElems r.w fun e => (prefixFold r.combine (e + 1) 0 none levels).getD 0))

/-- RED (R289, R345): every element of every lane of the fragment's mask. -/
def execRed (d a : VNum) (o : BitVec 6) (p : BitVec 4) (t : BitVec 3) (s : State) : Result :=
  reduction s o t fun s r =>
    let m := s.active p
    let levels := treeOf r (fun e => m.getLsbD (laneOfElem r.w e)) (s.vreg a)
    .next (s.writeActive d s.mask (mapElems r.w fun _ => treeRoot levels r.identity))

end Sys2Proof.Machine
end

