-- ==== Sys2Proof/Machine/Ring.lean ====
section
/-!
DEFINITION. The Adit ring (R178 to R180, R414): GUIDE.OUT and the landing of a guide bin.
-/

namespace Sys2Proof.Machine

/-- A ring descriptor (R178). -/
structure Ring where
  launch  : Nat
  job     : Nat
  ringOff : Nat
  tagOff  : Nat
  fullOff : Nat
  freeOff : Nat
  slots   : Nat
  next    : Nat
  deriving DecidableEq, Repr

def Ring.ofBytes (d : List Byte) : Ring :=
  ⟨imageField d 0x00 4, imageField d 0x04 4, imageField d 0x08 4, imageField d 0x0C 4, imageField d 0x10 4,
    imageField d 0x14 4, imageField d 0x18 2, imageField d 0x1C 4⟩

/-- NSLOT, NEXT and the offsets' alignment (R180). -/
def Ring.wellFormed (r : Ring) : Bool :=
  decide (1 ≤ r.slots) && decide (r.slots ≤ 32) && decide (r.next < r.slots) && r.ringOff % 16384 == 0 &&
    r.tagOff % 8 == 0 && r.fullOff % 8 == 0 && r.freeOff % 8 == 0

/-- Slots, tags and the full semaphore lie within the consumer's grant. -/
def Ring.fits (r : Ring) (grant : Nat) : Bool :=
  decide (r.ringOff + 16384 * r.slots ≤ grant) && decide (r.tagOff + 8 * r.slots ≤ grant) &&
    decide (r.fullOff + 8 ≤ grant)

/-- A tile die is attached to a guide die by an Adit (R16). -/
def aditJoins (gd td : Nat) : Bool := decide (td < 4) && td / 2 + 4 == gd

/-- An access of the own pool with its checks (R356): the offset. -/
def ownPool (s : State) (a : Word) (n align : Nat) (k : AccessKind) (go : State → Nat → Result) : Result :=
  match checkAccess s ⟨.scratch, k, n, align, false⟩ [(0, a)] with
  | .error r => r
  | .ok (s, _) => go s a.toNat

/-- The free count is taken, NEXT moves on, and the bin is sent; its source is locked until every byte has landed (R414);
without room in the lock table the instruction stalls and has taken nothing. Its beats travel in packets of class 10 (R81). -/
def sendBin (s : State) (r : Ring) (target : JobId) (ringAt srcOff free : Nat) (tag : Word) : Result :=
  engineReady s fun s =>
    match registerLocks s s.ticket [⟨.scratch, srcOff, srcOff + 16384, false⟩] with
    | none => .next s.stall
    | some t =>
      let me := s.myJob.id
      let send : RingSend := ⟨s.ticket, me, target, r.ringOff, r.tagOff, r.fullOff, srcOff, r.next, tag⟩
      let t := t.poolWrite me r.freeOff (leBytes 4 (free - 1))
      let t := t.poolWrite me (ringAt + 0x1C) (leBytes 4 ((r.next + 1) % r.slots))
      let beats (s : State) : State :=
        match (s.job target).bind fun x => x.core with
        | some c =>
          (List.range 128).foldl (fun s _ => s.parcel
            ⟨10, 0, 2, s.extSlack (coreDie s.core), s.groupTag, 0, coreStop s.core, coreStop c, corePort s.core, [s.me.id]⟩) s
        | none => s
      let t := beats t
      .next ({ t.nextTicket with guide := { t.guide with sends := t.guide.sends ++ [send] } }).advance

/-- The stream waits for the free semaphore as SEM.WAIT does. -/
def waitFree (s : State) (off : Nat) : Result :=
  match semTicket off s.me.frag with
  | some _ => .next s
  | none => .next (s.waitFor (.semaphore off s.ticket)).nextTicket

/-- The consumer that a ring names (R180), once it is resident; of one that has been resident the die and the grant are
checked at issue, though it is away now. -/
def withConsumer (s : State) (r : Ring) (refuse : Result) (go : JobId → Result) : Result :=
  match namedJob s s.part r.launch r.job with
  | none => refuse
  | some (_, id, none) => .next (s.waitPeer id)
  | some (_, id, some c) =>
    if c.state == .distributed && (s.streamsOf id).isEmpty && c.relaunches = 0 then .next (s.waitPeer id)
    else if !aditJoins (coreDie s.core) c.die || !r.fits c.grant then refuse
    else if c.away then .next (s.waitPeer id)
    else go id

/-- GUIDE.OUT (R179, R180, R414): the checks of the own pool, of the ring and of the consumer, the free count, the send. -/
def execGuideOut (d a b : BitVec 6) (s : State) : Result :=
  streamForm s <|
    ownPool s (s.sreg a) 32 32 .write fun s ringAt =>
      ownPool s (s.sreg b) 16384 256 .read fun s src =>
        let me := s.myJob.id
        let bytes := s.poolRead me ringAt 32
        let r := Ring.ofBytes bytes
        let refuse := trap s { cause := causePermission, space := 1, addr := s.sreg a }
        if !r.wellFormed || s.myJob.grant < r.freeOff + 8 then refuse
        else
          withConsumer s r refuse fun id =>
            let free := s.poolNat me r.freeOff 4
            if free = 0 || s.behind (semTicket r.freeOff) then waitFree s r.freeOff
            else sendBin s r id ringAt src free (s.sreg d)

/-- The sends of a job stand in issue order; the first of a ring lands first (R179). -/
def State.sendsBefore (s : State) (r : RingSend) : Bool :=
  (s.guide.sends.takeWhile fun x => x.id ≠ r.id).any fun x => x.dst == r.dst && x.fullOff == r.fullOff

/-- GUIDE_BIN_LANDED (R179): the bytes of send a and its tag have landed in the consumer's slot, then its full semaphore is
raised; a consumer that is away is awaited (R164), and one that has ended receives nothing. -/
def execGuideBinLanded (s : State) : Result :=
  match s.guide.sends.find? fun r => r.id == s.arg.a with
  | none => .next s
  | some r =>
    let gone (s : State) : State :=
      { s.freeLocks r.src r.id with guide := { s.guide with sends := s.guide.sends.filter fun x => x.id ≠ r.id } }
    match s.job r.dst with
    | none => .next (gone s)
    | some c =>
      if c.away || s.sendsBefore r then .next s
      else
        let bs := s.poolRead r.src r.srcOff 16384
        let s := s.poolWrite r.dst (r.ringOff + 16384 * r.slot) bs
        let s := s.poolWrite r.dst (r.tagOff + 8 * r.slot) (leBytes 8 r.tag.toNat)
        .next (gone (semRaise s r.dst r.fullOff 1))

end Sys2Proof.Machine
end

