-- ==== Sys2Proof/Machine/Scalar.lean ====
section
/-!
DEFINITION. Scalar arithmetic and logic on s0-s63 (R292 to R296, R267): 64-bit, wrapping, without flags.
-/

namespace Sys2Proof.Machine

/-- A scalar result: sD is written and the instruction completes (R292). -/
def scalarResult (s : State) (d : SReg) (v : Word) : Result := .next ((s.setS d v).advance)

/-- DIVU: division by zero gives all ones (R267). -/
def divUnsigned (a b : Word) : Word :=
  if b = 0#64 then BitVec.allOnes 64 else BitVec.ofNat 64 (a.toNat / b.toNat)

/-- REMU: the remainder by zero is a (R267). -/
def remUnsigned (a b : Word) : Word :=
  if b = 0#64 then a else BitVec.ofNat 64 (a.toNat % b.toNat)

/-- DIVS: truncated toward zero; -1 by zero; -2^63 by -1 gives -2^63 (R267). -/
def divSigned (a b : Word) : Word :=
  if b = 0#64 then BitVec.allOnes 64 else BitVec.ofInt 64 (a.toInt.tdiv b.toInt)

/-- REMS: the sign of a; a by zero; -2^63 by -1 gives 0 (R267). -/
def remSigned (a b : Word) : Word :=
  if b = 0#64 then a else BitVec.ofInt 64 (a.toInt.tmod b.toInt)

/-- Shifts and rotation take their amount modulo 64 (R267). -/
def shiftLeft (a : Word) (n : Nat) : Word := a <<< (n % 64)
def shiftRight (a : Word) (n : Nat) : Word := a >>> (n % 64)
def shiftArith (a : Word) (n : Nat) : Word := a.sshiftRight (n % 64)
def rotateLeft (a : Word) (n : Nat) : Word := a <<< (n % 64) ||| a >>> ((64 - n % 64))

/-- STEP2's cell pair (R296): rows of A[31:0] cells; a row of no cells leaves the pair unchanged. -/
def stepCells (d a b : Word) : Word :=
  let x := bitsOf a 31 0
  let t := bitsOf d 31 0 + bitsOf b 31 0
  if x = 0 then d else BitVec.ofNat 64 ((bitsOf d 63 32 + t / x) % 2 ^ 32 * 2 ^ 32 + t % x)

/-- WRAP's ring index (R296). -/
def wrapIndex (d a b : Word) : Word :=
  let t := d + a
  if b = 0#64 then t else BitVec.ofNat 64 (t.toNat % b.toNat)

/-- ADD (R293): A + B. -/
def execAdd (d : SReg) (a : SReg) (b : SReg) (s : State) : Result :=
  scalarResult s d (s.sreg a + s.sreg b)

/-- SUB (R293): A - B. -/
def execSub (d : SReg) (a : SReg) (b : SReg) (s : State) : Result :=
  scalarResult s d (s.sreg a - s.sreg b)

/-- MUL (R293): the low 64 bits of A x B. -/
def execMul (d : SReg) (a : SReg) (b : SReg) (s : State) : Result :=
  scalarResult s d (s.sreg a * s.sreg b)

/-- MULHS (R267): bits [127:64] of the exact signed product. -/
def execMulhs (d : SReg) (a : SReg) (b : SReg) (s : State) : Result :=
  scalarResult s d (BitVec.ofInt 64 ((s.sreg a).toInt * (s.sreg b).toInt / 2 ^ 64))

/-- MULHU (R267): bits [127:64] of the exact unsigned product. -/
def execMulhu (d : SReg) (a : SReg) (b : SReg) (s : State) : Result :=
  scalarResult s d (BitVec.ofNat 64 ((s.sreg a).toNat * (s.sreg b).toNat / 2 ^ 64))

/-- DIVS (R267). -/
def execDivs (d : SReg) (a : SReg) (b : SReg) (s : State) : Result :=
  scalarResult s d (divSigned (s.sreg a) (s.sreg b))

/-- DIVU (R267). -/
def execDivu (d : SReg) (a : SReg) (b : SReg) (s : State) : Result :=
  scalarResult s d (divUnsigned (s.sreg a) (s.sreg b))

/-- REMS (R267). -/
def execRems (d : SReg) (a : SReg) (b : SReg) (s : State) : Result :=
  scalarResult s d (remSigned (s.sreg a) (s.sreg b))

/-- REMU (R267). -/
def execRemu (d : SReg) (a : SReg) (b : SReg) (s : State) : Result :=
  scalarResult s d (remUnsigned (s.sreg a) (s.sreg b))

/-- AND (R293). -/
def execAnd (d : SReg) (a : SReg) (b : SReg) (s : State) : Result :=
  scalarResult s d (s.sreg a &&& s.sreg b)

/-- OR (R293). -/
def execOr (d : SReg) (a : SReg) (b : SReg) (s : State) : Result :=
  scalarResult s d (s.sreg a ||| s.sreg b)

/-- XOR (R293). -/
def execXor (d : SReg) (a : SReg) (b : SReg) (s : State) : Result :=
  scalarResult s d (s.sreg a ^^^ s.sreg b)

/-- ANDN (R293): A AND NOT B. -/
def execAndn (d : SReg) (a : SReg) (b : SReg) (s : State) : Result :=
  scalarResult s d (s.sreg a &&& ~~~ (s.sreg b))

/-- SHL (R293). -/
def execShl (d : SReg) (a : SReg) (b : SReg) (s : State) : Result :=
  scalarResult s d (shiftLeft (s.sreg a) (s.sreg b).toNat)

/-- SHR (R293). -/
def execShr (d : SReg) (a : SReg) (b : SReg) (s : State) : Result :=
  scalarResult s d (shiftRight (s.sreg a) (s.sreg b).toNat)

/-- SAR (R293). -/
def execSar (d : SReg) (a : SReg) (b : SReg) (s : State) : Result :=
  scalarResult s d (shiftArith (s.sreg a) (s.sreg b).toNat)

/-- ROL (R293). -/
def execRol (d : SReg) (a : SReg) (b : SReg) (s : State) : Result :=
  scalarResult s d (rotateLeft (s.sreg a) (s.sreg b).toNat)

/-- MIN (R293): the smaller, signed. -/
def execMin (d : SReg) (a : SReg) (b : SReg) (s : State) : Result :=
  scalarResult s d (if (s.sreg a).slt (s.sreg b) then s.sreg a else s.sreg b)

/-- MAX (R293): the larger, signed. -/
def execMax (d : SReg) (a : SReg) (b : SReg) (s : State) : Result :=
  scalarResult s d (if (s.sreg a).slt (s.sreg b) then s.sreg b else s.sreg a)

/-- MINU (R293): the smaller, unsigned. -/
def execMinu (d : SReg) (a : SReg) (b : SReg) (s : State) : Result :=
  scalarResult s d (if (s.sreg a).ult (s.sreg b) then s.sreg a else s.sreg b)

/-- MAXU (R293): the larger, unsigned. -/
def execMaxu (d : SReg) (a : SReg) (b : SReg) (s : State) : Result :=
  scalarResult s d (if (s.sreg a).ult (s.sreg b) then s.sreg b else s.sreg a)

/-- SEQ (R293). -/
def execSeq (d : SReg) (a : SReg) (b : SReg) (s : State) : Result :=
  scalarResult s d (boolWord (s.sreg a == s.sreg b))

/-- SNE (R293). -/
def execSne (d : SReg) (a : SReg) (b : SReg) (s : State) : Result :=
  scalarResult s d (boolWord (s.sreg a != s.sreg b))

/-- SLT (R293): signed. -/
def execSlt (d : SReg) (a : SReg) (b : SReg) (s : State) : Result :=
  scalarResult s d (boolWord ((s.sreg a).slt (s.sreg b)))

/-- SLTU (R293): unsigned. -/
def execSltu (d : SReg) (a : SReg) (b : SReg) (s : State) : Result :=
  scalarResult s d (boolWord ((s.sreg a).ult (s.sreg b)))

/-- SEL (R293): by the old value of sD. -/
def execSel (d : SReg) (a : SReg) (b : SReg) (s : State) : Result :=
  scalarResult s d (if s.sreg d = 0#64 then s.sreg b else s.sreg a)

/-- CLZ (R293). -/
def execClz (d : SReg) (a : SReg) (s : State) : Result :=
  scalarResult s d (BitVec.ofNat 64 (leadingZeros 64 (s.sreg a).toNat))

/-- CTZ (R293). -/
def execCtz (d : SReg) (a : SReg) (s : State) : Result :=
  scalarResult s d (BitVec.ofNat 64 (trailingZeros 64 (s.sreg a).toNat))

/-- POPC (R293). -/
def execPopc (d : SReg) (a : SReg) (s : State) : Result :=
  scalarResult s d (BitVec.ofNat 64 (onesIn 64 (s.sreg a).toNat))

/-- BREV (R293). -/
def execBrev (d : SReg) (a : SReg) (s : State) : Result :=
  scalarResult s d (BitVec.ofNat 64 (bitsReversed 64 (s.sreg a).toNat))

/-- ADDI (R294): sign-extended immediate. -/
def execAddi (d : SReg) (a : SReg) (i : BitVec 13) (s : State) : Result :=
  scalarResult s d (s.sreg a + i.signExtend 64)

/-- ANDI (R294): sign-extended immediate. -/
def execAndi (d : SReg) (a : SReg) (i : BitVec 13) (s : State) : Result :=
  scalarResult s d (s.sreg a &&& i.signExtend 64)

/-- ORI (R294): zero-extended immediate. -/
def execOri (d : SReg) (a : SReg) (i : BitVec 13) (s : State) : Result :=
  scalarResult s d (s.sreg a ||| i.zeroExtend 64)

/-- XORI (R294): zero-extended immediate. -/
def execXori (d : SReg) (a : SReg) (i : BitVec 13) (s : State) : Result :=
  scalarResult s d (s.sreg a ^^^ i.zeroExtend 64)

/-- SHLI (R294). -/
def execShli (d : SReg) (a : SReg) (k : BitVec 6) (s : State) : Result :=
  scalarResult s d (shiftLeft (s.sreg a) k.toNat)

/-- SHRI (R294). -/
def execShri (d : SReg) (a : SReg) (k : BitVec 6) (s : State) : Result :=
  scalarResult s d (shiftRight (s.sreg a) k.toNat)

/-- SARI (R294). -/
def execSari (d : SReg) (a : SReg) (k : BitVec 6) (s : State) : Result :=
  scalarResult s d (shiftArith (s.sreg a) k.toNat)

/-- SLTI (R294): signed. -/
def execSlti (d : SReg) (a : SReg) (i : BitVec 13) (s : State) : Result :=
  scalarResult s d (boolWord ((s.sreg a).slt (i.signExtend 64)))

/-- SLTUI (R294): sign-extended immediate, unsigned compare. -/
def execSltui (d : SReg) (a : SReg) (i : BitVec 13) (s : State) : Result :=
  scalarResult s d (boolWord ((s.sreg a).ult (i.signExtend 64)))

/-- MULI (R294): the low 64 bits. -/
def execMuli (d : SReg) (a : SReg) (i : BitVec 13) (s : State) : Result :=
  scalarResult s d (s.sreg a * i.signExtend 64)

/-- AHI (R295): sD[31:13] is IMM19, sign-extended above, zero below. -/
def execAhi (d : SReg) (j : BitVec 19) (s : State) : Result :=
  scalarResult s d (j.signExtend 64 <<< 13)

/-- LEA (R296): A + B x 2^sh. -/
def execLea (d : SReg) (a : SReg) (b : SReg) (h : BitVec 3) (s : State) : Result :=
  scalarResult s d (s.sreg a + s.sreg b <<< h.toNat)

/-- STEP2 (R296). -/
def execStep2 (d : SReg) (a : SReg) (b : SReg) (s : State) : Result :=
  scalarResult s d (stepCells (s.sreg d) (s.sreg a) (s.sreg b))

/-- WRAP (R296). -/
def execWrap (d : SReg) (a : SReg) (b : SReg) (s : State) : Result :=
  scalarResult s d (wrapIndex (s.sreg d) (s.sreg a) (s.sreg b))

end Sys2Proof.Machine
end

