-- ==== Sys2Proof/Machine/Service.lean ====
section
/-!
DEFINITION. RESUME and KILL (R313, R314, R435).
-/

namespace Sys2Proof.Machine

/-- The fields of a fault record that RESUME and KILL read (R213). -/
structure Named where
  disp   : Nat
  strm   : Nat
  job    : Nat
  launch : Nat
  coreid : Nat
  time   : Word
  deriving DecidableEq, Repr

def parseNamed (bs : List Byte) : Named :=
  ⟨recNat bs 1 1, recNat bs 4 2, recNat bs 8 4, recNat bs 0xC 4, recNat bs 0x10 2, BitVec.ofNat 64 (recNat bs 0x30 8)⟩

/-- The management core that a COREID names (R312). -/
def mgmtOf (coreid : Nat) : Option Nat := if natBits coreid 8 5 = 15 then some (natBits coreid 4 0 % 4) else none

/-- The core that a COREID names (R312). -/
def coreOfId (w : Nat) : Nat :=
  let die := w / 512
  if die < 4 then 112 * die + 8 * natBits w 8 5 + natBits w 4 0 else 448 + 48 * (die - 4) + 8 * natBits w 8 5 + natBits w 4 0

/-- A record that concerns a whole launch (R213). -/
def Named.ofLaunch (r : Named) : Bool := r.strm == 0xFFFF && decide (4 ≤ r.disp) && decide (r.disp ≤ 6)

/-- A launch held under a record. -/
def heldUnder (r : Named) (l : Launch) : Bool := l.acc % 2 ^ 32 == r.launch && l.patch == .held r.time

/-- The partition that a record belongs to: a launch's record names no core, and is looked for among the launches held,
in the issuer's partition unless firmware issues. -/
def recordPart (s : State) (r : Named) : Nat :=
  if r.ofLaunch then
    if s.isMgmt then ((s.sch.launches.find? (heldUnder r)).map fun l => l.part).getD 0 else s.part
  else s.corePart (coreOfId r.coreid)

/-- RESUME and KILL up to the point at which they act (R313): privilege, alignment, the record, whose it is, and the
release at .dev. -/
def withRecord (s : State) (d a : SReg) (k : State → Named → Result) : Result :=
  if s.priv = 0 then trapIllegal s
  else
    let va := s.sreg a
    if va.toNat % 128 ≠ 0 then trap s (accessFault ⟨.global, .read, 128, 128, false⟩ causeAlignment va)
    else
      withRead s 5 va 128 fun s bs =>
        let r := parseNamed bs
        if !s.isMgmt && ((mgmtOf r.coreid).isSome || recordPart s r ≠ s.part) then
          .next (s.setS d 2#64).advance
        else releaseThen s true 5 fun s => k s r

/-- A status in sD. -/
def serviceStatus (s : State) (d : SReg) (n : Nat) : Result := .next (s.setS d (BitVec.ofNat 64 n)).advance

/-- A park that a record names and that has not been resumed. -/
def Park.under (p : Park) (r : Named) : Bool := p.time == r.time && !p.resumed

/-- The core of a management record is parked with its TIME. -/
def State.mgmtParked (s : State) (n : Nat) (r : Named) : Bool :=
  s.sys.mgmtPark.any fun p => p.1 == n && p.2.time == r.time

/-- A management core is parked no longer under the record in its slot: PEND clears (R435). -/
def unparkMgmt (s : State) (n : Nat) : State :=
  { s with sys := { s.sys with mgmtPark := s.sys.mgmtPark.filter fun p => p.1 != n } }.setField (bootReg 0x058) n n 0

/-- A management core at the entry point of the running firmware image, registers and loop counters zero (R435); what it
had under way, and records of its that wait, are no longer its own. -/
def restartMgmt (s : State) (n : Nat) : State :=
  let s := { s with
    net := { s.net with txns := s.net.txns.filter fun t => t.strm != (⟨.mgmt n, 0⟩ : StreamId) },
    sch := { s.sch with records := s.sch.records.filter fun r => r.part != mgmtArea n } }
  s.modStream ⟨.mgmt n, 0⟩ fun _ => Stream.start ⟨.mgmt n, 0⟩ .control 0#128 Config.firmwareEntry

/-- The fragment of a stream that is parked under a record, and the number of that park. -/
def Stream.parkedUnder (st : Stream) (r : Named) : Option (Nat × Nat) :=
  ((st.frag :: st.frags).flatMap fun f => (f.parks.filter fun p => p.under r).map fun p => (f.id, p.no)).head?

/-- The park of a number given RESUME while its job holds no core (R211). -/
def Frag.noteResume (no : Nat) (f : Frag) : Frag :=
  f.mapParks fun p => if p.no = no then { p with resumed := true } else p

def CopyCmd.noteResume (r : Named) (c : CopyCmd) : CopyCmd :=
  { c with parked := c.parked.map fun p => if p.under r then { p with resumed := true } else p }

/-- The copy of a job that is parked under a record, which names the copy stream. -/
def Job.copyUnder (j : Job) (r : Named) : Option CopyCmd :=
  j.copies.find? fun c => r.strm == copyStrm && match c.parked with
    | some p => p.under r
    | _ => false

/-- RESUME of an item of a job: none when nothing is parked under the record. A save that is parked has a record of the scheduler,
which names no stream. -/
def resumeItem (s : State) (j : Job) (r : Named) : Option State :=
  let id : StreamId := ⟨.job j.id, r.strm⟩
  match (s.stream id).bind fun st => st.parkedUnder r with
  | some (f, no) =>
    some (if j.state = .resident then s.resumeFrag id f no else s.modFrag id f (Frag.noteResume no))
  | none =>
    match j.copyUnder r with
    | some c =>
      let go (x : CopyCmd) : CopyCmd := if j.state = .resident then { x with parked := none } else x.noteResume r
      some (s.modJob j.id fun x => { x with copies := x.copies.map fun y => if y.id = c.id then go y else y })
    | none =>
      match j.savePark with
      | some p => if r.strm = 0xFFFF && p.under r then some (s.modJob j.id fun x => { x with savePark := none }) else none
      | none => none

/-- RESUME (R313). -/
def execResume (d a : SReg) (s : State) : Result :=
  withRecord s d a fun s r =>
    match mgmtOf r.coreid with
    | some n =>
      match s.sys.mgmtPark.find? fun p => p.1 == n && p.2.time == r.time with
      | some p =>
        if r.disp ≤ 1 then serviceStatus ((unparkMgmt s n).resumeFrag ⟨.mgmt n, 0⟩ 0 p.2.no) d 0 else serviceStatus s d 1
      | none => serviceStatus s d 1
    | none =>
      let part := recordPart s r
      if r.disp = 5 then
        match s.sch.launches.find? fun l => l.part == part && heldUnder r l with
        | some l => serviceStatus (s.modLaunch part l.acc fun l => { l with patch := .unchecked }) d 0
        | none => serviceStatus s d 1
      else if r.disp ≤ 1 then
        match (namedJob s part r.launch r.job).bind fun x => x.2.2 with
        | some j =>
          match resumeItem s j r with
          | some s => serviceStatus s d 0
          | none => serviceStatus s d 1
        | none => serviceStatus s d 1
      else serviceStatus s d 1

/-- A job's record with cause 0 joins those to be posted; the job ends when it stands (R314). -/
def postKill (s : State) (j : Job) : State :=
  s.postLater ⟨j.id.part, jobRecord s j causeKilled, .nothing, some j.id, none⟩

/-- KILL (R314, R435). -/
def execKill (d a : SReg) (s : State) : Result :=
  withRecord s d a fun s r =>
    match mgmtOf r.coreid with
    | some n =>
      if s.mgmtParked n r then serviceStatus (restartMgmt (unparkMgmt s n) n) d 0 else serviceStatus s d 1
    | none =>
      match namedJob s (recordPart s r) r.launch r.job with
      | none => serviceStatus s d 1
      | some (l, id, none) =>
        serviceStatus ((postKill s (newJob l id.job 0)).modLaunch id.part id.acc fun l => l.take id.job) d 0
      | some (_, id, some j) =>
        if j.hardStop || j.killWanted then serviceStatus s d 1
        else if j.state = .suspended then serviceStatus (s.modJob id fun x => { x with killWanted := true }) d 0
        else
          let s := postKill (stopJob s id) j
          if s.me.ofJob id then .next s else serviceStatus s d 0

end Sys2Proof.Machine
end

