-- ==== Sys2Proof/Machine/Snapshot.lean ====
section
/-!
DEFINITION. The snapshot trigger (R144 to R146): arming, its sources, the latch of shadows and core records, and DONE.
-/

namespace Sys2Proof.Machine

/-- SNAP_ARM (R146): v as written to SNP_CTL. -/
def execSnapArm (s : State) : Result :=
  if bitOf s.arg.v 8 then
    .next (((s.setField (snpReg 0x000) 8 8 1).setField (snpReg 0x018) 63 63 0).setField (snpReg 0x018) 59 59 0)
  else .next s

/-- TRIGGER_PIN_EDGE (R144). -/
def execTriggerPinEdge (s : State) : Result := .next (snapTrigger s 3)

/-- SNAP_DTB_MATCH (R144): the DTB has reached SNP_DTB. -/
def execSnapDtbMatch (s : State) : Result :=
  if s.time.ns.toNat < (s.reg (snpReg 0x008)).toNat then .next s else .next (snapTrigger s 1)

/-! ### Core records (R145) -/

/-- The program counter of a stream: of its lowest-numbered live fragment. -/
def Stream.recordPc (st : Stream) : Word :=
  match firstBy (fun (a b : Frag) => decide (a.id ≤ b.id)) (st.frag :: st.frags) with
  | some f => f.pc
  | none => st.frag.pc

/-- The resident job in a slot of a core. -/
def State.jobInSlot (s : State) (core k : Nat) : Option Job :=
  s.allJobs.find? fun j => j.core == some core && j.slot == k && j.state == .resident

/-- A live stream's program counter; all ones for an empty slot. -/
def State.slotPc (s : State) (id : StreamId) : Word :=
  match s.stream id with
  | some st => if st.ended then BitVec.allOnes 64 else st.recordPc
  | none => BitVec.allOnes 64

/-- The program counters of an engine's four stream slots, one for each job slot. -/
def State.engineSlots (s : State) (core strm : Nat) : List Word :=
  (List.range 4).map fun k =>
    match s.jobInSlot core k with
    | some j => s.slotPc ⟨.job j.id, strm⟩
    | none => BitVec.allOnes 64

/-- The sixteen vector slots, filled by job slot, then by stream number. -/
def State.vectorSlots (s : State) (core : Nat) : List Word :=
  let pcs := (List.range 4).flatMap fun k =>
    match s.jobInSlot core k with
    | some j => (List.range j.nvec).map fun v => s.slotPc ⟨.job j.id, v + 1⟩
    | none => []
  (pcs ++ List.replicate 16 (BitVec.allOnes 64)).take 16

/-- The 256 bytes of a core's record. -/
def coreRecord (s : State) (core : Nat) : List Byte :=
  let pcs :=
    if core < 544 then
      s.engineSlots core 0 ++ s.vectorSlots core ++ s.engineSlots core 17 ++ s.engineSlots core 18
    else s.slotPc ⟨.mgmt (core - 544), 0⟩ :: List.replicate 27 (BitVec.allOnes 64)
  leBytes 8 (s.cycleOf core) ++ (pcs.flatMap fun w => leBytes 8 w.toNat) ++ leBytes 24 0

/-- The shadow of every register that does not read zero (R145). -/
def shadowTable (s : State) : Table (BitVec 64) :=
  (List.range 0x10000).filterMap fun k =>
    let at_ := 0x80000 + 8 * k
    match shadowOf at_ with
    | none => none
    | some o =>
      if (regInfo o).isNone then none
      else
        let v := s.regValue o
        if v = 0#64 then none else some (at_, v)

/-- SNAPSHOT_LATCH (R144, R145): on the first master tick at least 64 ns after the trigger. -/
def execSnapshotLatch (s : State) : Result :=
  match s.sys.snapshot with
  | none => .next s
  | some x =>
    if x.latched || decide (s.time.ns.toNat < x.latchAt.toNat) then .next s
    else
      let base := s.field (snpReg 0x028) 51 16 * 65536
      let shadows := shadowTable s
      let records := (List.range 548).map fun c => (base + 256 * c, coreRecord s c)
      let s := { s with sys := { s.sys with
        shadows := shadows, snapshot := some { x with latched := true, pending := records } } }
      let s := s.setReg (snpReg 0x020) s.time.ns
      let s := s.setField (snpReg 0x018) 31 0 (s.field (snpReg 0x018) 31 0 + 1)
      .next (s.event .snapshotDone {})

/-- The lines of a core record that the host holds. -/
def State.recordHeld (s : State) (at_ : Nat) : List Nat := [at_, at_ + 128].filter s.hostHolds

/-- SNAPSHOT_DONE (R144): the core records are written, each once the host holds none of its lines (R119); with the last one DONE
is set. -/
def execSnapshotDone (s : State) : Result :=
  match s.sys.snapshot with
  | none => .next s
  | some x =>
    if !x.latched then .next s
    else
      let wait := x.pending.filter fun r => !(s.recordHeld r.1).isEmpty
      let now := x.pending.filter fun r => (s.recordHeld r.1).isEmpty
      let s := now.foldl (fun s r => sliceWrite s r.1 r.2) s
      if wait.isEmpty then .next ({ s with sys := { s.sys with snapshot := none } }.setField (snpReg 0x018) 59 59 1)
      else
        let s := wait.foldl (fun s r => (s.recordHeld r.1).foldl (fun s a => s.backInvalidate a) s) s
        .next { s with sys := { s.sys with snapshot := some { x with pending := wait } } }

end Sys2Proof.Machine
end

