-- ==== Sys2Proof/Machine/Start.lean ====
section
/-!
DEFINITION. From power-on to running firmware (R23 to R26, R58, R62, R134 to R136): resets and the boot ROM; the flash
commands (R146) and attestation (R137).
-/

namespace Sys2Proof.Machine

def State.modFlash (s : State) (f : Flash → Flash) : State := { s with sys := { s.sys with flash := f s.sys.flash } }

/-! ### The part record (R24) -/

def Flash.at (f : Flash) (o n : Nat) : Nat := cellsNat f.record o n

/-- Physical tile that TILEMAP gives logical tile k of a tile die. -/
def Flash.tile (f : Flash) (die k : Nat) : Nat := f.at (0x10 + 112 * die + k) 1

/-- State and lost-channel mask of a parity-group member, by PAR_STATE index. -/
def Flash.member (f : Flash) (i : Nat) : Nat × Nat :=
  if i < 12 then (f.at (0x1D0 + i) 1, f.at (0x1DC + 4 * i) 4)
  else (natBits (f.at (0x20C + (i - 12)) 1) 1 0, natBits (f.at (0x20C + (i - 12)) 1) 5 2)

/-- The seed passes its check: the last 32 bytes of PUFHELP are a SHAKE256 of it (R134 step 3). -/
def Flash.seedHolds (f : Flash) : Bool :=
  (List.range 32).all fun k => (cellsGet f.record 0x300 32).getD k 0#8 == Config.shake256 f.seed k

/-- A list of numbers repeats one. -/
def repeats (xs : List Nat) : Bool :=
  match xs with
  | [] => false
  | x :: rest => rest.contains x || repeats rest

/-- A record that R24 rejects, its signature apart. -/
def Flash.malformed (f : Flash) : Bool :=
  let tiles (d : Nat) : List Nat := (List.range 112).map (f.tile d)
  f.at 0 8 != 0x0043455250395754 || f.at 8 4 != 1 ||
    ((List.range 4).any fun d => repeats (tiles d) || (tiles d).any fun t => decide (127 < t)) ||
    ((List.range 28).any fun i =>
      let m := f.member i
      decide (2 < m.1) || (m.1 == 1 && m.2 == 0) || (m.1 == 0 && m.2 != 0)) ||
    ((List.range 16).any fun p => natBits (f.at (0x20C + p) 1) 7 6 != 0) ||
    natBits (f.at 0x21C 4) 11 0 != 0xFFF || natBits (f.at 0x21C 4) 31 12 != 0

/-! ### Tiles (R25, R26) -/

/-- The placement of tiles while it is made: by logical tile the physical one plus one, the physical tiles in use, and
whether a tag has failed. -/
structure TileMap where
  tiles : Table Nat
  used  : List (Nat × Nat)
  bad   : Bool
  deriving DecidableEq, Repr

def Flash.tileMap (f : Flash) : TileMap :=
  let each := (List.range 448).map fun c => (c, f.tile (c / 112) (c % 112))
  ⟨each.map fun e => (e.1, e.2 + 1), each.map fun e => (e.1 / 112, e.2), false⟩

/-- One entry of the field retirement list (R26): the logical tile goes to the lowest-numbered unused spare. -/
def TileMap.retire (m : TileMap) (die clu pos : Nat) (tag : BitVec 64) : TileMap :=
  let core := 112 * die + 8 * clu + pos
  if !Config.retireTagValid core tag then { m with bad := true }
  else if 3 < die || 13 < clu || 7 < pos then m
  else
    match firstBelow 128 fun p => !m.used.contains (die, p) with
    | some p => { m with tiles := tablePut m.tiles core (p + 1), used := (die, p) :: m.used }
    | none => { m with tiles := tableErase m.tiles core }

/-- Every tile placed, and BOOT_TILES. -/
def mapTiles (s : State) : State :=
  let f := s.sys.flash
  let m := f.retired.foldl (fun m e => m.retire e.1 e.2.1 e.2.2.1 e.2.2.2) f.tileMap
  let enabled (d : Nat) : Nat := (m.tiles.filter fun e => e.1 / 112 == d).length
  let s := { s with sys := { s.sys with tiles := m.tiles } }
  s.setReg (bootReg 0x008) (placeField 32 1 (natOfBool m.bad) ||| placeField 0 8 (enabled 0) ||| placeField 8 8 (enabled 1) |||
    placeField 16 8 (enabled 2) ||| placeField 24 8 (enabled 3))

/-! ### Resets -/

/-- What the next start meets from outside is open: free values. -/
def State.nextBoot (s : State) : BootInput :=
  let x := Config.freeBits s.draw
  let y := Config.freeBits (s.draw + 1)
  { linkFail := x.testBit 0, zeroTimeout := x.testBit 1,
    phyFail := (List.range 28).filter fun i => x.testBit (2 + i),
    lostZeroing := ((List.range 28).flatMap fun i => (allChannels i).map fun c => (i, c)).filter fun e =>
      y.testBit (32 * e.1 + e.2) }

/-- What outlasts a reset: flash, the host's memory, temperatures and supplies, the reference clock input. -/
def afterReset (s : State) : State :=
  { State.reset with
    agenda := [], draw := s.draw,
    time := { State.reset.time with external := s.time.external },
    mm := { State.reset.mm with hostMem := s.mm.hostMem },
    sys := { State.reset.sys with
      flash := s.sys.flash,
      power := { State.reset.sys.power with
        hot := s.sys.power.hot, warm := s.sys.power.warm, droop := s.sys.power.droop, limited := s.sys.power.limited } } }

/-- The module resets and starts again (R134). -/
def resetModule (s : State) : State :=
  let b := s.nextBoot
  let s := afterReset { s with draw := s.draw + 2 }
  { s with agenda := [.event .moduleReset { boot := b }] }

/-- A start fails (R134): FAIL goes to flash and the module resets. -/
def failStart (s : State) (code : BitVec 8) : State :=
  resetModule (recordStop (s.modFlash fun f => { f with fail := code }) 5#8)

/-! ### The boot ROM (R134) -/

/-- BOOT_STAT.STAGE: the last step begun. -/
def State.stage (s : State) (n : Nat) : State := s.setField (bootReg 0x000) 39 36 n

/-- Minimal mode (R135). -/
def enterMinimal (s : State) : State :=
  { s.setField (bootReg 0x000) 0 0 1 with sys := { s.sys with boot := .minimal } }.stage 1

/-- More than one member of a group is lost. -/
def State.groupLost (s : State) : Bool :=
  [List.range 12, (List.range 16).map fun p => 12 + p].any fun g =>
    decide (1 < (g.filter fun i => s.field (parState i) 1 0 == 2).length)

/-- PAR_STATE loaded from the record and from training (R62). A member loaded as lost has no bit of CHLOST set (log entry 172). -/
def loadParState (s : State) (phyFail : List Nat) : State :=
  let load (s : State) (i : Nat) : State :=
    let m := s.sys.flash.member i
    let s := if m.1 = 1 then s.setLost i ((allChannels i).filter fun c => m.2.testBit c) else s
    if m.1 = 2 || phyFail.contains i then s.setField (parState i) 1 0 2 else s
  let s := (List.range 28).foldl load s
  noteDoubles s ((List.range 28).flatMap fun i => (s.lostChannels i).map fun c => (i, c))

/-- Step 8: the image starts on all four management cores. -/
def startFirmware (s : State) (image : List Host.Cell) : State :=
  let s := { s with sys := { s.sys with firmware := image, boot := .awaitGood s.time.ticks } }
  ((List.range 4).foldl restartMgmt s).stage 8

/-- Steps 6 to 8. -/
def romZeroed (s : State) (lost : List (Nat × Nat)) : State :=
  let s := lost.foldl (fun s e => if s.channelLost e.1 e.2 then s else (enterLost s e.1 [e.2]).raise parEvt 0) s
  if s.groupLost then failStart s 8#8
  else
    let s := s.stage 7
    let f := s.sys.flash
    if Config.firmwareValid f.slotA then startFirmware s f.slotA
    else if Config.firmwareValid f.slotB then startFirmware s f.slotB
    else failStart s 6#8

/-- Steps 2 to 8, from a module whose memories and registers stand at reset: both tiers and the block map are zero (R58). In minimal
mode entered before the part record is read, HIF_ID.SERIAL stays 0 (log entry 190). -/
def romFrom (s : State) (b : BootInput) : State :=
  let f := s.sys.flash
  let s := s.stage 2
  if !Config.recordValid (cellsGet f.record 0 0x320) (cellsGet f.record 0x320 1280) then failStart s 1#8
  else if f.malformed then failStart s 2#8
  else
    let s := (s.setField 0x000 31 0 (f.at 0xC 4)).stage 3
    if !f.seedHolds then failStart s 3#8
    else
      let s := (mapTiles (s.stage 4)).stage 5
      if b.linkFail then failStart s 5#8
      else
        let s := loadParState s b.phyFail
        if s.groupLost then failStart s 4#8
        else if b.zeroTimeout then (s.stage 6).event .zeroingTimeout {}
        else romZeroed (s.stage 6) b.lostZeroing

/-- The ROM's run (R134): step 1 reads the boot-attempt counter. -/
def bootRom (s : State) (b : BootInput) : State :=
  let f := s.sys.flash
  let s := s.setReg (bootReg 0x000) (placeField 56 8 f.attempts.toNat ||| placeField 48 8 f.fail.toNat |||
    placeField 40 8 f.stop.toNat ||| placeField 36 4 1)
  if 3 ≤ f.attempts.toNat then enterMinimal s
  else romFrom (s.modFlash fun f => { f with attempts := f.attempts + 1#8 }) b

/-- POWER_ON (R134). -/
def execPowerOn (s : State) : Result := .next (bootRom (afterReset s) s.arg.boot)

/-- MODULE_RESET (R134). -/
def execModuleReset (s : State) : Result := .next (bootRom (afterReset s) s.arg.boot)

/-- HOST_RESET (R136). -/
def execHostReset (s : State) : Result := .next (resetModule (recordStop s 1#8))

/-- POWER_LOSS (R135): the counter was raised when the start began. -/
def execPowerLoss (s : State) : Result := .next (afterReset (recordStop s 0#8))

/-- ZEROING_TIMEOUT (R134). -/
def execZeroingTimeout (s : State) : Result :=
  if s.field (bootReg 0x000) 39 36 = 6 && s.sys.boot = .off then .next (failStart s 8#8) else .next s

/-- A start is waiting for GOOD, or running, so BOOT_CTL acts for firmware. -/
def State.started (s : State) : Bool :=
  match s.sys.boot with
  | .awaitGood _ => true
  | .good => true
  | _ => false

/-- BOOT_GOOD (R134). -/
def execBootGood (s : State) : Result :=
  if s.started then
    .next ({ s with sys := { s.sys with boot := .good } }.modFlash fun f => { f with attempts := 0#8 })
  else .next s

/-- BOOT_GOOD_TIMEOUT (R134). -/
def execBootGoodTimeout (s : State) : Result :=
  match s.sys.boot with
  | .awaitGood t =>
    if s.time.ticks < t + s.field (bootReg 0x010) 47 32 * 1000000 * Config.ticksPerMicrosecond then .next s
    else .next (failStart s 7#8)
  | _ => .next s

/-- BOOT_RESTART (R146): in minimal mode the recovery service does not act on it (R135). -/
def execBootRestart (s : State) : Result :=
  if s.started then .next (resetModule (recordStop s 2#8)) else .next s

/-- BOOT_CLRCNT (R135). -/
def execBootClrcnt (s : State) : Result :=
  if s.sys.boot = .minimal then
    .next (resetModule (recordStop (s.modFlash fun f => { f with attempts := 0#8 }) 6#8))
  else .next s

/-! ### Flash commands (R146) -/

/-- A flash operation runs. -/
def flashBusy (s : State) (op result : Nat) : State :=
  let s := { s with sys := { s.sys with flashOp := some (op, result) } }
  ((s.setField (bootReg 0x048) 63 63 1).setField (bootReg 0x048) 62 61 0).event .flashOpDone {}

/-- FLASH_ERASE_B (R146). -/
def execFlashEraseB (s : State) : Result := .next (flashBusy (s.modFlash fun f => { f with slotB := [] }) 1 0)

/-- FLASH_PROGRAM (R146): page a of slot B from BOOT_FLDATA. -/
def execFlashProgram (s : State) : Result :=
  let page := cellsGet s.sys.flashBuf 0 4096
  .next (flashBusy (s.modFlash fun f => { f with slotB := cellsSet f.slotB (4096 * s.arg.a) page }) 2 0)

/-- FLASH_VERIFY_B (R146): slot B, if it verifies, becomes slot A. -/
def execFlashVerifyB (s : State) : Result :=
  if Config.firmwareValid s.sys.flash.slotB then
    .next (flashBusy (s.modFlash fun f => { f with slotA := f.slotB, slotB := f.slotA }) 3 0)
  else .next (flashBusy s 3 1)

/-- FLASH_OP_DONE (R146): RESULT is written (flag: the flash failed) and BUSY clears. -/
def execFlashOpDone (s : State) : Result :=
  match s.sys.flashOp with
  | none => .next s
  | some (_, r) =>
    let s := { s with sys := { s.sys with flashOp := none } }
    .next ((s.setField (bootReg 0x048) 62 61 (if s.arg.flag then 2 else r)).setField (bootReg 0x048) 63 63 0)

/-! ### Attestation (R137) -/

/-- QUOTE_REQUEST (R137): v as written to BOOT_QCMD. In minimal mode nothing acts on it (R135). -/
def execQuoteRequest (s : State) : Result :=
  let out := bitsOf s.arg.v 51 6 * 64
  if s.sys.boot = .minimal then .next s
  else if s.field (bootReg 0x020) 63 63 = 1 then .next s
  else if hbmTop < out + 0x600 then .next (s.setField (bootReg 0x020) 62 62 1)
  else
    let s := { s with sys := { s.sys with quote := some (BitVec.ofNat 64 out) } }
    .next (((s.setField (bootReg 0x020) 62 62 0).setField (bootReg 0x020) 63 63 1).event .quoteDone {})

/-- The signed part of a quote. -/
def quoteHead (s : State) : List Byte :=
  let digest (bs : List Byte) : List Byte := (List.range 64).map (Config.shake256 bs)
  [0x54#8, 0x57#8, 0x39#8, 0x51#8, 0x55#8, 0x4F#8, 0x54#8, 0x45#8] ++ leBytes 4 (s.sys.flash.at 0xC 4) ++
    leBytes 4 (s.field (bootReg 0x000) 63 32) ++ leBytes 8 s.time.ns.toNat ++
    ((List.range 4).flatMap fun k => leBytes 8 (s.reg (bootReg (0x028 + 8 * k))).toNat) ++
    digest Config.romImage ++ digest (cellsGet s.sys.flash.record 0 0x320) ++
    ((List.range 64).map (Config.imageDigest s.sys.firmware)) ++
    leBytes 8 (s.field (prtReg 0x000) 7 0)

/-- QUOTE_DONE (R137): the quote is written once the host holds none of its lines (R119). -/
def execQuoteDone (s : State) : Result :=
  match s.sys.quote with
  | none => .next s
  | some out =>
    let held := (List.range 13).filter fun k => s.hostHolds (out.toNat + 128 * k)
    let head := quoteHead s
    if !held.isEmpty then
      .next ((held.foldl (fun s k => s.backInvalidate (out.toNat + 128 * k)) s).event .quoteDone {})
    else
      let s := sliceWrite s out.toNat (head ++ zeroPadded 1280 (Config.quoteSignature s.sys.flash.seed head))
      .next ({ s with sys := { s.sys with quote := none } }.setField (bootReg 0x020) 63 63 0)

end Sys2Proof.Machine
end

