-- ==== Sys2Proof/Machine/Vmx.lean ====
section
/-!
DEFINITION. VMX, a 16 x 16 matrix row per lane (R353 to R355).
-/

namespace Sys2Proof.Machine

/-- Bytes of a matrix: FP32 or BF16 weights (R353). -/
def matrixBytes (t : BitVec 1) : Nat := if t = 0#1 then 1024 else 512

/-- Offset of a lane's matrix. -/
def matrixOffset (v : VReg) (l : Nat) : Nat := elemOf v 32 l

/-- Lanes of a mask whose offset VMX refuses (R355 check 1). -/
def badOffsets (v : VReg) (m : LaneMask) : LaneMask :=
  m &&& maskOf fun l => matrixOffset v l == 0xFFFFFFFF || matrixOffset v l % 64 != 0

/-- The distinct matrices' offsets, ascending. -/
def distinctOffsets (v : VReg) (m : LaneMask) : List Nat :=
  sortBy (fun (a b : Nat) => decide (a ≤ b)) ((lanesOf m).map (matrixOffset v)).eraseDups

/-- The pieces of a range that lie within one line each, as offsets from a base: start and size. -/
def rangePieces (fuel : Nat) (a n : Nat) : List (Nat × Nat) :=
  match fuel with
  | 0 => []
  | fuel + 1 =>
    if n = 0 then [] else
      let k := min n (128 - a % 128)
      (a, k) :: rangePieces fuel (a + k) (n - k)

/-- The first byte of a range that a live write entry of the core's table covers (R210). -/
def lockedByte (s : State) (a n : Nat) : Option Nat :=
  if s.locked .global a n false then firstFrom n a fun x => s.locked .global x 1 false else none

/-- The request of a weight read (R354). -/
def weightReq (n : Nat) : Req := ⟨.global, .read, n, 1, false⟩

/-- Check 2 of R355 over the pieces in ascending order, for the vector engine or a unit of its core. -/
def checkPieces (unit : Option Nat) (s : State) (ps : List (Nat × Nat)) : Except Result State :=
  match ps with
  | [] => .ok s
  | (a, n) :: rest =>
    let va : Word := BitVec.ofNat 64 a
    let fails (s : State) (c : Nat) (va : Word) : Except Result State :=
      .error (trap s { accessFault (weightReq n) c va with engine := unit })
    match s.translate va n .read with
    | (.fault c, s) => fails s c va
    | (.migrating page, s) => .error (.next (s.waitPage page))
    | (.walking, s) => .error (.next s.stall)
    | (.ok x, s) =>
      if x.isReg then fails s causePermission va
      else
        match lockedByte s a n with
        | some b => fails s causeRangeConflict (BitVec.ofNat 64 b)
        | none => checkPieces unit s rest

/-- Every distinct matrix read, as offset and bytes (R353, R354: relaxed loads at .core). -/
def readMatrices (s : State) (base : Word) (n : Nat) (offs : List Nat) (k : State → List (Nat × List Byte) → Result) :
    Result :=
  match offs with
  | [] => k s []
  | o :: rest =>
    withRead s 1 (base + BitVec.ofNat 64 o) n fun s bs =>
      readMatrices s base n rest fun s ms => k s ((o, bs) :: ms)

/-- Weight i of row r of a matrix. -/
def weightOf (t : BitVec 1) (bs : List Byte) (r i : Nat) : Num :=
  if t = 0#1 then fp32.decode (leNat ((bs.drop (4 * (16 * r + i))).take 4))
  else bf16.decode (leNat ((bs.drop (2 * (16 * r + i))).take 2))

/-- The sixteen roundings of lane l from element i on, which share the lane's draw (R353, R276). -/
def vmxSum (s : State) (t : BitVec 1) (bs : List Byte) (x : VReg) (l : Nat) (is : List Nat) (acc : Nat) : Nat :=
  match is with
  | [] => acc
  | i :: rest =>
    vmxSum s t bs x l rest (fp32.ofNum (s.rounding s.me.rmode l)
      (Num.add s.me.rmode (Num.mul (weightOf t bs (l % 16) i) (fp32.decode (elemOf x 32 (l / 16 * 16 + i))))
        (fp32.decode acc)))

/-- VMX (R353, R355). -/
def execVmx (d a b : VNum) (c : SReg) (t : BitVec 1) (s : State) : Result :=
  let m := s.mask
  let base := s.sreg c
  let v := s.vreg b
  let bad := badOffsets v m
  match (lanesOf bad).head? with
  | some l =>
    trap s { cause := causeVmxOperand, addr := base + BitVec.ofNat 64 (matrixOffset v l), lanes := some bad }
  | none =>
    let n := matrixBytes t
    let offs := distinctOffsets v m
    let at_ (o : Nat) : Nat := (base + BitVec.ofNat 64 o).toNat
    let pieces := sortBy (fun (p q : Nat × Nat) => decide (p.1 ≤ q.1))
      (offs.flatMap fun o => rangePieces 10 (at_ o) n).eraseDups
    if s.mustWait (pieces.map fun p => (0, BitVec.ofNat 64 p.1)) then .next s.stall
    else
      match checkPieces none s pieces with
      | .error r => r
      | .ok s =>
        readMatrices s base n offs fun s ms =>
          let s := s.stepGen s.me.rmode
          .next (s.writeActive d m (mapElems 32 fun l =>
            match ms.find? fun k => k.1 == matrixOffset v l with
            | some k => vmxSum s t k.2 (s.vreg a) l (List.range 16) (elemOf (s.vreg d) 32 l)
            | none => 0))

end Sys2Proof.Machine
end

