-- ==== Sys2Proof/Machine/Texture.lean ====
section
/-!
DEFINITION. Textures (R186, R187, R419): descriptors, texel addressing, filtering.
-/

namespace Sys2Proof.Machine

/-- A texture descriptor (R186). -/
structure Texture where
  base   : Nat
  extent : List Nat
  fmt    : Nat
  slice  : Nat
  row    : Nat
  addr   : Nat
  filt   : Nat
  rsv    : Nat
  deriving DecidableEq, Repr

def Texture.ofBytes (d : List Byte) : Texture :=
  { base := imageField d 0 8, extent := [imageField d 8 2 + 1, imageField d 0xA 2 + 1, imageField d 0xC 2 + 1],
    fmt := imageField d 0xE 2, slice := imageField d 0x10 8, row := imageField d 0x18 4, addr := imageField d 0x1C 1,
    filt := imageField d 0x1D 1, rsv := imageField d 0x1E 2 }

/-- Addressing mode of an axis. -/
def Texture.mode (t : Texture) (axis : Nat) : Nat := t.addr / 4 ^ axis % 4

/-- A value that R186 reserves. -/
def Texture.reserved (t : Texture) : Bool :=
  decide (4 < t.fmt) || decide (1 < t.filt) || t.rsv != 0 || decide (64 ≤ t.addr) || t.base % 256 != 0 ||
    (List.range 3).any fun a => t.mode a == 3

/-- Components of a texel, and its bytes. -/
def Texture.comps (t : Texture) : Nat := if t.fmt = 0 then 1 else if t.fmt = 1 then 2 else 4
def Texture.bytes (t : Texture) : Nat :=
  match t.fmt with
  | 0 => 4
  | 1 => 8
  | 2 => 16
  | 3 => 8
  | _ => 4

/-- Idx of an axis (R187): none where a border texel is read. -/
def Texture.index (t : Texture) (axis : Nat) (i : Int) : Option Nat :=
  let n : Int := t.extent.getD axis 1
  match t.mode axis with
  | 0 => some (max 0 (min i (n - 1))).toNat
  | 1 => some (i % n).toNat
  | _ => if 0 ≤ i && i < n then some i.toNat else none

/-- Address of a texel. -/
def Texture.at_ (t : Texture) (i j k : Nat) : Nat := (t.base + k * t.slice + j * t.row + i * t.bytes) % 2 ^ 64

/-- A texel of three indices: none in the border. -/
def Texture.spot (t : Texture) (i j k : Int) : Option Nat :=
  match t.index 0 i, t.index 1 j, t.index 2 k with
  | some i, some j, some k => some (t.at_ i j k)
  | _, _, _ => none

/-- Component c of a texel's bytes as FP32 (R187). -/
def Texture.component (t : Texture) (bs : List Byte) (c : Nat) : Nat :=
  match t.fmt with
  | 3 => fp32.ofNum nearestEven (fp16.decode (imageField bs (2 * c) 2))
  | 4 => fp32.quotient nearestEven (.fin false (imageField bs c 1) 0) (.fin false 255 0)
  | _ => imageField bs (4 * c) 4

/-! ### What a lane reads -/

/-- A lane's texels with their weights, in the order of m; a lane whose coordinate is NaN or infinite reads nothing, and
one whose scaled coordinate leaves FP32's range has no result stated. -/
inductive Sample where
  | nan
  | unstated
  /-- one texel, unfiltered -/
  | texel (at_ : Option Nat)
  | sum (terms : List (Option Nat × Num))
  deriving DecidableEq, Repr

/-- Floor of a value as an integer: none for one that is not finite. -/
def Num.floor (x : Num) : Option Int :=
  match x with
  | .fin neg m e => some (if 0 ≤ e then signedOf neg m * 2 ^ e.toNat else signedOf neg m / 2 ^ (-e).toNat)
  | _ => none

/-- An integer as a value. -/
def numOf (i : Int) : Num := numOfInt false i 0

/-- Round to FP32, as a value. -/
def round32 (x : Num) : Num := fp32.decode (fp32.ofNum nearestEven x)

/-- An axis prepared for linear filtering (R187): i0, wx0 and wx1. -/
def axisLinear (u : Num) (n : Nat) : Option (Int × Num × Num) :=
  let x := round32 (Num.add 0 (Num.mul u (numOf n)) (.fin true 1 (-1)))
  x.floor.map fun i =>
    let a := Num.add 0 x (numOf i).neg
    (i, round32 (Num.add 0 (numOf 1) a.neg), a)

/-- The eight texels (four for 2-D) of a linear sample with their weights. -/
def linearTerms (t : Texture) (dims : Nat) (axes : List (Int × Num × Num)) : List (Option Nat × Num) :=
  let ax (k : Nat) : Int × Num × Num := axes.getD k (0, numOf 1, numOf 1)
  let w (k d : Nat) : Num := if d = 0 then (ax k).2.1 else (ax k).2.2
  (List.range (2 ^ dims)).map fun m =>
    let d (k : Nat) : Nat := m / 2 ^ k % 2
    let xy := round32 (Num.mul (w 0 (d 0)) (w 1 (d 1)))
    let weight := if dims = 3 then round32 (Num.mul xy (w 2 (d 2))) else xy
    (t.spot ((ax 0).1 + d 0) ((ax 1).1 + d 1) (if dims = 3 then (ax 2).1 + d 2 else 0), weight)

/-- What a lane with these coordinates samples (R187). -/
def filtered (t : Texture) (dims : Nat) (coords : List Num) : Sample :=
  if coords.any fun c => match c with
    | .fin .. => false
    | _ => true
  then .nan
  else if t.filt = 0 then
    let ix := coords.zipIdx.map fun c => (round32 (Num.mul c.1 (numOf (t.extent.getD c.2 1)))).floor
    match ix with
    | [some i, some j] => .texel (t.spot i j 0)
    | [some i, some j, some k] => .texel (t.spot i j k)
    | _ => .unstated
  else
    let axes := coords.zipIdx.map fun c => axisLinear c.1 (t.extent.getD c.2 1)
    if axes.any Option.isNone then .unstated else .sum (linearTerms t dims (axes.filterMap id))

/-- Texels that a sample reads. -/
def Sample.spots (x : Sample) : List Nat :=
  match x with
  | .texel a => a.toList
  | .sum ts => ts.filterMap fun e => e.1
  | _ => []

/-- Component c of a sample, from the texels read (R187). -/
def Sample.value (x : Sample) (t : Texture) (read : List (Nat × List Byte)) (c free : Nat) : Nat :=
  let texel (a : Option Nat) : Nat := match a with
    | none => 0
    | some a => t.component (((read.find? fun r => r.1 == a).map fun r => r.2).getD []) c
  match x with
  | .nan => 0x7FC00000
  | .unstated => Config.freeBits free % 2 ^ 32
  | .texel a => texel a
  | .sum ts =>
    let term (e : Option Nat × Num) : Num := Num.mul (fp32.decode (texel e.1)) e.2
    match ts with
    | [] => 0
    | e :: rest =>
      rest.foldl (fun acc e => fp32.ofNum nearestEven (Num.add 0 (term e) (fp32.decode acc)))
        (fp32.ofNum nearestEven (term e))

/-! ### TEX (R419) -/

/-- ENGINE of a record of the texture unit (R213). -/
def textureUnit : Option Nat := some 5

/-- The distinct texels read (relaxed loads at .core), each once. -/
def readTexels (s : State) (n : Nat) (as : List Nat) (k : State → List (Nat × List Byte) → Result) : Result :=
  match as with
  | [] => k s []
  | a :: rest =>
    withReadBy textureUnit s 1 (BitVec.ofNat 64 a) n fun s bs => readTexels s n rest fun s ms => k s ((a, bs) :: ms)

/-- TEX once its descriptor is read: the samples of the active lanes, the checks of VMX's weight reads (R354), the texels,
the results. -/
def sampleLanes (s : State) (d : VNum) (m : LaneMask) (t : Texture) (sample : Nat → Sample) : Result :=
  let samples := (lanesOf m).map fun l => (l, sample l)
  let spots := sortBy (fun (a b : Nat) => decide (a ≤ b)) (samples.flatMap fun x => x.2.spots).eraseDups
  let pieces := (spots.flatMap fun a => rangePieces 2 a t.bytes).eraseDups
  if s.mustWait (pieces.map fun p => (0, BitVec.ofNat 64 p.1)) then .next s.stall
  else
    match checkPieces textureUnit s pieces with
    | .error r => r
    | .ok s =>
      readTexels s t.bytes spots fun s read =>
        let value (c l : Nat) : Nat :=
          ((samples.find? fun x => x.1 == l).map fun x => x.2.value t read c (s.draw + 4 * l + c)).getD 0
        let s := s.writeGroup d m ((List.range t.comps).map fun c => mapElems 32 (value c))
        .next { s with draw := s.draw + 512 }.advance

/-- The descriptor at sB: 32 bytes, 32-byte aligned; a reserved value raises ILLEGAL_TYPE, then a destination that is not
aligned to its group ILLEGAL_INSTRUCTION. -/
def withTexture (s : State) (d : VNum) (b : SReg) (k : State → Texture → Result) : Result :=
  let va := s.sreg b
  if va.toNat % 32 ≠ 0 then
    trap s { accessFault ⟨.global, .read, 32, 32, false⟩ causeAlignment va with engine := textureUnit }
  else
    withReadBy textureUnit s 1 va 32 fun s bs =>
      let t := Texture.ofBytes bs
      if t.reserved then trap s { cause := causeIllegalType, engine := textureUnit }
      else if d.toNat % t.comps ≠ 0 then trapIllegal s
      else k s t

/-- TEX.2D (R419): at slice 0. -/
def execTex2d (d a b : BitVec 6) (p : BitVec 4) (s : State) : Result :=
  withTexture s d b fun s t =>
    sampleLanes s d (s.active p) t fun l =>
      filtered t 2 ((List.range 2).map fun c => fp32.decode (elemOf (s.vregAt a c) 32 l))

/-- TEX.3D (R419). -/
def execTex3d (d a b : BitVec 6) (p : BitVec 4) (s : State) : Result :=
  withTexture s d b fun s t =>
    sampleLanes s d (s.active p) t fun l =>
      filtered t 3 ((List.range 3).map fun c => fp32.decode (elemOf (s.vregAt a c) 32 l))

/-- TEX.FETCH (R419): integer texel coordinates, no filter. -/
def execTexFetch (d a b : BitVec 6) (p : BitVec 4) (s : State) : Result :=
  withTexture s d b fun s t =>
    sampleLanes s d (s.active p) t fun l =>
      let c (n : Nat) : Int := toInt 32 true (elemOf (s.vregAt a n) 32 l)
      .texel (t.spot (c 0) (c 1) (c 2))

end Sys2Proof.Machine
end

