-- ==== Sys2Proof/Machine/VecMove.lean ====
section
/-!
DEFINITION. Moving data between lanes (R336, R341 to R344, R351), predicates and votes (R346, R347), and rotation (R352).
-/

namespace Sys2Proof.Machine

/-! ### Packing (R336) -/

/-- PACK: element e is element e div 2 of VA for even e, of VB for odd e, saturated to TY. -/
def packElem (t : BitVec 3) (a b : VReg) (e : Nat) : Nat :=
  let w := intWidth t
  ofInt w (saturate t (toInt (2 * w) (tySigned t) (elemOf (if e % 2 = 0 then a else b) (2 * w) (e / 2))))

/-- UNPK: element i of VD + j is element 2i + j of VA, extended by TY's signedness. -/
def unpackElem (t : BitVec 3) (a : VReg) (j i : Nat) : Nat :=
  ofInt (2 * intWidth t) (intElem t a (2 * i + j))

/-- PACK (R336). -/
def execPack (d a b : VNum) (x : BitVec 3) (t : BitVec 3) (s : State) : Result :=
  if intWidth t = 32 then trapType s
  else .next (s.writeActive d (s.active (x.zeroExtend 4)) (mapElems (intWidth t) (packElem t (s.vreg a) (s.vreg b))))

/-- UNPK (R336). -/
def execUnpk (d a : VNum) (x : BitVec 3) (t : BitVec 3) (s : State) : Result :=
  if intWidth t = 32 then trapType s
  else
    .next (s.writeGroup d (s.active (x.zeroExtend 4))
      [mapElems (2 * intWidth t) (unpackElem t (s.vreg a) 0),
        mapElems (2 * intWidth t) (unpackElem t (s.vreg a) 1)]).advance

/-! ### Permutations -/

/-- An element by an index that may lie outside the register: zero there (R341, R342). -/
def elemOrZero (v : VReg) (w i : Nat) : Nat := if i < elemCount w then elemOf v w i else 0

/-- SHUF (R341): 32-bit and 16-bit types only. -/
def execShuf (d a b : VNum) (p : BitVec 4) (t : BitVec 3) (s : State) : Result :=
  let w := intWidth t
  if w = 8 || w = 4 then trapType s
  else .next (s.writeActive d (s.active p) (mapElems w fun e => elemOrZero (s.vreg a) w (elemOf (s.vreg b) w e)))

/-- BCAST (R342). -/
def execBcast (d a b : VNum) (x : BitVec 3) (t : BitVec 3) (s : State) : Result :=
  let w := intWidth t
  .next (s.writeActive d (s.active (x.zeroExtend 4))
    (mapElems w fun _ => elemOf (s.vreg a) w (elemOf (s.vreg b) w 0 % elemCount w)))

/-- SLIDE (R342): up moves elements to higher places, down to lower ones. -/
def execSlide (d a : VNum) (u : BitVec 1) (k : BitVec 5) (x : BitVec 3) (t : BitVec 3) (s : State) : Result :=
  let w := intWidth t
  .next (s.writeActive d (s.active (x.zeroExtend 4)) (mapElems w fun e =>
    if u = 0#1 then elemOrZero (s.vreg a) w (e + k.toNat)
    else if e < k.toNat then 0 else elemOf (s.vreg a) w (e - k.toNat)))

/-- Element i of the interleaving of two registers (R343). -/
def zipElem (w : Nat) (a b : VReg) (i : Nat) : Nat := elemOf (if i % 2 = 0 then a else b) w (i / 2)

/-- Element i of one register followed by another (R343). -/
def joinElem (w : Nat) (a b : VReg) (i : Nat) : Nat :=
  if i < elemCount w then elemOf a w i else elemOf b w (i - elemCount w)

/-- ZIP (R343). -/
def execZip (d a b : VNum) (x : BitVec 3) (t : BitVec 3) (s : State) : Result :=
  let w := intWidth t
  .next (s.writeGroup d (s.active (x.zeroExtend 4))
    [mapElems w (zipElem w (s.vreg a) (s.vreg b)),
      mapElems w fun e => zipElem w (s.vreg a) (s.vreg b) (elemCount w + e)]).advance

/-- UNZIP (R343). -/
def execUnzip (d a b : VNum) (x : BitVec 3) (t : BitVec 3) (s : State) : Result :=
  let w := intWidth t
  .next (s.writeGroup d (s.active (x.zeroExtend 4))
    [mapElems w fun e => joinElem w (s.vreg a) (s.vreg b) (2 * e),
      mapElems w fun e => joinElem w (s.vreg a) (s.vreg b) (2 * e + 1)]).advance

/-- VMOV (R344). -/
def execVmov (d a : VNum) (x : BitVec 3) (s : State) : Result :=
  .next (s.writeActive d (s.active (x.zeroExtend 4)) (s.vreg a))

/-- VSPLAT (R344): VA names a scalar register. -/
def execVsplat (d : VNum) (a : SReg) (x : BitVec 3) (t : BitVec 3) (s : State) : Result :=
  .next (s.writeActive d (s.active (x.zeroExtend 4))
    (mapElems (intWidth t) fun _ => (s.sreg a).toNat % 2 ^ intWidth t))

/-! ### Partition (R351) -/

/-- The lanes whose predicate bit is 1, then the others, each in ascending order. -/
def partOrder (m : LaneMask) : List Nat := lanesOf m ++ lanesOf (~~~m)

/-- PART (R351): VD is written first, then VB. -/
def execPart (d a b : VNum) (p : BitVec 4) (t : BitVec 3) (s : State) : Result :=
  if intWidth t ≠ 32 then trapType s
  else if !s.me.whole then trapIllegal s
  else
    let m := s.me.pred p.toNat
    let v := ofElems 32 ((partOrder m).map fun l => elemOf (s.vreg a) 32 l)
    .next (((s.setV d v).setV b (mapElems 32 fun _ => (lanesOf m).length)).advance)

/-! ### Predicates (R346) -/

/-- PSET: sX gives lanes 0 to 63, sY lanes 64 to 127. -/
def execPset (p : BitVec 4) (x y : SReg) (s : State) : Result :=
  .next ((s.setPredLanes p (s.sreg y ++ s.sreg x)).advance)

/-- PAND. -/
def execPand (p x y : BitVec 4) (s : State) : Result :=
  .next ((s.setPredLanes p (s.me.pred x.toNat &&& s.me.pred y.toNat)).advance)

/-- POR. -/
def execPor (p x y : BitVec 4) (s : State) : Result :=
  .next ((s.setPredLanes p (s.me.pred x.toNat ||| s.me.pred y.toNat)).advance)

/-- PNOT. -/
def execPnot (p x : BitVec 4) (s : State) : Result :=
  .next ((s.setPredLanes p (~~~ s.me.pred x.toNat)).advance)

/-- PMOV. -/
def execPmov (p x : BitVec 4) (s : State) : Result :=
  .next ((s.setPredLanes p (s.me.pred x.toNat)).advance)

/-! ### Votes (R347) -/

/-- Every bit of a mask the same. -/
def allLanes (b : Bool) : LaneMask := if b then BitVec.allOnes 128 else 0#128

/-- VOTE.ANY. -/
def execVoteAny (q ps p : BitVec 4) (s : State) : Result :=
  .next ((s.setPredLanes q (allLanes ((s.me.pred ps.toNat &&& s.active p) != 0#128))).advance)

/-- VOTE.ALL: 1 when there is no participant. -/
def execVoteAll (q ps p : BitVec 4) (s : State) : Result :=
  .next ((s.setPredLanes q (allLanes ((~~~ s.me.pred ps.toNat &&& s.active p) == 0#128))).advance)

/-- VOTE.BALLOT: all 128 bits of PD. -/
def execVoteBallot (q ps p : BitVec 4) (s : State) : Result :=
  .next ({ s with me := s.me.setPred q.toNat (s.me.pred ps.toNat &&& s.active p) }.advance)

/-! ### Rotation (R352) -/

/-- VROT: RRB falls by n, modulo 32. -/
def execVrot (n : BitVec 6) (s : State) : Result :=
  if !s.me.whole then trapIllegal s
  else .next ({ s with me := { s.me with rrb := s.me.rrb - n.truncate 5 } }.advance)

end Sys2Proof.Machine
end

