-- ==== Sys2Proof/Machine/Dispatch.lean ====
section
/-!
DEFINITION. The dispatch: one arm for every row of the opcode table.
-/

namespace Sys2Proof.Machine

def exec (i : Instr) (s : State) : Host.Outcome State Fault Refusal :=
  match i with
  | .nop => Sys2Proof.Machine.execNop s
  | .trap a => Sys2Proof.Machine.execTrap a s
  | .bkpt => Sys2Proof.Machine.execBkpt s
  | .exit => Sys2Proof.Machine.execExit s
  | .yield => Sys2Proof.Machine.execYield s
  | .sleep d a => Sys2Proof.Machine.execSleep d a s
  | .watch a => Sys2Proof.Machine.execWatch a s
  | .meet => Sys2Proof.Machine.execMeet s
  | .snap => Sys2Proof.Machine.execSnap s
  | .mfs d n => Sys2Proof.Machine.execMfs d n s
  | .mts n b => Sys2Proof.Machine.execMts n b s
  | .resume d a => Sys2Proof.Machine.execResume d a s
  | .kill d a => Sys2Proof.Machine.execKill d a s
  | .tlbi d a b => Sys2Proof.Machine.execTlbi d a b s
  | .add d a b => Sys2Proof.Machine.execAdd d a b s
  | .sub d a b => Sys2Proof.Machine.execSub d a b s
  | .mul d a b => Sys2Proof.Machine.execMul d a b s
  | .mulhs d a b => Sys2Proof.Machine.execMulhs d a b s
  | .mulhu d a b => Sys2Proof.Machine.execMulhu d a b s
  | .divs d a b => Sys2Proof.Machine.execDivs d a b s
  | .divu d a b => Sys2Proof.Machine.execDivu d a b s
  | .rems d a b => Sys2Proof.Machine.execRems d a b s
  | .remu d a b => Sys2Proof.Machine.execRemu d a b s
  | .and d a b => Sys2Proof.Machine.execAnd d a b s
  | .or d a b => Sys2Proof.Machine.execOr d a b s
  | .xor d a b => Sys2Proof.Machine.execXor d a b s
  | .andn d a b => Sys2Proof.Machine.execAndn d a b s
  | .shl d a b => Sys2Proof.Machine.execShl d a b s
  | .shr d a b => Sys2Proof.Machine.execShr d a b s
  | .sar d a b => Sys2Proof.Machine.execSar d a b s
  | .rol d a b => Sys2Proof.Machine.execRol d a b s
  | .min d a b => Sys2Proof.Machine.execMin d a b s
  | .max d a b => Sys2Proof.Machine.execMax d a b s
  | .minu d a b => Sys2Proof.Machine.execMinu d a b s
  | .maxu d a b => Sys2Proof.Machine.execMaxu d a b s
  | .seq d a b => Sys2Proof.Machine.execSeq d a b s
  | .sne d a b => Sys2Proof.Machine.execSne d a b s
  | .slt d a b => Sys2Proof.Machine.execSlt d a b s
  | .sltu d a b => Sys2Proof.Machine.execSltu d a b s
  | .sel d a b => Sys2Proof.Machine.execSel d a b s
  | .clz d a => Sys2Proof.Machine.execClz d a s
  | .ctz d a => Sys2Proof.Machine.execCtz d a s
  | .popc d a => Sys2Proof.Machine.execPopc d a s
  | .brev d a => Sys2Proof.Machine.execBrev d a s
  | .addi d a imm => Sys2Proof.Machine.execAddi d a imm s
  | .andi d a imm => Sys2Proof.Machine.execAndi d a imm s
  | .ori d a imm => Sys2Proof.Machine.execOri d a imm s
  | .xori d a imm => Sys2Proof.Machine.execXori d a imm s
  | .shli d a imm => Sys2Proof.Machine.execShli d a imm s
  | .shri d a imm => Sys2Proof.Machine.execShri d a imm s
  | .sari d a imm => Sys2Proof.Machine.execSari d a imm s
  | .slti d a imm => Sys2Proof.Machine.execSlti d a imm s
  | .sltui d a imm => Sys2Proof.Machine.execSltui d a imm s
  | .muli d a imm => Sys2Proof.Machine.execMuli d a imm s
  | .ahi d imm => Sys2Proof.Machine.execAhi d imm s
  | .lea d a b sf => Sys2Proof.Machine.execLea d a b sf s
  | .step2 d a b => Sys2Proof.Machine.execStep2 d a b s
  | .wrap d a b => Sys2Proof.Machine.execWrap d a b s
  | .b o => Sys2Proof.Machine.execB o s
  | .bl o => Sys2Proof.Machine.execBl o s
  | .bc c a o => Sys2Proof.Machine.execBc c a o s
  | .bcBset a n o => Sys2Proof.Machine.execBcBset a n o s
  | .bcBclr a n o => Sys2Proof.Machine.execBcBclr a n o s
  | .br a => Sys2Proof.Machine.execBr a s
  | .blr a => Sys2Proof.Machine.execBlr a s
  | .ret => Sys2Proof.Machine.execRet s
  | .loop l n e => Sys2Proof.Machine.execLoop l n e s
  | .loopi l c e => Sys2Proof.Machine.execLoopi l c e s
  | .loopx l n e => Sys2Proof.Machine.execLoopx l n e s
  | .loopSp l n sf e => Sys2Proof.Machine.execLoopSp l n sf e s
  | .tokGive k => Sys2Proof.Machine.execTokGive k s
  | .tokTake k => Sys2Proof.Machine.execTokTake k s
  | .tokPeek d k => Sys2Proof.Machine.execTokPeek d k s
  | .tokZero k => Sys2Proof.Machine.execTokZero k s
  | .tokArm e t g k => Sys2Proof.Machine.execTokArm e t g k s
  | .crewJoin d a => Sys2Proof.Machine.execCrewJoin d a s
  | .crewLeave d a => Sys2Proof.Machine.execCrewLeave d a s
  | .crewInfo d a b => Sys2Proof.Machine.execCrewInfo d a b s
  | .barArr d a b => Sys2Proof.Machine.execBarArr d a b s
  | .barWait d a b => Sys2Proof.Machine.execBarWait d a b s
  | .barAw d a b => Sys2Proof.Machine.execBarAw d a b s
  | .ld d a imm z x o sf => Sys2Proof.Machine.execLd d a imm z x o sf s
  | .st d a imm z o sf => Sys2Proof.Machine.execSt d a imm z o sf s
  | .ldx d a z x o => Sys2Proof.Machine.execLdx d a z x o s
  | .ldxPeer d a b z x o => Sys2Proof.Machine.execLdxPeer d a b z x o s
  | .stx d a z o => Sys2Proof.Machine.execStx d a z o s
  | .stxPeer d a b z o => Sys2Proof.Machine.execStxPeer d a b z o s
  | .atomAdd d a b o sf n w => Sys2Proof.Machine.execAtomAdd d a b o sf n w s
  | .atomAnd d a b o sf n w => Sys2Proof.Machine.execAtomAnd d a b o sf n w s
  | .atomOr d a b o sf n w => Sys2Proof.Machine.execAtomOr d a b o sf n w s
  | .atomXor d a b o sf n w => Sys2Proof.Machine.execAtomXor d a b o sf n w s
  | .atomMin d a b o sf n w => Sys2Proof.Machine.execAtomMin d a b o sf n w s
  | .atomMax d a b o sf n w => Sys2Proof.Machine.execAtomMax d a b o sf n w s
  | .atomSwap d a b o sf n w => Sys2Proof.Machine.execAtomSwap d a b o sf n w s
  | .atomCas d a b o sf n w => Sys2Proof.Machine.execAtomCas d a b o sf n w s
  | .atomFadd d a b o sf n => Sys2Proof.Machine.execAtomFadd d a b o sf n s
  | .atomMinu d a b o sf n w => Sys2Proof.Machine.execAtomMinu d a b o sf n w s
  | .atomMaxu d a b o sf n w => Sys2Proof.Machine.execAtomMaxu d a b o sf n w s
  | .fence sf => Sys2Proof.Machine.execFence sf s
  | .fenceRel sf => Sys2Proof.Machine.execFenceRel sf s
  | .fenceAcq sf => Sys2Proof.Machine.execFenceAcq sf s
  | .fenceOwn sf => Sys2Proof.Machine.execFenceOwn sf s
  | .fenceRem a sf => Sys2Proof.Machine.execFenceRem a sf s
  | .launch d a b => Sys2Proof.Machine.execLaunch d a b s
  | .wqry a k => Sys2Proof.Machine.execWqry a k s
  | .govqOpen d a b => Sys2Proof.Machine.execGovqOpen d a b s
  | .govqMark b => Sys2Proof.Machine.execGovqMark b s
  | .govqNext d a b => Sys2Proof.Machine.execGovqNext d a b s
  | .semAdd d a b => Sys2Proof.Machine.execSemAdd d a b s
  | .semWait d a => Sys2Proof.Machine.execSemWait d a s
  | .semAddRing d a b => Sys2Proof.Machine.execSemAddRing d a b s
  | .qbindOut d a b => Sys2Proof.Machine.execQbindOut d a b s
  | .qbindIn d a => Sys2Proof.Machine.execQbindIn d a s
  | .qbindUn d a => Sys2Proof.Machine.execQbindUn d a s
  | .qbindQ d a => Sys2Proof.Machine.execQbindQ d a s
  | .cflush a b sf => Sys2Proof.Machine.execCflush a b sf s
  | .pf a b w l => Sys2Proof.Machine.execPf a b w l s
  | .fadd d a b p t => Sys2Proof.Machine.execFadd d a b p t s
  | .fsub d a b p t => Sys2Proof.Machine.execFsub d a b p t s
  | .fmul d a b p t => Sys2Proof.Machine.execFmul d a b p t s
  | .ffma d a b p t => Sys2Proof.Machine.execFfma d a b p t s
  | .ffms d a b p t => Sys2Proof.Machine.execFfms d a b p t s
  | .fmin d a b p t => Sys2Proof.Machine.execFmin d a b p t s
  | .fmax d a b p t => Sys2Proof.Machine.execFmax d a b p t s
  | .fcmp c q a b p t => Sys2Proof.Machine.execFcmp c q a b p t s
  | .funSpecial d a o p t => Sys2Proof.Machine.execFunSpecial d a o p t s
  | .fsgnCpy d a b x t => Sys2Proof.Machine.execFsgnCpy d a b x t s
  | .fsgnXor d a b x t => Sys2Proof.Machine.execFsgnXor d a b x t s
  | .iadd d a b p t => Sys2Proof.Machine.execIadd d a b p t s
  | .isub d a b p t => Sys2Proof.Machine.execIsub d a b p t s
  | .imul d a b p t => Sys2Proof.Machine.execImul d a b p t s
  | .imad d a b p t => Sys2Proof.Machine.execImad d a b p t s
  | .imadw d a b p t => Sys2Proof.Machine.execImadw d a b p t s
  | .iadds d a b x t => Sys2Proof.Machine.execIadds d a b x t s
  | .isubs d a b x t => Sys2Proof.Machine.execIsubs d a b x t s
  | .imin d a b x t => Sys2Proof.Machine.execImin d a b x t s
  | .imax d a b x t => Sys2Proof.Machine.execImax d a b x t s
  | .icmp c q a b p t => Sys2Proof.Machine.execIcmp c q a b p t s
  | .logic d a b p o => Sys2Proof.Machine.execLogic d a b p o s
  | .shift d a b x f t => Sys2Proof.Machine.execShift d a b x f t s
  | .iabs d a p t => Sys2Proof.Machine.execIabs d a p t s
  | .popcV d a p t => Sys2Proof.Machine.execPopcV d a p t s
  | .clzV d a p t => Sys2Proof.Machine.execClzV d a p t s
  | .cvt d a sf y f r t => Sys2Proof.Machine.execCvt d a sf y f r t s
  | .qnt d a b q t => Sys2Proof.Machine.execQnt d a b q t s
  | .dqn d a b q t => Sys2Proof.Machine.execDqn d a b q t s
  | .req d a b q t => Sys2Proof.Machine.execReq d a b q t s
  | .pack d a b x t => Sys2Proof.Machine.execPack d a b x t s
  | .unpk d a x t => Sys2Proof.Machine.execUnpk d a x t s
  | .shuf d a b p t => Sys2Proof.Machine.execShuf d a b p t s
  | .bcast d a b x t => Sys2Proof.Machine.execBcast d a b x t s
  | .slide d a u k x t => Sys2Proof.Machine.execSlide d a u k x t s
  | .zip d a b x t => Sys2Proof.Machine.execZip d a b x t s
  | .unzip d a b x t => Sys2Proof.Machine.execUnzip d a b x t s
  | .scan d a o p t => Sys2Proof.Machine.execScan d a o p t s
  | .red d a o p t => Sys2Proof.Machine.execRed d a o p t s
  | .pset p x y => Sys2Proof.Machine.execPset p x y s
  | .pand p x y => Sys2Proof.Machine.execPand p x y s
  | .por p x y => Sys2Proof.Machine.execPor p x y s
  | .pnot p x => Sys2Proof.Machine.execPnot p x s
  | .pmov p x => Sys2Proof.Machine.execPmov p x s
  | .vbr p t r => Sys2Proof.Machine.execVbr p t r s
  | .vexit n => Sys2Proof.Machine.execVexit n s
  | .whole => Sys2Proof.Machine.execWhole s
  | .endwhole => Sys2Proof.Machine.execEndwhole s
  | .voteAny q sf p => Sys2Proof.Machine.execVoteAny q sf p s
  | .voteAll q sf p => Sys2Proof.Machine.execVoteAll q sf p s
  | .voteBallot q sf p => Sys2Proof.Machine.execVoteBallot q sf p s
  | .part d a b p t => Sys2Proof.Machine.execPart d a b p t s
  | .vrot n => Sys2Proof.Machine.execVrot n s
  | .vmov d a x => Sys2Proof.Machine.execVmov d a x s
  | .vsplat d a x t => Sys2Proof.Machine.execVsplat d a x t s
  | .vld d b a p sf o c => Sys2Proof.Machine.execVld d b a p sf o c s
  | .vst d b a p sf o c => Sys2Proof.Machine.execVst d b a p sf o c s
  | .vlds d b a p sf o c => Sys2Proof.Machine.execVlds d b a p sf o c s
  | .vsts d b a p sf o c => Sys2Proof.Machine.execVsts d b a p sf o c s
  | .vgath d b a p sf o c => Sys2Proof.Machine.execVgath d b a p sf o c s
  | .vscat d b a p sf o c => Sys2Proof.Machine.execVscat d b a p sf o c s
  | .vatom d b a o r sf n => Sys2Proof.Machine.execVatom d b a o r sf n s
  | .vcas d b a r sf n => Sys2Proof.Machine.execVcas d b a r sf n s
  | .qsend q a => Sys2Proof.Machine.execQsend q a s
  | .qrecv d q => Sys2Proof.Machine.execQrecv d q s
  | .vmx d a b sf t => Sys2Proof.Machine.execVmx d a b sf t s
  | .rayQ d a b p => Sys2Proof.Machine.execRayQ d a b p s
  | .rayHit d a b p => Sys2Proof.Machine.execRayHit d a b p s
  | .rayRes d a b p => Sys2Proof.Machine.execRayRes d a b p s
  | .tex2d d a b p => Sys2Proof.Machine.execTex2d d a b p s
  | .tex3d d a b p => Sys2Proof.Machine.execTex3d d a b p s
  | .texFetch d a b p => Sys2Proof.Machine.execTexFetch d a b p s
  | .visLd d a b p => Sys2Proof.Machine.execVisLd d a b p s
  | .visLdRel d a b p => Sys2Proof.Machine.execVisLdRel d a b p s
  | .primOpen b => Sys2Proof.Machine.execPrimOpen b s
  | .primEmit d a b p => Sys2Proof.Machine.execPrimEmit d a b p s
  | .primEnd => Sys2Proof.Machine.execPrimEnd s
  | .guideOut d a b => Sys2Proof.Machine.execGuideOut d a b s
  | .gset g a f => Sys2Proof.Machine.execGset g a f s
  | .gld g a b sf x => Sys2Proof.Machine.execGld g a b sf x s
  | .gst g a b sf x => Sys2Proof.Machine.execGst g a b sf x s
  | .gadv g a b => Sys2Proof.Machine.execGadv g a b s
  | .mzero m => Sys2Proof.Machine.execMzero m s
  | .mloop d a b h c k => Sys2Proof.Machine.execMloop d a b h c k s
  | .mloopC d a b h c k => Sys2Proof.Machine.execMloopC d a b h c k s
  | .mstep d a b h c k => Sys2Proof.Machine.execMstep d a b h c k s
  | .mbatch k g b => Sys2Proof.Machine.execMbatch k g b s
  | .mwait b => Sys2Proof.Machine.execMwait b s
  | .mwaitAll => Sys2Proof.Machine.execMwaitAll s
  | .mdrain d g sf z => Sys2Proof.Machine.execMdrain d g sf z s
  | .mlda d g sf => Sys2Proof.Machine.execMlda d g sf s
  | .mrescS d sf => Sys2Proof.Machine.execMrescS d sf s
  | .mrescRow d g sf => Sys2Proof.Machine.execMrescRow d g sf s
  | .mrescCol d g sf => Sys2Proof.Machine.execMrescCol d g sf s
  | .mmigOff => Sys2Proof.Machine.execMmigOff s
  | .mmigWait a => Sys2Proof.Machine.execMmigWait a s
  | .mmigAny => Sys2Proof.Machine.execMmigAny s
  | .cp d g sf c t => Sys2Proof.Machine.execCp d g sf c t s
  | .cp2d d g sf c t => Sys2Proof.Machine.execCp2d d g sf c t s
  | .cp3d d g sf c t => Sys2Proof.Machine.execCp3d d g sf c t s
  | .cpMc d g sf c t m => Sys2Proof.Machine.execCpMc d g sf c t m s
  | .cpG d g sf c t x => Sys2Proof.Machine.execCpG d g sf c t x s
  | .cpY d g sf c o k => Sys2Proof.Machine.execCpY d g sf c o k s
  | .cpWait t a => Sys2Proof.Machine.execCpWait t a s
  | .cpFill d g sf c t => Sys2Proof.Machine.execCpFill d g sf c t s
  | .cpSem d sf t a => Sys2Proof.Machine.execCpSem d sf t a s
  | .cpPf g sf l => Sys2Proof.Machine.execCpPf g sf l s
  | .powerOn => Sys2Proof.Machine.execPowerOn s
  | .moduleReset => Sys2Proof.Machine.execModuleReset s
  | .hostReset => Sys2Proof.Machine.execHostReset s
  | .powerLoss => Sys2Proof.Machine.execPowerLoss s
  | .zeroingTimeout => Sys2Proof.Machine.execZeroingTimeout s
  | .bootGood => Sys2Proof.Machine.execBootGood s
  | .bootGoodTimeout => Sys2Proof.Machine.execBootGoodTimeout s
  | .bootRestart => Sys2Proof.Machine.execBootRestart s
  | .bootClrcnt => Sys2Proof.Machine.execBootClrcnt s
  | .quoteRequest => Sys2Proof.Machine.execQuoteRequest s
  | .quoteDone => Sys2Proof.Machine.execQuoteDone s
  | .flashEraseB => Sys2Proof.Machine.execFlashEraseB s
  | .flashProgram => Sys2Proof.Machine.execFlashProgram s
  | .flashVerifyB => Sys2Proof.Machine.execFlashVerifyB s
  | .flashOpDone => Sys2Proof.Machine.execFlashOpDone s
  | .powerCapWrite => Sys2Proof.Machine.execPowerCapWrite s
  | .powerWindowEnd => Sys2Proof.Machine.execPowerWindowEnd s
  | .clockStep => Sys2Proof.Machine.execClockStep s
  | .thermalThrottle => Sys2Proof.Machine.execThermalThrottle s
  | .thermalShutdown => Sys2Proof.Machine.execThermalShutdown s
  | .currentLimit => Sys2Proof.Machine.execCurrentLimit s
  | .droopDetect => Sys2Proof.Machine.execDroopDetect s
  | .droopRecover => Sys2Proof.Machine.execDroopRecover s
  | .registerWrite => Sys2Proof.Machine.execRegisterWrite s
  | .pageWalkDone => Sys2Proof.Machine.execPageWalkDone s
  | .dirtyUpdate => Sys2Proof.Machine.execDirtyUpdate s
  | .tlbiAck => Sys2Proof.Machine.execTlbiAck s
  | .hotDecay => Sys2Proof.Machine.execHotDecay s
  | .hotSweepEnd => Sys2Proof.Machine.execHotSweepEnd s
  | .sliceRequest => Sys2Proof.Machine.execSliceRequest s
  | .dramReadDone => Sys2Proof.Machine.execDramReadDone s
  | .lpWritebackResume => Sys2Proof.Machine.execLpWritebackResume s
  | .lpFreeMerge => Sys2Proof.Machine.execLpFreeMerge s
  | .lpCommit => Sys2Proof.Machine.execLpCommit s
  | .lpDecommit => Sys2Proof.Machine.execLpDecommit s
  | .lpCmdDone => Sys2Proof.Machine.execLpCmdDone s
  | .parityDelta => Sys2Proof.Machine.execParityDelta s
  | .deltaAck => Sys2Proof.Machine.execDeltaAck s
  | .reconstructionRequest => Sys2Proof.Machine.execReconstructionRequest s
  | .reconstructionAnswer => Sys2Proof.Machine.execReconstructionAnswer s
  | .reconstructionComplete => Sys2Proof.Machine.execReconstructionComplete s
  | .channelLoss => Sys2Proof.Machine.execChannelLoss s
  | .phyTrainingFail => Sys2Proof.Machine.execPhyTrainingFail s
  | .parDeclareChannelLost => Sys2Proof.Machine.execParDeclareChannelLost s
  | .parDeclareMemberLost => Sys2Proof.Machine.execParDeclareMemberLost s
  | .parScrubStripe => Sys2Proof.Machine.execParScrubStripe s
  | .degradedEntryDone => Sys2Proof.Machine.execDegradedEntryDone s
  | .scrubLine => Sys2Proof.Machine.execScrubLine s
  | .groupWindowClose => Sys2Proof.Machine.execGroupWindowClose s
  | .rowSwap => Sys2Proof.Machine.execRowSwap s
  | .refresh => Sys2Proof.Machine.execRefresh s
  | .alertBackoff => Sys2Proof.Machine.execAlertBackoff s
  | .packetInject => Sys2Proof.Machine.execPacketInject s
  | .packetEject => Sys2Proof.Machine.execPacketEject s
  | .linkForward => Sys2Proof.Machine.execLinkForward s
  | .linkCrcError => Sys2Proof.Machine.execLinkCrcError s
  | .hopCrcError => Sys2Proof.Machine.execHopCrcError s
  | .hopSpare => Sys2Proof.Machine.execHopSpare s
  | .qlinkData => Sys2Proof.Machine.execQlinkData s
  | .qlinkCredit => Sys2Proof.Machine.execQlinkCredit s
  | .fetchOpArrival => Sys2Proof.Machine.execFetchOpArrival s
  | .fetchOpPerform => Sys2Proof.Machine.execFetchOpPerform s
  | .waitBufferReply => Sys2Proof.Machine.execWaitBufferReply s
  | .flitReceive => Sys2Proof.Machine.execFlitReceive s
  | .portDown => Sys2Proof.Machine.execPortDown s
  | .laneTrainingFail => Sys2Proof.Machine.execLaneTrainingFail s
  | .fabricMessageSend => Sys2Proof.Machine.execFabricMessageSend s
  | .tsRecordPop => Sys2Proof.Machine.execTsRecordPop s
  | .hostMemRead => Sys2Proof.Machine.execHostMemRead s
  | .hostMemWrite => Sys2Proof.Machine.execHostMemWrite s
  | .hostSnoop => Sys2Proof.Machine.execHostSnoop s
  | .biResponse => Sys2Proof.Machine.execBiResponse s
  | .biasSet => Sys2Proof.Machine.execBiasSet s
  | .biasClear => Sys2Proof.Machine.execBiasClear s
  | .biasCmdDone => Sys2Proof.Machine.execBiasCmdDone s
  | .cxlLinkDown => Sys2Proof.Machine.execCxlLinkDown s
  | .dtbStep => Sys2Proof.Machine.execDtbStep s
  | .dtbNsRead => Sys2Proof.Machine.execDtbNsRead s
  | .ptmRequest => Sys2Proof.Machine.execPtmRequest s
  | .ptmResponse => Sys2Proof.Machine.execPtmResponse s
  | .ptmTimeout => Sys2Proof.Machine.execPtmTimeout s
  | .launchStartTime => Sys2Proof.Machine.execLaunchStartTime s
  | .schedDispatch => Sys2Proof.Machine.execSchedDispatch s
  | .launchPatchCheck => Sys2Proof.Machine.execLaunchPatchCheck s
  | .jobAdmit => Sys2Proof.Machine.execJobAdmit s
  | .jobDone => Sys2Proof.Machine.execJobDone s
  | .migrationAdvert => Sys2Proof.Machine.execMigrationAdvert s
  | .migrationReceive => Sys2Proof.Machine.execMigrationReceive s
  | .softPreemptTimeout => Sys2Proof.Machine.execSoftPreemptTimeout s
  | .hardPreemptDone => Sys2Proof.Machine.execHardPreemptDone s
  | .canaryExpiry => Sys2Proof.Machine.execCanaryExpiry s
  | .matrixOperandFault => Sys2Proof.Machine.execMatrixOperandFault s
  | .faultRecordPost => Sys2Proof.Machine.execFaultRecordPost s
  | .chuteQuery => Sys2Proof.Machine.execChuteQuery s
  | .prtQuiesce => Sys2Proof.Machine.execPrtQuiesce s
  | .quiesceReached => Sys2Proof.Machine.execQuiesceReached s
  | .quiesceTimeout => Sys2Proof.Machine.execQuiesceTimeout s
  | .prtRelease => Sys2Proof.Machine.execPrtRelease s
  | .snapArm => Sys2Proof.Machine.execSnapArm s
  | .triggerPinEdge => Sys2Proof.Machine.execTriggerPinEdge s
  | .snapDtbMatch => Sys2Proof.Machine.execSnapDtbMatch s
  | .snapshotLatch => Sys2Proof.Machine.execSnapshotLatch s
  | .snapshotDone => Sys2Proof.Machine.execSnapshotDone s
  | .loadReply => Sys2Proof.Machine.execLoadReply s
  | .atomicReply => Sys2Proof.Machine.execAtomicReply s
  | .registerFillDone => Sys2Proof.Machine.execRegisterFillDone s
  | .registerSpillDone => Sys2Proof.Machine.execRegisterSpillDone s
  | .splitTableSpillFill => Sys2Proof.Machine.execSplitTableSpillFill s
  | .wcDrain => Sys2Proof.Machine.execWcDrain s
  | .sleepDeadline => Sys2Proof.Machine.execSleepDeadline s
  | .copyStart => Sys2Proof.Machine.execCopyStart s
  | .copyTransferFault => Sys2Proof.Machine.execCopyTransferFault s
  | .copyComplete => Sys2Proof.Machine.execCopyComplete s
  | .matrixCommandStart => Sys2Proof.Machine.execMatrixCommandStart s
  | .matrixCommandDone => Sys2Proof.Machine.execMatrixCommandDone s
  | .coopDescriptor => Sys2Proof.Machine.execCoopDescriptor s
  | .coopCombine => Sys2Proof.Machine.execCoopCombine s
  | .commandMigrate => Sys2Proof.Machine.execCommandMigrate s
  | .commandRecall => Sys2Proof.Machine.execCommandRecall s
  | .primitiveArrival => Sys2Proof.Machine.execPrimitiveArrival s
  | .binResolve => Sys2Proof.Machine.execBinResolve s
  | .guideBinLanded => Sys2Proof.Machine.execGuideBinLanded s
  | .rayTraversalStop => Sys2Proof.Machine.execRayTraversalStop s
  | .rayPark => Sys2Proof.Machine.execRayPark s
  | .currentBelowLimit => Sys2Proof.Machine.execCurrentBelowLimit s
  | .fabricPortUp => Sys2Proof.Machine.execFabricPortUp s
  | .cxlLinkUp => Sys2Proof.Machine.execCxlLinkUp s
  | .writeAcknowledgement => Sys2Proof.Machine.execWriteAcknowledgement s
  | .hdmDecoderCommit => Sys2Proof.Machine.execHdmDecoderCommit s
  | .referenceClockInputChange => Sys2Proof.Machine.execReferenceClockInputChange s

end Sys2Proof.Machine
end

