-- ==== Sys2Proof/Machine/Clock.lean ====
section
/-!
DEFINITION. One reference tick (R129): time advances, running operations do a unit of work, and the whole steps that are due
come onto the agenda. An event's own meaning checks again whether it is due.
-/

namespace Sys2Proof.Machine

/-! ### Time (R20, R129, R130, R168) -/

/-- A clock runs: those of the compute dies do while they have power (R22). -/
def State.clockRuns (s : State) (clock : Nat) : Bool := s.sys.power.compute || decide (8 ≤ clock)

/-- Tenths of a cycle that a clock counts in one tick. -/
def State.rate (s : State) (clock : Nat) : Nat :=
  if !s.clockRuns clock then 0
  else if s.stretched clock then Config.tenthsPerTickStretched (s.stepsOf clock) else Config.tenthsPerTick (s.stepsOf clock)

/-- Cycles that a clock gains in this tick. -/
def State.gain (s : State) (clock : Nat) : Nat := (tableGet s.time.tenths clock 0 + s.rate clock) / 10

/-- NS and FRAC after a tick: INC in units of 2^-24 ns, and a step that is due. -/
def State.nextDtb (s : State) : Nat :=
  (s.time.ns.toNat * 2 ^ 24 + s.time.frac.toNat + s.field 0x048 39 0 + (s.time.step.getD 0#64).toNat * 2 ^ 24) % 2 ^ 88

/-- The Canary counts the cycles of a resident job (R168). -/
def countCanary (s : State) (j : Job) : Job :=
  match j.core with
  | some c => if j.state = .resident then { j with canary := j.canary + s.gain (clockOf c) } else j
  | none => j

/-- Time one reference tick later. -/
def advanceTime (s : State) : State :=
  let d := s.nextDtb
  let clocks := List.range 9
  { s with
    myJob := countCanary s s.myJob, jobs := s.jobs.map (countCanary s),
    time := { s.time with
      ticks := s.time.ticks + 1, ns := BitVec.ofNat 64 (d / 2 ^ 24), frac := BitVec.ofNat 24 d, step := none,
      cycles := clocks.foldl (fun t k => tableSet t k (tableGet s.time.cycles k 0 + s.gain k) 0) s.time.cycles,
      tenths := clocks.foldl (fun t k => tableSet t k ((tableGet s.time.tenths k 0 + s.rate k) % 10) 0) s.time.tenths },
    sys := { s.sys with pulse := s.sys.pulse.filter fun t => decide (d / 2 ^ 24 < t.toNat) } }

/-! ### Work under way -/

/-- A matrix command that does a unit of work now: one of a job that leaves stops between blocks, unless it runs to its
end (R400). -/
def Job.stepping (j : Job) : List Nat :=
  (j.mcmds.filter fun c => c.started && decide (c.steps < c.units) && (!j.preempt || c.runsToEnd)).map fun c => c.id

/-- Every running operation of a job does its next unit of work, and its segments settle. -/
def workJob (s : State) (j : Job) : State :=
  let s := j.stepping.foldl (fun s id => stepCommand s j.id id) s
  let s := (j.copies.filter fun c => c.started && c.parked.isNone).foldl (fun s c => stepCopy s j.id c.id) s
  let s := if j.mcmds.isEmpty && j.segments.isEmpty then s else onEngine s j.id matrixStrm settleSegments
  if s.locks.any fun l => l.job == j.id && l.core.isNone then s.restoreLocks j.id (j.core.getD 0) else s

/-- The work of every job, while the compute dies have power (R22). -/
def workAll (s : State) : State :=
  if s.sys.power.compute then reclaimVersions ((s.allJobs.filter Job.works).foldl workJob s) else s

/-! ### Events that are due -/

def due (i : Instr) (a : EventArg) : Turn := .event i a

/-- What takes up a packet that stands at a stop: at its last one what its content asks for, elsewhere the next leg of its way. -/
def State.ejectedDue (s : State) (p : Packet) (die stop : Nat) : Turn :=
  if p.isFetch then due .fetchOpArrival { a := p.id }
  else if p.dstDie ≠ die || p.dstStop ≠ stop then due .packetEject { a := p.id }
  else
    match p.body with
    | .fetchReply status v cmb =>
      if cmb || p.via.any (fun k => s.net.ingress.any fun x => x.id == k) then due .waitBufferReply { a := p.id }
      else due .atomicReply { a := p.txn, b := status, v := v, c := p.id + 1 }
    | .queueData _ _ _ _ _ => due .qlinkData { a := p.id }
    | .queueCredit _ _ _ _ => due .qlinkCredit { a := p.id }
    | .fabricOut port _ => due .fabricMessageSend { a := port, b := p.id, flag := true }
    | .answer status v bytes =>
      let arg : EventArg := { a := p.txn, b := status, v := v, bytes := bytes, c := p.id + 1 }
      if p.cls = 1 then due .loadReply arg else if p.cls = 3 then due .writeAcknowledgement arg else due .atomicReply arg
    | _ => due .packetEject { a := p.id }

/-- What stands at each place of the network goes on (R82 to R84, R99 to R106). -/
def State.packetDue (s : State) (p : Packet) : List Turn :=
  match p.place with
  | .injection die stop =>
    match nextLeg die stop p.inPort p.dstDie p.dstStop with
    | .loop t => [due .packetInject { a := die, b := stop, c := loopOf stop t }]
    | _ => []
  | .travelling _ _ _ => if p.hops = 0 then [due .packetEject { a := p.id }] else []
  | .link die stop => [due .linkForward { a := die, b := stop }]
  | .slice die stop => [due .fetchOpPerform { a := die, b := stop, c := slicePos p.pa }]
  | .ingress _ => [due .fetchOpArrival { a := p.id }]
  | .ejected die stop _ => [s.ejectedDue p die stop]

/-- A packet that has come to a stop, on a loop, on a link or through a port's ingress queue, and not joined a queue there. -/
def Packet.arriving (p : Packet) : Bool :=
  match p.place with
  | .ejected _ _ _ => true
  | .ingress _ => true
  | _ => false

/-- A hop that has failed 16 times in a row moves to its spare wire (R85). -/
def State.spareDue (s : State) : List Turn :=
  (s.net.hopFails.filter fun h => decide (16 ≤ h.2.2.2)).map fun h => due .hopSpare { a := h.1, b := h.2.1, c := h.2.2.1 }

/-- The packets of the dies that have power (R22): of those that have come to a stop in one tick those on a lower input port go
first (R100 rule 3). -/
def State.netDue (s : State) : List Turn :=
  let live := s.net.packets.filter fun p => s.sys.power.compute || decide (6 ≤ p.place.die)
  let arrivals := (List.range 25).flatMap fun n => live.filter fun p => p.arriving && p.inPort == n
  s.spareDue ++ ((arrivals ++ live.filter fun p => !p.arriving).flatMap s.packetDue).eraseDups ++
    ((s.net.ports.filter fun p => p.up && !(p.queue.isEmpty && p.tx.isEmpty)).map fun p => due .fabricMessageSend { a := p.no })

/-- A core has power (R22): the management cores stand on XD0, which is no compute die. -/
def State.powered (s : State) (core : Nat) : Bool := s.sys.power.compute || decide (544 ≤ core)

/-- Buffers with a store of 1,000 cycles or more drain (R225), and those that an armed store waits for (R230). -/
def State.drainDue (s : State) : List Turn :=
  let old := (s.mm.wcb.filter fun b => decide (b.cycle + 1000 ≤ s.cycleOf b.core)).map fun b => b.core
  let armed := s.net.txns.filterMap fun t => match t.kind with
    | .buffered _ => s.ownerAt t.strm.owner
    | _ => none
  ((old ++ armed).eraseDups.filter s.powered).map fun c => due .wcDrain { a := c }

/-- Deadlines of sleeping fragments (R310), of jobs that are resident. -/
def State.sleepDue (s : State) : List Turn :=
  ((s.me :: s.streams).filter fun st => s.ownerIssues st.id.owner).flatMap fun st =>
    (st.frag :: st.frags).filterMap fun f => match f.wait with
      | .sleep t _ =>
        if t ≠ BitVec.allOnes 64 && decide (t.toNat ≤ s.time.ns.toNat) then
          some (due .sleepDeadline { strm := st.id, a := f.id })
        else none
      | _ => none

/-- The structure that has a TLBI to acknowledge has power. -/
def State.placePowered (s : State) (p : TlbPlace) : Bool :=
  match p with
  | .core c => s.powered c
  | .cluster k => s.powered (8 * k)
  | .walkCache d => s.sys.power.compute || decide (6 ≤ d)

/-- Launches and the scheduler (R131, R148, R152, R153, R158, R160, R170), and translation (R37, R40). -/
def State.schedDue (s : State) : List Turn :=
  let parts := (List.range 4).filter s.isLowest
  ((s.mm.misses.filter fun m => m.ended.isNone && s.placePowered (.walkCache m.die)).map fun m =>
    due .pageWalkDone { walk := ⟨m.who, m.part, m.ctx, BitVec.ofNat 64 m.va, m.kind⟩ }) ++
  (((s.mm.tlbi.filter fun t => s.placePowered t.1).map fun t => due .tlbiAck { place := t.1 }).eraseDups) ++
    (((s.sch.records.filter fun r => r.ends.isNone || s.sys.power.compute).map fun r =>
      due .faultRecordPost { a := r.part }).eraseDups) ++
    ((s.sch.launches.filter fun l => !l.released && decide (l.start.toNat ≤ (s.dtb l.part).toNat)).map fun l =>
      due .launchStartTime { a := l.part, b := l.acc }) ++
    ((s.sch.launches.filter fun l => s.sys.power.compute && l.released && l.patch == .unchecked).map fun l =>
      due .launchPatchCheck { a := l.part, b := l.acc }) ++
    ((s.sch.launches.filter fun l => decide (l.jobs ≤ l.finished)).map fun l =>
      due .jobDone { job := ⟨l.part, l.acc, l.jobs⟩ }) ++
    ((parts.filter fun p => s.sch.launches.any fun l => l.part == p).map fun p => due .schedDispatch { a := p }) ++
    (if s.sys.power.compute then
      ((s.allJobs.filter s.mayAdmit).map fun j => due .jobAdmit { a := j.die }).eraseDups ++
        (s.sch.queries.map fun q => due .chuteQuery { a := q.job.part }).eraseDups
    else []) ++
    (if s.sys.power.compute && decide (s.time.ticks % fourMicros = 0) then
      parts.flatMap fun p => (List.range 6).map fun d => due .migrationAdvert { a := p, b := d }
    else [])

/-- A tile whose engine could take a job's command (R398). -/
def State.helperFor (s : State) (j : Job) (c : MatrixCmd) : Option Nat :=
  match j.core with
  | some k => ((List.range 8).map fun n => k / 8 * 8 + n).find? fun h => s.mayMigrate j c h
  | none => none

/-- The operations of a job: commands and copies that start, end or move. -/
def State.jobDue (s : State) (j : Job) : List Turn :=
  let starts := (j.mcmds.filter fun c => j.mayStart c && !j.preempt).map fun c =>
    match s.helperFor j c with
    | some h => due .commandMigrate { job := j.id, a := c.id, b := h }
    | none => due .matrixCommandStart { job := j.id, a := c.id }
  let ends := (j.mcmds.filter fun c => c.started && decide (c.units ≤ c.steps)).map fun c =>
    due .matrixCommandDone { job := j.id, a := c.id }
  let joins := (j.mcmds.filter fun c => c.shared && c.part == 0 && c.finished.isSome).map fun c =>
    due .coopCombine { job := j.id, a := c.id }
  let recalls := (j.mcmds.filter fun c => c.helper.any fun h => (s.residentAt h).any fun x => !x.mcmds.isEmpty).map fun c =>
    due .commandRecall { job := j.id, a := c.id }
  let asks := if j.coopAsk.any fun q => q.answer.isNone then [due .coopDescriptor { job := j.id }] else []
  let copies := (j.nextCopy.toList.map fun c => due .copyStart { job := j.id, a := c.id }) ++
    (j.copies.filter fun c => c.started && c.parked.isNone && c.moveDone j).map fun c =>
      due .copyComplete { job := j.id, a := c.id }
  let leaves :=
    if s.jobFinished j then [due .jobDone { job := j.id }]
    else if j.expired then [due .canaryExpiry { job := j.id }]
    else if j.preempt && j.savePark.isNone then [due .hardPreemptDone { job := j.id }]
    else
      match j.softMark with
      | some t => if decide (0 < t) && decide (t ≤ s.time.ticks) then [due .softPreemptTimeout { job := j.id }] else []
      | none => []
  starts ++ ends ++ joins ++ recalls ++ asks ++ copies ++ leaves

/-- The fragment that holds a ray's lane is parked, so the ray must be too (R185). -/
def State.rayStranded (s : State) (r : Ray) : Bool :=
  match r.phase, s.stream ⟨.job r.job, r.strm⟩ with
  | .candidate _ _ _ _ _ _ shown, some st =>
    shown && (st.frag :: st.frags).any fun f => f.mask.getLsbD r.lane && f.parked.isSome
  | _, _ => false

/-- The guide half (R173, R174, R179, R185, R418). -/
def State.guideDue (s : State) : List Turn :=
  (if s.guide.arrivals.isEmpty && s.untold.isEmpty then [] else [due .primitiveArrival {}]) ++
    (((s.guide.passes.filter s.mayResolve).map fun p => due .binResolve { a := p.part }).eraseDups) ++
    (s.guide.sends.map fun r => due .guideBinLanded { a := r.id }) ++
    ((s.guide.rays.filter fun r => r.phase == .traversing).map fun r => due .rayTraversalStop { a := r.id }) ++
    ((s.guide.rays.filter fun r => r.phase == .parking || s.rayStranded r).map fun r => due .rayPark { a := r.id })

/-- A multiple of a number lies above one count and not above another. -/
def passes (n from_ to_ : Nat) : Bool := if n = 0 then true else decide (from_ / n < to_ / n)

/-- Timers and handshakes of the module; `old` is the state before the tick. -/
def State.systemDue (s old : State) : List Turn :=
  let match_ := (s.reg (snpReg 0x008)).toNat
  let reached := decide (match_ ≤ s.time.ns.toNat)
  let armed := s.field (snpReg 0x000) 8 8 == 1
  (if s.field (snpReg 0x000) 1 1 == 1 && reached && (armed || decide (old.time.ns.toNat < match_)) then
      [due .snapDtbMatch {}] else []) ++
    (match s.sys.snapshot with
      | some x =>
        if x.latched then [due .snapshotDone {}]
        else if x.latchAt.toNat ≤ s.time.ns.toNat then [due .snapshotLatch {}] else []
      | none => []) ++
    (match s.sys.quiesce with
      | some q => if q.captured.isSome then [] else [due .quiesceReached {}, due .quiesceTimeout {}]
      | none => []) ++
    (if s.sys.cxl.ptm.isSome then [due .ptmTimeout {}] else []) ++
    (match s.sys.boot with
      | .awaitGood _ => [due .bootGoodTimeout {}]
      | _ => []) ++
    (if s.dram.stalled.isEmpty then [] else due .lpFreeMerge {} :: s.dram.stalled.map fun b => due .lpWritebackResume { a := b }) ++
    (if s.field (parReg 0x018) 32 32 == 1 &&
        passes (s.field (parReg 0x018) 31 0) (tableGet old.time.cycles 8 0) (tableGet s.time.cycles 8 0) then
      [due .scrubLine {}, due .scrubLine { flag := true }] else []) ++
    ((s.dram.windows.filter s.windowPast).map fun w => due .groupWindowClose { a := w.chan }) ++
    ((s.dram.queue.map fun r => r.chan).eraseDups.filterMap fun ch => (s.nextRead ch).map fun r => due .dramReadDone { a := r.pa }) ++
    (s.dram.erring.map fun e => due .reconstructionRequest (erringRequest e)) ++
    (if s.time.ticks % (100 * Config.ticksPerMicrosecond) = 0 then [due .clockStep {}] else [])

/-- Every event that is due; the compute dies' own only while they have power (R22). -/
def State.allDue (s old : State) : List Turn :=
  s.netDue ++ s.drainDue ++ s.sleepDue ++ s.schedDue ++
    (if s.sys.power.compute then (s.allJobs.filter Job.works).flatMap s.jobDue ++ s.guideDue else []) ++ s.systemDue old

end Sys2Proof.Machine
end

