-- ==== Sys2Proof/Machine/Issue.lean ====
section
/-!
DEFINITION. Issue (R194, R198, R203, R205, R206, R252, R300): which fragments a round offers, the fetch of an instruction's
bytes, and what comes before and after its meaning.
-/

namespace Sys2Proof.Machine

/-! ### Who may issue -/

/-- A fragment that waits for what another step may have brought about is offered again. -/
def Frag.retries (fired : Bool) (f : Frag) : Bool :=
  f.parked.isNone && !f.woken &&
    match f.wait with
    | .stalled _ => true
    | .take _ _ => true
    | .give _ _ => true
    | .semaphore _ _ => true
    | .barrier _ _ => true
    | .peer _ _ => true
    | .whole _ => true
    | .meet => true
    | .loopEnd => true
    | .shootdown _ => true
    | .sleep _ _ => fired
    | _ => false

/-- Order among those that wait. -/
def Frag.ticketOf (f : Frag) : Nat :=
  match f.wait with
  | .stalled n => n
  | .take _ n => n
  | .give _ n => n
  | .semaphore _ n => n
  | .peer _ n => n
  | .shootdown n => n
  | _ => 0

/-- The fragment may be offered now. -/
def State.mayIssue (s : State) (st : Stream) (f : Frag) : Bool :=
  !st.ended && s.ownerIssues st.id.owner && !st.shotBy f && (f.ready || f.retries st.fired)

/-! ### One round (R206) -/

/-- Every fragment that waits, in the order of the tickets. -/
def State.retryTurns (s : State) : List Turn :=
  let waiting := (s.me :: s.streams).flatMap fun st =>
    if st.ended || !s.ownerIssues st.id.owner then []
    else ((st.frag :: st.frags).filter (Frag.retries st.fired)).map fun f => (f.ticketOf, st.id, f.id)
  (sortBy (fun a b => decide (a.1 ≤ b.1)) waiting).map fun e => .issue e.2.1 e.2.2

/-- The fragment that a stream goes on with, of some that could: the current one, which alone has issued fewer than 64 in a row since
it became so; else the one of greatest depth, the oldest of equals. -/
def chooseFrag (fs : List Frag) : Option Frag :=
  (fs.find? fun f => decide (f.run < 64)).or
    (firstBy (fun (a b : Frag) => decide (b.depth < a.depth) || (a.depth == b.depth && decide (a.id ≤ b.id))) fs)

/-- The fragment of a stream that issues next. -/
def State.readyFrag (s : State) (st : Stream) : Option Frag :=
  if st.ended then none else chooseFrag ((st.frag :: st.frags).filter (s.nextReady st))

/-- A fragment that stalls is no longer current, though its next instruction may be ready before another issues. -/
def State.demote (s : State) (st : Stream) : Stream :=
  if st.frags.isEmpty then st
  else
    let go (f : Frag) : Frag := if s.nextReady st f then f else { f with run := 64 }
    { st with frag := go st.frag, frags := st.frags.map go }

/-- The engine makes the registers of a job's next instruction resident (R198): of its vector streams' fragments that lack nothing
else, the one that its oldest such stream goes on with. -/
def State.fillTurn (s : State) (j : Job) : Option Turn :=
  let lacking := ((s.streamsOf j.id).filter fun st => st.isVector && !st.ended).filterMap fun st =>
    (chooseFrag ((st.frag :: st.frags).filter (s.lacksRegister st))).map fun f => (st, f)
  (firstBy (fun (a b : Stream × Frag) =>
    decide (a.1.age < b.1.age) || (a.1.age == b.1.age && decide (a.1.id.strm ≤ b.1.id.strm))) lacking).map fun x =>
      .event .registerFillDone { strm := x.1.id, b := x.2.id, flag := true }

/-- One such step for each job whose streams issue. -/
def State.fillTurns (s : State) : List Turn := (s.allJobs.filter fun j => decide (0 < j.nvec) && s.jobIssues j).filterMap s.fillTurn

/-- Streams of a job on an engine that have a ready fragment, with that fragment. -/
def State.readyStreams (s : State) (j : JobId) (e : Engine) : List (Stream × Frag) :=
  ((s.streamsOf j).filter fun st => st.engine == e).filterMap fun st => (s.readyFrag st).map fun f => (st, f)

/-- Keys of the round-robin among a core's jobs, beside those of its streams (issueKey). -/
def serveKey (core : Nat) (e : Engine) : Nat := 16 * 1024 + 4 * core + engineCode e

/-- The element after the last one served, with wrap-around. -/
def nextAfter {α : Type} (key : α → Nat) (last : Option Nat) (xs : List α) : Option α :=
  let sorted := sortBy (fun a b => decide (key a ≤ key b)) xs
  match last with
  | some n => (sorted.find? fun x => decide (n < key x)).or sorted.head?
  | none => sorted.head?

/-- The vector stream that a job's policy chooses (R206). -/
def chooseStream (j : Job) (last : Option Nat) (sts : List (Stream × Frag)) : Option (Stream × Frag) :=
  if j.rr then nextAfter (fun x => x.1.id.strm) last sts
  else
    (sts.find? fun x => last == some x.1.id.strm).or
      (firstBy (fun (a b : Stream × Frag) =>
        decide (a.1.age < b.1.age) || (a.1.age == b.1.age && decide (a.1.id.strm ≤ b.1.id.strm))) sts)

/-- The turn that an engine of a core gives: its jobs in round-robin order, one issue. -/
def State.engineTurn (s : State) (core : Nat) (e : Engine) : Option Turn :=
  let jobs := (s.residentAt core).filter fun j => s.jobIssues j && !(s.readyStreams j.id e).isEmpty
  match nextAfter (fun j => j.slot) (tableFind s.lastIssue (serveKey core e)) jobs with
  | none => none
  | some j =>
    let sts := s.readyStreams j.id e
    let st := if e = .vector then chooseStream j (tableFind s.lastIssue (issueKey core j.slot e)) sts else sts.head?
    st.map fun x => .issue x.1.id x.2.id

/-- One issue for each engine of each core, and each management core's. -/
def State.issueTurns (s : State) : List Turn :=
  let cores := (s.allJobs.filterMap fun j => if s.jobIssues j then j.core else none).eraseDups
  let jobs := (sortBy (fun a b => decide (a ≤ b)) cores).flatMap fun c =>
    [Engine.control, .vector, .matrix, .copy].filterMap (s.engineTurn c)
  jobs ++ (List.range 4).filterMap fun n =>
    if s.ownerIssues (.mgmt n) then
      (s.stream ⟨.mgmt n, 0⟩).bind fun st => (s.readyFrag st).map fun f => .issue st.id f.id
    else none

/-- One tick: time, work, and the agenda of the round. -/
def tick (s : State) : State :=
  let t := workAll (moveLoops (trimSlices (trimCaches (sendParcels (advanceTime s)))) fun die => s.gain (loopClock die))
  { t with
    agenda := t.agenda ++ t.allDue s ++ t.retryTurns ++ t.fillTurns ++ t.issueTurns,
    me := t.demote t.me, streams := t.streams.map t.demote }

/-- The instruction completes its word when it completes (R300): a control transfer that is taken does not, nor does a fragment that
ends; VEXIT does (log entry 137). -/
def State.fallsThrough (s : State) (i : Instr) : Bool :=
  match i with
  | .b _ => false
  | .bl _ => false
  | .br _ => false
  | .blr _ => false
  | .ret => false
  | .bc c a _ => (condHolds c (s.sreg a)) == some false
  | .bcBset a n _ => !bitOf (s.sreg a) n.toNat
  | .bcBclr a n _ => bitOf (s.sreg a) n.toNat
  | .vbr p _ _ => (s.mask &&& s.me.pred p.toNat) == 0#128
  | .exit => false
  | .whole => false
  | _ => true

/-- Before the meaning: the round-robin remembers the issue (R206), a fragment's run of issues goes on or begins, and its entry
is used (R203). A fragment that is only offered again does not issue. -/
def beforeIssue (s : State) : State :=
  if !s.me.frag.ready then s
  else
    let s := if s.me.frag.woken then s else s.answered s.me.id s.fragOp
    let key := issueKey s.core s.myJob.slot s.me.engine
    let last := tablePut s.lastIssue key s.me.id.strm
    let last := if s.isMgmt then s.lastIssue else tablePut last (serveKey s.core s.me.engine) s.myJob.slot
    let run := if 64 ≤ s.me.frag.run then 1 else s.me.frag.run + 1
    let uses := s.me.uses + 1
    { s with
      lastIssue := last,
      me :=
        if s.me.isVector then
          { s.me with
            uses := uses, frag := { s.me.frag with run := run, used := uses, woken := false },
            frags := s.me.frags.map fun g => { g with run := 64 } }
        else { s.me with frag := { s.me.frag with woken := false } } }

/-- What an issue turn does: it may have nothing to issue, or an instruction whose meaning is to be performed. -/
inductive Prepared where
  | nothing (s : State)
  | run (i : Instr) (s : State)

/-- A step that the fragment's issue needs comes first, and the fragment is offered again. -/
def State.first (s : State) (e : Instr) (a : EventArg) : State := (s.sooner e a).later (.issue s.me.id s.me.frag.id)

/-- The split-table step that comes first. -/
def State.firstSplit (s : State) (x : Nat × Bool) : State :=
  s.first .splitTableSpillFill { strm := s.me.id, a := x.1, b := s.me.frag.id, flag := x.2 }

/-- Room in the split table (R203) and the registers of the instruction on the core, then the instruction (R198). -/
def prepareResident (s : State) (i : Instr) : Prepared :=
  match s.splitNeed i with
  | some x => .nothing (s.firstSplit x)
  | none =>
    match residence 64 s (s.needs i) with
    | .ready s => .run i (beforeIssue s)
    | .wants s e a => .nothing (s.first e a)
    | .waits => .nothing s

/-- The checks at issue, in order: the split-table entry, the fetch, the word (R252), the scoreboard, a loop end that a
diverged fragment may not complete, residence. -/
def prepareWord (s : State) : Prepared :=
  match s.fetch with
  | none => .nothing (takeFault s { cause := causeIllegalInstruction })
  | some bs =>
    match decodeBytes (coreKind s.core) s.me.engine bs with
    | .reject .absentUnit => .nothing (takeFault s { cause := causeIllegalUnit })
    | .reject _ => .nothing (takeFault s { cause := causeIllegalInstruction })
    | .instr i =>
      if s.scoreboardHolds i then .nothing s
      else if s.me.frag.ready && s.forbiddenLoopEnd && s.fallsThrough i then
        .nothing (takeFault s { cause := causeIllegalInstruction })
      else if s.me.isVector then prepareResident s i
      else .run i (beforeIssue s)

/-- An issue turn of a fragment, up to its meaning. -/
def prepare (s : State) (id : StreamId) (frag : Nat) : Prepared :=
  match s.stream id with
  | none => .nothing s
  | some st =>
    match (st.frag :: st.frags).find? fun f => f.id == frag with
    | none => .nothing s
    | some f =>
      if !s.mayIssue st f then .nothing s
      else
        let t := s.select id frag
        if f.wait = .loopEnd then .nothing (if t.me.loopPending then s else { t with me := t.me.goOn })
        else
        match (if t.me.isVector then t.me.wantsEntry else none) with
        | some code => .nothing (t.firstSplit (t.me.fillStep code))
        | none => prepareWord t

/-- What a fragment that was only offered again comes to (R206): while it waits as before, it waits on, and does not become the
current one; where its instruction would go on, it is woken, and the policy of its engine issues it. -/
def afterPoll (old : State) (st : Stream) (f : Frag) (t : State) : State :=
  match (t.stream st.id).bind fun x => (x.frag :: x.frags).find? fun g => g.id == f.id with
  | some g =>
    if g.wait = f.wait && g.parked.isNone && !t.myJob.hardStop then t.modStream st.id fun x => x.swapFrag st.frag.id
    else old.modFrag st.id f.id fun g => { g with woken := true }
  | none => old.modFrag st.id f.id fun g => { g with woken := true }

end Sys2Proof.Machine
end

