-- ==== Sys2Proof/Machine/Step.lean ====
section
/-!
DEFINITION. One step of the module: the next turn of the agenda is performed, or, where none stands on it, one tick of time
puts the turns of the next round there.
-/

namespace Sys2Proof.Machine

/-- A fragment of a stream that is only offered again. -/
def State.offered (s : State) (id : StreamId) (frag : Nat) : Option (Stream × Frag) :=
  (s.stream id).bind fun st =>
    ((st.frag :: st.frags).find? fun f => f.id == frag && !f.ready).map fun f => (st, f)

/-- An issue turn: the checks before the instruction, and its meaning, which only shows whether a fragment that waits would go
on. -/
def issueTurn (s : State) (id : StreamId) (frag : Nat) : Result :=
  match prepare s id frag with
  | .nothing t => .next t
  | .run i t =>
    match s.offered id frag, exec i t with
    | some (st, f), .next u => .next (afterPoll s st f u)
    | _, r => r

/-- One step. A module without power does nothing until POWER_ON stands on its agenda (R134, R135). -/
def step (s : State) : Host.Outcome State Fault Refusal :=
  match s.agenda with
  | [] => if s.sys.boot = .off then .fault .unpowered else .next (tick s)
  | .event i a :: rest => exec i { s with agenda := rest, arg := a }
  | .issue id frag :: rest => issueTurn { s with agenda := rest } id frag

/-! ### A program of one word -/

/-- The job that stands for a loaded program: launch 0 of partition 0. -/
def probeId : JobId := ⟨0, 0, 0⟩

/-- The stream of the probe job on each engine (R195). -/
def probeStrm (e : Engine) : Nat :=
  match e with
  | .control => 0
  | .vector => 1
  | .matrix => 17
  | .copy => 18

/-- The lowest core of the kind on which an engine's table words are tried. -/
def probeCore (e : Engine) : Nat :=
  match tableKind e with
  | .tile => 0
  | .guide => 448
  | .management => 544

/-- A resident job whose kernel image has one section, of four bytes, for one engine, with one vector stream where that is the
vector engine, a granted budget and one granule of vector registers. -/
def probeJob (e : Engine) (w : Nat) : Job :=
  { Job.none with
    id := probeId, state := .resident, core := some (probeCore e), die := coreDie (probeCore e),
    guide := tableKind e == .guide, budget := 1000000, nvec := if e = .vector then 1 else 0,
    pword := 1#32,
    sections := [⟨e, 0#64, 4, 0, cellsSet [] 0 (tableBytes w)⟩] }

/-- The state with an instruction, whose bits are w, stored in the section of a resident job's stream, at that stream's
program counter, and the next turn an issue of that stream: what loading and dispatching a program of one word brings about. -/
def State.withFetchWord (s : State) (nbits w : Nat) : State :=
  let w := w % 2 ^ nbits
  let e := match firstDecoding tableEngines (tableWord w) with
    | some (e, _) => e
    | none => .control
  let id : StreamId := ⟨.job probeId, probeStrm e⟩
  let others (xs : List Stream) : List Stream := xs.filter fun st => !st.ofJob probeId
  { s with
    agenda := [.issue id 0],
    me := Stream.start id e (BitVec.allOnes 128) 0#64,
    streams := others (s.me :: s.streams),
    myJob := probeJob e w,
    jobs := (if s.myJob.state = .done then s.jobs else s.myJob :: s.jobs).filter fun j => j.id ≠ probeId }

end Sys2Proof.Machine
end

