-- ==== Sys2Proof/Safety.lean ====
section
/-!
DEFINITION. The terms that claims use: safe runs, the form of the memories, what an instruction completes with, what it
leaves alone, and the exceptions that it takes.
-/

namespace Sys2Proof

open Machine

/-- A run that is never refused, however long. -/
def Safe (s : State) : Prop :=
  ∀ (k : Nat) (r : Refusal), core.run k s ≠ .refused r

/-- Both memories stand in canonical form, so that equal contents are equal data. -/
def MemoryForm (s : State) : Prop :=
  Memory.wf s.mm.mem = true ∧ Memory.wf s.mm.hostMem = true

/-! ### What an instruction completes with -/

/-- The instruction completes with this state. -/
def Completes (s : State) (i : Instr) (t : State) : Prop := exec i s = .next t

/-- The instruction writes a value to a scalar register of the issuing stream and completes; the program counter goes on as
`advance` says (log entry 5). -/
def WritesScalar (s : State) (i : Instr) (d : SReg) (v : Word) : Prop :=
  exec i s = .next ((s.setS d v).advance)

/-- The instruction writes the lanes of a mask in a vector register and completes. -/
def WritesLanes (s : State) (i : Instr) (d : VNum) (m : LaneMask) (v : VReg) : Prop :=
  exec i s = .next ((s.setLanes d 0 v m).advance)

/-- The instruction takes an exception (R211) instead of completing. -/
def Traps (s : State) (i : Instr) (f : FaultInfo) : Prop := exec i s = .next (takeFault s f)

/-- ILLEGAL_INSTRUCTION (R211). -/
def TrapsIllegal (s : State) (i : Instr) : Prop := Traps s i { cause := causeIllegalInstruction }

/-! ### What an instruction leaves alone -/

/-- Every byte of device and host memory reads as before. -/
def SameMemory (s t : State) : Prop :=
  ∀ a, cellGet t.mm.mem a = cellGet s.mm.mem a ∧ cellGet t.mm.hostMem a = cellGet s.mm.hostMem a

/-- Only the issuing stream changes: every other stream, every job with its scratchpad, the registers of the part, memory,
caches, queues and time stay. -/
def OnlyStream (s t : State) : Prop := t = { s with me := t.me }

/-- The scalar registers of the issuing stream but one read as before. -/
def SameScalarsBut (s t : State) (d : SReg) : Prop := ∀ n : SReg, n ≠ d → t.sreg n = s.sreg n

/-- The control registers of a stream: FPCTL, TOKARM, the monitor, DTBFRAC and what it has under way. -/
def SameControls (a b : Stream) : Prop :=
  b.id = a.id ∧ b.engine = a.engine ∧ b.fpctl = a.fpctl ∧ b.arm = a.arm ∧ b.watch = a.watch ∧ b.fired = a.fired ∧
    b.dtbFrac = a.dtbFrac ∧ b.pending = a.pending ∧ b.flights = a.flights ∧ b.age = a.age

/-- The vector state of a stream: registers, predicates, RRB, QSTAT and SRGEN. -/
def SameVectors (a b : Stream) : Prop :=
  b.vregs = a.vregs ∧ b.preds = a.preds ∧ b.rrb = a.rrb ∧ b.qstat = a.qstat ∧ b.srgen = a.srgen ∧ b.spilled = a.spilled

/-- No active loop slot ends at the program counter (R298). -/
def NoLoopEnd (s : State) : Prop := ∀ l ∈ s.me.loops, l.last ≠ s.pc

/-- The current fragment is not about to reconverge at an address (R202). -/
def NoReconvergence (s : State) (a : Word) : Prop :=
  ∀ r ∈ s.me.regions, r.reconv ≠ a

/-! ### Ordinary circumstances -/

/-- The issuing stream belongs to a job. -/
def InJob (s : State) : Prop := s.isMgmt = false

/-- No arm is pending (R303). -/
def NoArm (s : State) : Prop := s.me.arm = Arm.clear

/-- The accesses of an instruction pass the checks of R356 and reach these places; the translation may have left its traces
in a later state (R35, R36). -/
def Reaches (s : State) (q : Req) (lanes : List (Nat × Word)) (t : State) (ps : List (Nat × Spot)) : Prop :=
  s.mustWait lanes = false ∧ checkAccess s q lanes = .ok (t, ps)

/-- A place answers a load at once: the host does not hold it, it is not poisoned, and it lies on this module (R66, R119). -/
def Readable (s : State) (scope n : Nat) (p : Spot) : Prop :=
  spotHeld s scope true p n = false ∧ spotPoisoned s scope p n = false ∧ p.remote = false

/-- A place takes a store at once. -/
def Writable (s : State) (scope n : Nat) (p : Spot) : Prop :=
  spotHeld s scope false p n = false ∧ p.remote = false

/-- The issuing stream reads n bytes at an address through translation at a scope, nothing that it has under way coming first
(R219, R221, R313, R374). -/
def ReadsBytes (s : State) (scope : Nat) (va : Word) (n : Nat) (bs : List Byte) (t : State) : Prop :=
  s.mustWait ((List.range (n / 128 + 1)).map fun i => (i, va + BitVec.ofNat 64 (128 * i))) = false ∧
    readVia s (s.viaMe scope) va n = (.ok bs, t)

/-- A release at a scope has nothing to wait for: the stream has no access under way, and nothing stays above the slices
afterwards (R220). -/
def ReleaseReady (s : State) (scope : Nat) : Prop :=
  s.myTxns = [] ∧ releasedAt (releaseAt s s.core scope) (releaseAt s s.core scope).core scope = true

end Sys2Proof
end

