-- ==== Sys2Proof/Certificates/Slice0/Obligations.lean ====
section
/-!
DEFINITION. The statements for the provers: encodings, what every instruction and every whole step of the part completes with,
what it leaves alone, exceptions and the return from them, reset, and what every step keeps.
-/

open Sys2Proof Sys2Proof.Machine

/-! ### Scalar arithmetic -/

/-- R267, R293, R294: the register and immediate forms, computed as the rules' tables say, with no precondition: shift amounts are
taken modulo 64, products keep their low or high half, division has its corner cases, the unary forms are given by what their
result satisfies; ORI and XORI extend their immediate with zeros, the others with the sign. -/
def Obligations.ScalarArithmetic : Prop :=
  ((∀ (s : State) (d a b : SReg),
    WritesScalar s (.add d a b) d (s.sreg a + s.sreg b) ∧
    WritesScalar s (.sub d a b) d (s.sreg a - s.sreg b) ∧
    WritesScalar s (.mul d a b) d (s.sreg a * s.sreg b) ∧
    WritesScalar s (.and d a b) d (s.sreg a &&& s.sreg b) ∧
    WritesScalar s (.or d a b) d (s.sreg a ||| s.sreg b) ∧
    WritesScalar s (.xor d a b) d (s.sreg a ^^^ s.sreg b) ∧
    WritesScalar s (.andn d a b) d (s.sreg a &&& ~~~ s.sreg b) ∧
    WritesScalar s (.shl d a b) d (s.sreg a <<< ((s.sreg b).toNat % 64)) ∧
    WritesScalar s (.shr d a b) d (s.sreg a >>> ((s.sreg b).toNat % 64)) ∧
    WritesScalar s (.sar d a b) d ((s.sreg a).sshiftRight ((s.sreg b).toNat % 64)) ∧
    WritesScalar s (.rol d a b) d ((s.sreg a).rotateLeft ((s.sreg b).toNat % 64)) ∧
    WritesScalar s (.min d a b) d (if (s.sreg a).toInt < (s.sreg b).toInt then s.sreg a else s.sreg b) ∧
    WritesScalar s (.max d a b) d (if (s.sreg a).toInt < (s.sreg b).toInt then s.sreg b else s.sreg a) ∧
    WritesScalar s (.minu d a b) d (if (s.sreg a).toNat < (s.sreg b).toNat then s.sreg a else s.sreg b) ∧
    WritesScalar s (.maxu d a b) d (if (s.sreg a).toNat < (s.sreg b).toNat then s.sreg b else s.sreg a) ∧
    WritesScalar s (.seq d a b) d (if s.sreg a = s.sreg b then 1#64 else 0#64) ∧
    WritesScalar s (.sne d a b) d (if s.sreg a = s.sreg b then 0#64 else 1#64) ∧
    WritesScalar s (.slt d a b) d (if (s.sreg a).toInt < (s.sreg b).toInt then 1#64 else 0#64) ∧
    WritesScalar s (.sltu d a b) d (if (s.sreg a).toNat < (s.sreg b).toNat then 1#64 else 0#64) ∧
    WritesScalar s (.sel d a b) d (if s.sreg d = 0#64 then s.sreg b else s.sreg a)) ∧
  (∀ (s : State) (d a b : SReg),
    WritesScalar s (.mulhs d a b) d (((s.sreg a).signExtend 128 * (s.sreg b).signExtend 128).extractLsb' 64 64) ∧
    WritesScalar s (.mulhu d a b) d (((s.sreg a).zeroExtend 128 * (s.sreg b).zeroExtend 128).extractLsb' 64 64) ∧
    WritesScalar s (.divs d a b) d
      (if s.sreg b = 0#64 then BitVec.allOnes 64 else BitVec.ofInt 64 ((s.sreg a).toInt.tdiv (s.sreg b).toInt)) ∧
    WritesScalar s (.divu d a b) d (if s.sreg b = 0#64 then BitVec.allOnes 64 else s.sreg a / s.sreg b) ∧
    WritesScalar s (.rems d a b) d
      (if s.sreg b = 0#64 then s.sreg a else BitVec.ofInt 64 ((s.sreg a).toInt.tmod (s.sreg b).toInt)) ∧
    WritesScalar s (.remu d a b) d (if s.sreg b = 0#64 then s.sreg a else s.sreg a % s.sreg b) ∧
    (∃ n ≤ 64, WritesScalar s (.clz d a) d (BitVec.ofNat 64 n) ∧
      (∀ k < n, (s.sreg a).getLsbD (63 - k) = false) ∧ (n < 64 → (s.sreg a).getLsbD (63 - n) = true)) ∧
    (∃ n ≤ 64, WritesScalar s (.ctz d a) d (BitVec.ofNat 64 n) ∧
      (∀ k < n, (s.sreg a).getLsbD k = false) ∧ (n < 64 → (s.sreg a).getLsbD n = true)) ∧
    WritesScalar s (.popc d a) d (BitVec.ofNat 64 ((List.range 64).countP fun k => (s.sreg a).getLsbD k)) ∧
    (∃ v : Word, WritesScalar s (.brev d a) d v ∧ ∀ k < 64, v.getLsbD k = (s.sreg a).getLsbD (63 - k)) ∧
    (s.sreg a = BitVec.intMin 64 → s.sreg b = BitVec.allOnes 64 →
      WritesScalar s (.divs d a b) d (BitVec.intMin 64) ∧ WritesScalar s (.rems d a b) d 0#64))) ∧
  (∀ (s : State) (d a : SReg) (j : BitVec 13) (k : BitVec 6),
    WritesScalar s (.addi d a j) d (s.sreg a + j.signExtend 64) ∧
    WritesScalar s (.andi d a j) d (s.sreg a &&& j.signExtend 64) ∧
    WritesScalar s (.ori d a j) d (s.sreg a ||| j.zeroExtend 64) ∧
    WritesScalar s (.xori d a j) d (s.sreg a ^^^ j.zeroExtend 64) ∧
    WritesScalar s (.shli d a k) d (s.sreg a <<< k.toNat) ∧
    WritesScalar s (.shri d a k) d (s.sreg a >>> k.toNat) ∧
    WritesScalar s (.sari d a k) d ((s.sreg a).sshiftRight k.toNat) ∧
    WritesScalar s (.slti d a j) d (if (s.sreg a).toInt < (j.signExtend 64).toInt then 1#64 else 0#64) ∧
    WritesScalar s (.sltui d a j) d (if (s.sreg a).toNat < (j.signExtend 64).toNat then 1#64 else 0#64) ∧
    WritesScalar s (.muli d a j) d (s.sreg a * j.signExtend 64))

/-- R295: AHI, in format F-U with major 0x0E, puts its immediate at bit 13, copies its sign above bit 31, and leaves bits [12:0]
zero; with an ORI behind it, it builds any 32-bit signed constant. -/
def Obligations.UpperImmediate : Prop :=
  ∀ (s : State) (d : SReg) (j : BitVec 19),
    let v : Word := BitVec.ofInt 64 (j.toInt * 2 ^ 13)
    encode (.ahi d j) = some (0#1 ++ 0x0E#6 ++ d ++ j) ∧ WritesScalar s (.ahi d j) d v ∧ v.extractLsb' 13 19 = j ∧
      v.extractLsb' 0 13 = 0#13 ∧ (∀ n, 32 ≤ n → n < 64 → v.getLsbD n = j.getLsbD 18) ∧
      ∀ c : BitVec 32, ∃ (x : BitVec 19) (y : BitVec 13),
        WritesScalar s (.ahi d x) d (BitVec.ofInt 64 (x.toInt * 2 ^ 13)) ∧
        (d ≠ 0#6 → WritesScalar (s.setS d (BitVec.ofInt 64 (x.toInt * 2 ^ 13))) (.ori d d y) d (c.signExtend 64))

/-- R296: LEA, STEP2 and WRAP in format F-RR with majors 0x0F to 0x11. STEP2 splits the pair x = sD[31:0], y = sD[63:32] and counts in cells of rows of A[31:0]. -/
def Obligations.AddressHelpers : Prop :=
  ∀ (s : State) (d a b : SReg) (h : BitVec 3),
    encode (.lea d a b h) = some (0#1 ++ 0x0F#6 ++ d ++ a ++ b ++ 0#4 ++ h) ∧
    encode (.step2 d a b) = some (0#1 ++ 0x10#6 ++ d ++ a ++ b ++ 0#7) ∧
    encode (.wrap d a b) = some (0#1 ++ 0x11#6 ++ d ++ a ++ b ++ 0#7) ∧
    WritesScalar s (.lea d a b h) d (s.sreg a + s.sreg b * BitVec.ofNat 64 (2 ^ h.toNat)) ∧
    ((s.sreg a).extractLsb' 0 32 = 0#32 → WritesScalar s (.step2 d a b) d (s.sreg d)) ∧
    ((s.sreg a).extractLsb' 0 32 ≠ 0#32 →
      ∃ v : Word, WritesScalar s (.step2 d a b) d v ∧
        (v.extractLsb' 0 32).toNat = (((s.sreg d).extractLsb' 0 32).toNat + ((s.sreg b).extractLsb' 0 32).toNat) %
          ((s.sreg a).extractLsb' 0 32).toNat ∧
        (v.extractLsb' 32 32).toNat = (((s.sreg d).extractLsb' 32 32).toNat +
          (((s.sreg d).extractLsb' 0 32).toNat + ((s.sreg b).extractLsb' 0 32).toNat) /
            ((s.sreg a).extractLsb' 0 32).toNat) % 2 ^ 32) ∧
    WritesScalar s (.wrap d a b) d
      (if s.sreg b = 0#64 then s.sreg d + s.sreg a else (s.sreg d + s.sreg a) % s.sreg b)

/-! ### Registers, completion and its frame -/

/-- R240, R242: s0 reads as zero and discards writes, p0 reads all ones; a register written reads back, and no other changes;
vector registers from v32 on rotate by RRB. -/
def Obligations.RegisterConventions : Prop :=
  ∀ (s : State) (d n : SReg) (v : Word) (p q : Nat) (m : LaneMask) (w : VReg) (k : Nat),
    s.sreg 0#6 = 0#64 ∧ s.setS 0#6 v = s ∧ (d ≠ 0#6 → (s.setS d v).sreg d = v) ∧
    (n ≠ d → (s.setS d v).sreg n = s.sreg n) ∧
    s.me.pred 0 = BitVec.allOnes 128 ∧ s.me.setPred 0 m = s.me ∧ (p ≠ 0 → (s.me.setPred p m).pred p = m) ∧
    (q ≠ p → (s.me.setPred p m).pred q = s.me.pred q) ∧
    (s.me.setV k w).vreg k = w ∧ (k < 32 → s.me.rotate k = k) ∧
    (32 ≤ k → s.me.rotate k = 32 + (k - 32 + s.me.rrb.toNat) % 32)

/-- R297 to R299, R301: what follows an instruction that completes without transferring control. With no active slot ending at
it, the program counter moves one word on; the most recently started slot that ends there counts and repeats, or finishes;
a pipelined one that repeats rotates RRB and the stage predicates. Where the register of a LOOPX slot that ends there has a pending
write, the end word is held. Everything outside the stream, its scalar and vector registers
and its control registers stay; so do the counters of slots that do not end here, and RRB and the predicates unless a
pipelined slot ends here. -/
def Obligations.Completion : Prop :=
  (∀ s : State,
    (NoLoopEnd s → NoReconvergence s (s.pc + 4#64) →
      s.advance = { s with me := { s.me with frag := { s.me.frag with pc := s.pc + 4#64, wait := .running } } }) ∧
    (s.me.loopPending = true →
      s.advance = { s with me := { s.me with frag := { s.me.frag with wait := .loopEnd } } }) ∧
    (∀ l rest, s.me.loops = l :: rest → l.last = s.pc → s.me.loopPending = false → NoReconvergence s l.start →
      (l.kind = .counted → s.me.lc l.lc ≠ 1#64 →
        s.advance.pc = l.start ∧ s.advance.me.lc l.lc = s.me.lc l.lc - 1#64 ∧ s.advance.me.loops = s.me.loops) ∧
      (∀ r, l.kind = .conditional r → s.sreg r ≠ 0#64 →
        s.advance.pc = l.start ∧ s.advance.me.lc l.lc = s.me.lc l.lc + 1#64 ∧ s.advance.me.loops = s.me.loops) ∧
      (∀ items done, l.kind = .pipelined items done → s.me.isVector = true → s.me.lc l.lc ≠ 1#64 →
        s.advance.pc = l.start ∧ s.advance.me.rrb = s.me.rrb - 1#5 ∧
        (∀ k, 8 ≤ k → k ≤ 14 → s.advance.me.pred (k + 1) = s.me.pred k) ∧
        s.advance.me.pred 8 = if done + 1 < items.toNat then BitVec.allOnes 128 else 0#128)) ∧
    (∀ l, s.me.loops = [l] → l.last = s.pc → s.me.loopPending = false → NoReconvergence s (s.pc + 4#64) →
      (l.kind = .counted → s.me.lc l.lc = 1#64 →
        s.advance.pc = s.pc + 4#64 ∧ s.advance.me.lc l.lc = 0#64 ∧ s.advance.me.loops = []) ∧
      (∀ r, l.kind = .conditional r → s.sreg r = 0#64 →
        s.advance.pc = s.pc + 4#64 ∧ s.advance.me.lc l.lc = s.me.lc l.lc + 1#64 ∧ s.advance.me.loops = []))) ∧
  (∀ s : State,
    OnlyStream s s.advance ∧ SameMemory s s.advance ∧ (∀ n : SReg, s.advance.sreg n = s.sreg n) ∧
    SameControls s.me s.advance.me ∧ s.advance.me.vregs = s.me.vregs ∧ s.advance.me.qstat = s.me.qstat ∧
    s.advance.me.srgen = s.me.srgen ∧ s.advance.me.spilled = s.me.spilled ∧ s.advance.me.bracket = s.me.bracket ∧
    (∀ n, (∀ l ∈ s.me.loops, l.last = s.pc → l.lc ≠ n) → s.advance.me.lc n = s.me.lc n) ∧
    ((∀ l ∈ s.me.loops, l.last = s.pc → ∀ x y, l.kind ≠ .pipelined x y) → SameVectors s.me s.advance.me))

/-- Every scalar form with a destination (R293 to R296), with the destination. -/
def scalarForms (d a b : SReg) (j : BitVec 13) (k : BitVec 6) (u : BitVec 19) (h : BitVec 3) : List Instr :=
  [.add d a b, .sub d a b, .mul d a b, .mulhs d a b, .mulhu d a b, .divs d a b, .divu d a b, .rems d a b, .remu d a b,
    .and d a b, .or d a b, .xor d a b, .andn d a b, .shl d a b, .shr d a b, .sar d a b, .rol d a b, .min d a b,
    .max d a b, .minu d a b, .maxu d a b, .seq d a b, .sne d a b, .slt d a b, .sltu d a b, .sel d a b, .clz d a,
    .ctz d a, .popc d a, .brev d a, .addi d a j, .andi d a j, .ori d a j, .xori d a j, .shli d a k, .shri d a k,
    .sari d a k, .slti d a j, .sltui d a j, .muli d a j, .ahi d u, .lea d a b h, .step2 d a b, .wrap d a b]

/-- The frame of the scalar forms (R292): sD alone is written, and not even that where D names s0; memory, the control and
vector registers and everything outside the stream stay. The loop registers and the program counter go on as in
CompletionFrame. -/
def Obligations.ScalarFrame : Prop :=
  ∀ (s t : State) (d a b : SReg) (j : BitVec 13) (k : BitVec 6) (u : BitVec 19) (h : BitVec 3),
    ∀ i ∈ scalarForms d a b j k u h, exec i s = .next t →
      OnlyStream s t ∧ SameMemory s t ∧ SameScalarsBut s t d ∧ t.sreg 0#6 = 0#64 ∧ SameControls s.me t.me ∧
      t.me.vregs = s.me.vregs ∧ t.me.qstat = s.me.qstat ∧ t.me.srgen = s.me.srgen ∧
      ((∀ l ∈ s.me.loops, l.last = s.pc → ∀ x y, l.kind ≠ .pipelined x y) → SameVectors s.me t.me) ∧
      (d = 0#6 → t = s.advance)

/-! ### Control flow -/

/-- The conditions of BC on A as a signed number (R297). -/
def bcCondition (c : BitVec 4) (x : Int) : Prop :=
  (c = 0#4 ∧ x = 0) ∨ (c = 1#4 ∧ x ≠ 0) ∨ (c = 2#4 ∧ x < 0) ∨ (c = 3#4 ∧ 0 ≤ x) ∨ (c = 4#4 ∧ x ≤ 0) ∨ (c = 5#4 ∧ 0 < x)

/-- R297: every branch goes where the rule sends it when the target is aligned and in the engine's section, raises
ILLEGAL_INSTRUCTION at itself when it is not, and goes on behind itself when its condition fails. -/
def Obligations.Branches : Prop :=
  ∀ (s : State) (a : SReg) (n : BitVec 6) (o : BitVec 25) (f : BitVec 15) (g : BitVec 9) (c : BitVec 4),
    let there := s.pc + 4#64 * o.signExtend 64
    let near := s.pc + 4#64 * f.signExtend 64
    let next := s.pc + 4#64 * g.signExtend 64
    (s.targetOk there = true →
      Completes s (.b o) (s.goto there) ∧ Completes s (.bl o) ((s.setS 63#6 (s.pc + 4#64)).goto there)) ∧
    (s.targetOk there = false → TrapsIllegal s (.b o) ∧ TrapsIllegal s (.bl o)) ∧
    (s.targetOk near = true → bcCondition c (s.sreg a).toInt → Completes s (.bc c a f) (s.goto near)) ∧
    (s.targetOk near = false → bcCondition c (s.sreg a).toInt → TrapsIllegal s (.bc c a f)) ∧
    (c.toNat < 6 → ¬ bcCondition c (s.sreg a).toInt → Completes s (.bc c a f) s.advance) ∧
    (8 ≤ c.toNat → TrapsIllegal s (.bc c a f)) ∧
    (s.targetOk next = true → (s.sreg a).getLsbD n.toNat = true → Completes s (.bcBset a n g) (s.goto next)) ∧
    (s.targetOk next = false → (s.sreg a).getLsbD n.toNat = true → TrapsIllegal s (.bcBset a n g)) ∧
    ((s.sreg a).getLsbD n.toNat = false → Completes s (.bcBset a n g) s.advance) ∧
    (s.targetOk next = true → (s.sreg a).getLsbD n.toNat = false → Completes s (.bcBclr a n g) (s.goto next)) ∧
    (s.targetOk next = false → (s.sreg a).getLsbD n.toNat = false → TrapsIllegal s (.bcBclr a n g)) ∧
    ((s.sreg a).getLsbD n.toNat = true → Completes s (.bcBclr a n g) s.advance) ∧
    (s.targetOk (s.sreg a) = true →
      Completes s (.br a) (s.goto (s.sreg a)) ∧
      Completes s (.blr a) ((s.setS 63#6 (s.pc + 4#64)).goto (s.sreg a))) ∧
    (s.targetOk (s.sreg a) = false → TrapsIllegal s (.br a) ∧ TrapsIllegal s (.blr a)) ∧
    (s.targetOk (s.sreg 63#6) = true → Completes s .ret (s.goto (s.sreg 63#6))) ∧
    (s.targetOk (s.sreg 63#6) = false → TrapsIllegal s .ret) ∧
    (NoReconvergence s there →
      s.goto there = { s with me := { s.me with frag := { s.me.frag with pc := there, wait := .running } } })

/-- The state after a loop instruction has started a slot (R298). -/
def started (s : State) (l : BitVec 2) (counter : Word) (kind : LoopKind) (len : BitVec 12) (st : Stream) : State :=
  { s with me := { st.setLc l.toNat counter with
      loops := ⟨l.toNat, s.pc + 4#64, s.pc + 4#64 * len.zeroExtend 64, kind⟩ ::
        st.loops.filter fun x => x.lc ≠ l.toNat } }

/-- The stage predicates as LOOP.SP leaves them in a vector stream (R301): p8 all ones, p9 to p15 zero, p0 to p7 as they were. -/
def StagesStarted (a b : Stream) : Prop :=
  b.pred 8 = BitVec.allOnes 128 ∧ (∀ k, 9 ≤ k → k ≤ 15 → b.pred k = 0#128) ∧ ∀ k, k < 8 → b.pred k = a.pred k

/-- R298, R299, R300, R301: with no iterations execution goes on behind the body and the slots stay; else the slot starts, with its
start, its end and its counter. LEN = 0, a stage count of 0 or above 8, and a diverged vector stream raise ILLEGAL_INSTRUCTION. In
a vector stream LOOP.SP sets p8 to all ones and p9 to p15 to zeros, also where sN = 0 and the loop is not entered (log entry 196). -/
def Obligations.HardwareLoops : Prop :=
  ∀ (s : State) (l : BitVec 2) (n : SReg) (c : BitVec 11) (st : BitVec 5) (e : BitVec 12),
    let behind := s.pc + 4#64 * e.zeroExtend 64 + 4#64
    (e ≠ 0#12 → (s.me.isVector = false ∨ s.me.whole = true) →
      (s.sreg n ≠ 0#64 → Completes s (.loop l n e) (started s l (s.sreg n) .counted e s.me).advance) ∧
      (s.sreg n = 0#64 → Completes s (.loop l n e) (s.goto behind)) ∧
      (c ≠ 0#11 → Completes s (.loopi l c e) (started s l (c.zeroExtend 64) .counted e s.me).advance) ∧
      (c = 0#11 → Completes s (.loopi l c e) (s.goto behind)) ∧
      Completes s (.loopx l n e) (started s l 0#64 (.conditional n) e s.me).advance ∧
      (1 ≤ st.toNat → st.toNat ≤ 8 → s.sreg n = 0#64 → s.me.isVector = false →
        Completes s (.loopSp l n st e) (s.goto behind)) ∧
      (1 ≤ st.toNat → st.toNat ≤ 8 → s.sreg n = 0#64 → s.me.isVector = true →
        ∃ ps, StagesStarted s.me { s.me with preds := ps } ∧
          Completes s (.loopSp l n st e) (({ s with me := { s.me with preds := ps } } : State).goto behind)) ∧
      (1 ≤ st.toNat → st.toNat ≤ 8 → s.sreg n ≠ 0#64 → s.me.isVector = false →
        Completes s (.loopSp l n st e)
          (started s l (BitVec.ofNat 64 ((s.sreg n).toNat + st.toNat - 1)) (.pipelined (s.sreg n) 0) e s.me).advance) ∧
      (1 ≤ st.toNat → st.toNat ≤ 8 → s.sreg n ≠ 0#64 → s.me.isVector = true →
        ∃ ps, StagesStarted s.me { s.me with preds := ps } ∧
          Completes s (.loopSp l n st e) (started s l (BitVec.ofNat 64 ((s.sreg n).toNat + st.toNat - 1))
            (.pipelined (s.sreg n) 0) e { s.me with preds := ps }).advance)) ∧
    ((e = 0#12 ∨ (s.me.isVector = true ∧ s.me.whole = false)) →
      TrapsIllegal s (.loop l n e) ∧ TrapsIllegal s (.loopi l c e) ∧ TrapsIllegal s (.loopx l n e) ∧
      TrapsIllegal s (.loopSp l n st e)) ∧
    ((st = 0#5 ∨ 8 < st.toNat) → TrapsIllegal s (.loopSp l n st e))

/-- R275, R312: what MFS reads on a job's stream and on a management core, and what MTS writes, field by field. The numbers that the stream
does not hold, those from 21 on, and a write to a register marked RO raise ILLEGAL_INSTRUCTION. A read of DTBNS takes that copy's
fraction into DTBFRAC, and SRGEN never becomes zero. -/
def Obligations.SpecialRegisters : Prop :=
  (∀ (s : State) (d n : SReg),
    (InJob s →
      WritesScalar s (.mfs d 0#6) d (BitVec.ofNat 64 s.myJob.id.job) ∧
      WritesScalar s (.mfs d 1#6) d (BitVec.ofNat 64 (s.myJob.id.acc % 2 ^ 32)) ∧
      WritesScalar s (.mfs d 2#6) d (BitVec.ofNat 64 s.me.id.strm) ∧
      (s.myJob.current = none → WritesScalar s (.mfs d 4#6) d (BitVec.allOnes 64)) ∧
      (∀ c, s.myJob.current = some c → WritesScalar s (.mfs d 4#6) d (BitVec.ofNat 64 c)) ∧
      (s.myJob.current = none → WritesScalar s (.mfs d 5#6) d (BitVec.allOnes 64)) ∧
      (∀ c h, s.myJob.current = some c → (s.myJob.crews.find? fun x => x.crew == c) = some h →
        WritesScalar s (.mfs d 5#6) d (BitVec.ofNat 64 h.rank)) ∧
      WritesScalar s (.mfs d 8#6) d s.myJob.param ∧
      WritesScalar s (.mfs d 9#6) d (BitVec.ofNat 64 ((s.myJob.pword.extractLsb' 16 8).toNat * 65536)) ∧
      WritesScalar s (.mfs d 10#6) d s.myJob.ctxBase ∧
      WritesScalar s (.mfs d 20#6) d (if s.myJob.sup then 1#64 else 0#64)) ∧
    (s.isMgmt = true →
      WritesScalar s (.mfs d 0#6) d 0#64 ∧ WritesScalar s (.mfs d 1#6) d 0#64 ∧ WritesScalar s (.mfs d 2#6) d 0#64 ∧
      WritesScalar s (.mfs d 4#6) d (BitVec.allOnes 64) ∧ WritesScalar s (.mfs d 5#6) d (BitVec.allOnes 64) ∧
      WritesScalar s (.mfs d 8#6) d 0#64 ∧ WritesScalar s (.mfs d 9#6) d 0#64 ∧ WritesScalar s (.mfs d 10#6) d 0#64 ∧
      WritesScalar s (.mfs d 20#6) d 2#64) ∧
    WritesScalar s (.mfs d 3#6) d
      (BitVec.ofNat 64 (coreDie s.core * 2 ^ 9 + coreClu s.core * 2 ^ 5 + corePos s.core)) ∧
    Completes s (.mfs d 6#6)
      ((({ s with me := { s.me with dtbFrac := s.time.frac } }).setS d (s.dtb (coreDie s.core))).advance) ∧
    WritesScalar s (.mfs d 7#6) d (BitVec.ofNat 64 (s.cycleOf s.core)) ∧
    (s.me.isVector = true →
      WritesScalar s (.mfs d 11#6) d (s.me.rrb.zeroExtend 64) ∧ WritesScalar s (.mfs d 12#6) d (s.me.qstat.zeroExtend 64) ∧
      WritesScalar s (.mfs d 13#6) d (s.me.frag.mask.extractLsb' 0 64) ∧
      WritesScalar s (.mfs d 14#6) d (s.me.frag.mask.extractLsb' 64 64) ∧
      WritesScalar s (.mfs d 18#6) d (s.me.srgen.zeroExtend 64)) ∧
    (s.me.isVector = false → n ∈ [11#6, 12#6, 13#6, 14#6, 18#6] → TrapsIllegal s (.mfs d n)) ∧
    WritesScalar s (.mfs d 15#6) d (BitVec.ofNat 64 ((if s.me.arm.te then 2 ^ 13 else 0) + 2 ^ 8 * s.me.arm.ttok.toNat +
      (if s.me.arm.ge then 2 ^ 5 else 0) + s.me.arm.gtok.toNat)) ∧
    WritesScalar s (.mfs d 16#6) d (if s.myJob.rr then 1#64 else 0#64) ∧
    WritesScalar s (.mfs d 17#6) d (s.me.fpctl.zeroExtend 64) ∧
    WritesScalar s (.mfs d 19#6) d (s.me.dtbFrac.zeroExtend 64) ∧
    (21 ≤ n.toNat → TrapsIllegal s (.mfs d n))) ∧
  (∀ (s : State) (n b : SReg),
    (s.me.isVector = true →
      Completes s (.mts 11#6 b) ({ s with me := { s.me with rrb := (s.sreg b).extractLsb' 0 5 } }).advance ∧
      Completes s (.mts 12#6 b) ({ s with me := { s.me with qstat := (s.sreg b).extractLsb' 0 35 } }).advance ∧
      ((s.sreg b).extractLsb' 0 32 ≠ 0#32 →
        Completes s (.mts 18#6 b) ({ s with me := { s.me with srgen := (s.sreg b).extractLsb' 0 32 } }).advance) ∧
      ((s.sreg b).extractLsb' 0 32 = 0#32 →
        Completes s (.mts 18#6 b) ({ s with me := { s.me with srgen := 1#32 } }).advance)) ∧
    (s.me.isVector = false → n ∈ [11#6, 12#6, 18#6] → TrapsIllegal s (.mts n b)) ∧
    Completes s (.mts 15#6 b) ({ s with me := { s.me with
      arm := ⟨(s.sreg b).getLsbD 13, (s.sreg b).extractLsb' 8 3, (s.sreg b).getLsbD 5, (s.sreg b).extractLsb' 0 3, none⟩ } }).advance ∧
    Completes s (.mts 17#6 b) ({ s with me := { s.me with fpctl := (s.sreg b).extractLsb' 0 4 } }).advance ∧
    (InJob s → Completes s (.mts 16#6 b) ({ s with myJob := { s.myJob with rr := (s.sreg b).getLsbD 0 } }).advance) ∧
    (s.isMgmt = true → Completes s (.mts 16#6 b) s.advance) ∧
    ((∃ h ∈ s.myJob.crews, s.sreg b = BitVec.ofNat 64 h.crew) →
      Completes s (.mts 4#6 b) ({ s with myJob := { s.myJob with current := some (s.sreg b).toNat } }).advance) ∧
    ((∀ h ∈ s.myJob.crews, s.sreg b ≠ BitVec.ofNat 64 h.crew) → Completes s (.mts 4#6 b) s.advance) ∧
    (n ∈ [0#6, 1#6, 2#6, 3#6, 5#6, 6#6, 7#6, 8#6, 9#6, 10#6, 13#6, 14#6, 19#6, 20#6] → TrapsIllegal s (.mts n b)) ∧
    (21 ≤ n.toNat → TrapsIllegal s (.mts n b)))

/-! ### The system group, tokens, crews -/

/-- R309, R310, R311, R144, R195, R196, R206: NOP, YIELD, SLEEP, WATCH, SNAP, MEET and EXIT. EXIT of a stream without divided
lanes ends it; a MEET waits until every stream of the job that has not ended stands at one, and then all of them go on. -/
def Obligations.SystemForms : Prop :=
  ∀ (s : State) (d a : SReg),
    Completes s .nop s.advance ∧
    ((s.me.isVector = false ∨ s.myJob.rr = true) → Completes s .yield s.advance) ∧
    (s.me.isVector = true → s.myJob.rr = false →
      ∃ t : State, Completes s .yield t ∧ t.me = { s.advance.me with age := s.ticket + 1 } ∧ t.ticket = s.ticket + 1 ∧
        t.mm = s.mm ∧ t.regs = s.regs ∧ t.jobs = s.jobs ∧ t.myJob = s.myJob) ∧
    (s.me.fired = true →
      Completes s (.sleep d a) (({ s with me := { s.me with fired := false } }).setS d 1#64).advance) ∧
    (s.me.fired = false → s.me.frag.wait = .running → s.sreg a ≠ BitVec.allOnes 64 →
      (s.sreg a).toNat ≤ (s.dtb (coreDie s.core)).toNat → WritesScalar s (.sleep d a) d 0#64) ∧
    (s.me.fired = false → s.me.frag.wait = .running →
      (s.sreg a = BitVec.allOnes 64 ∨ (s.dtb (coreDie s.core)).toNat < (s.sreg a).toNat) →
      Completes s (.sleep d a) { s with me := { s.me with frag := { s.me.frag with wait := .sleep (s.sreg a) d } } }) ∧
    (∀ x u, ({ s with me := { s.me with watch := none } } : State).translate (s.sreg a) 1 .read = (.ok x, u) → x.apt ≤ 1 →
      ∃ t : State, Completes s (.watch a) t.advance ∧ t.me.watch.map (fun w => w.line) = some (x.pa / 128) ∧ t.me.fired = false) ∧
    (1 ≤ s.priv → Completes s .snap (snapTrigger s 0).advance) ∧
    (s.priv = 0 → s.field (snpReg 0x000) 5 5 = 0 → Completes s .snap s.advance) ∧
    (InJob s → (s.me.isVector = false ∨ s.me.undiverged = true) → s.me.bracket = none → s.myTxns = [] →
      Completes s .meet (if (s.waitFor .meet).allMeet s.myJob.id
        then (s.waitFor .meet).mapStreams (fun st => st.ofJob s.myJob.id && !st.ended) Stream.finish else s.waitFor .meet)) ∧
    (InJob s → s.me.bracket = none → s.me.isVector = false → s.me.frags = [] →
      ∃ t : State, Completes s .exit t ∧ t.me.ended = true ∧ t.me.arm = Arm.clear ∧ t.mm = s.mm ∧ t.myJob = s.myJob)

/-- R309, R211, R213: TRAP and BKPT take their exceptions. TRAP puts A into the record; both park after the instruction
(DISP 1) on a job's stream, and the record waits for its partition's fault queue (R170). -/
def Obligations.TrapForms : Prop :=
  ∀ (s : State) (a : SReg),
    Traps s (.trap a) { cause := causeTrap, addr := s.sreg a } ∧ Traps s .bkpt { cause := causeBkpt } ∧
    (InJob s → s.field (snpReg 0x010) 14 14 = 0 → s.me.frag.parked = none →
      ∃ (t : State) (r : PendingRecord), Completes s (.trap a) t ∧
        t.me.frag.parked = some ⟨1, s.time.ns, 0, false, s.ticket⟩ ∧ t.me.frag.pc = s.pc ∧ t.sch.records = s.sch.records ++ [r] ∧ r.record.cause = 14 ∧ r.record.disp = 1 ∧ r.record.addr = s.sreg a ∧
        r.record.pc = s.pc ∧ r.part = s.myJob.id.part ∧ t.agenda = s.agenda ++ [.event .faultRecordPost { a := r.part }])

/-- R302, R303, R231: the token forms on a job's stream. A give below 16 with none waiting, once the stream's earlier accesses have
performed, raises the count by one; one that may not give yet takes its place behind the gives that wait, and waits. A take with a
count and no earlier taker lowers it and acquires (at .dev: the model's reading, log entry 152); PEEK reads it, ZERO clears it, ARM
sets the pending arm. A management core holds no tokens (R316). -/
def Obligations.TokenForms : Prop :=
  ∀ (s : State) (d : SReg) (k : BitVec 3) (e g : BitVec 1) (t : BitVec 3),
    (InJob s → s.myTxns = [] → s.myJob.token k.toNat < 16 → s.myJob.lateGives = [] →
      Completes s (.tokGive k) (s.setJob fun j => j.setToken k.toNat (s.myJob.token k.toNat + 1)).advance) ∧
    (InJob s → s.myTxns = [] → s.mayGive k = false → s.myGive k ∉ s.myJob.lateGives →
      ∃ u : State, Completes s (.tokGive k) u ∧ u.myJob = { s.myJob with lateGives := s.myJob.lateGives ++ [s.myGive k] } ∧
        u.pc = s.pc ∧ u.me.frag.wait = .give k.toNat s.ticket) ∧
    (16 ≤ s.myJob.token k.toNat → s.mayGive k = false) ∧
    (InJob s → s.canTake k = true → s.myJob.lateGives = [] →
      let u := s.setJob fun j => j.setToken k.toNat (s.myJob.token k.toNat - 1)
      Completes s (.tokTake k) (acquireAt u s.core 5).advance) ∧
    (InJob s → s.canTake k = false → s.me.frag.wait = .running →
      ∃ u : State, Completes s (.tokTake k) u ∧ u.myJob = s.myJob ∧ u.pc = s.pc ∧ u.me.frag.wait = .take k.toNat s.ticket) ∧
    (s.myJob.token k.toNat = 0 → s.canTake k = false) ∧
    (InJob s → WritesScalar s (.tokPeek d k) d (BitVec.ofNat 64 (s.myJob.token k.toNat))) ∧
    (InJob s → s.myJob.lateGives = [] →
      Completes s (.tokZero k) (s.setJob fun j => j.setToken k.toNat 0).advance) ∧
    (InJob s → (e = 1#1 ∨ g = 1#1) →
      Completes s (.tokArm e t g k) ({ s with me := { s.me with arm := ⟨e == 1#1, t, g == 1#1, k, none⟩ } }).advance) ∧
    (InJob s → Completes s (.tokArm 0#1 t 0#1 k) ({ s with me := { s.me with arm := Arm.clear } }).advance) ∧
    (s.isMgmt = true →
      TrapsIllegal s (.tokGive k) ∧ TrapsIllegal s (.tokTake k) ∧ TrapsIllegal s (.tokPeek d k) ∧
      TrapsIllegal s (.tokZero k) ∧ TrapsIllegal s (.tokArm e t g k)) ∧
    (s.myJob.setToken k.toNat 5).token k.toNat = 5

/-- The crew table of the issuing job's image is read, which leaves state u: the limit that it gives a crew, none without an entry
(R266, R304). -/
def CrewLimit (s u : State) (crew : Nat) (m : Option Nat) : Prop :=
  ∃ (l : Launch) (bs : List Byte), s.launch s.part s.myJob.id.acc = some l ∧ crew ≤ 255 ∧
    ReadsBytes s 5 (l.kimage + BitVec.ofNat 64 l.header.crewOff) (8 * l.header.ncrew) bs u ∧
    crewLimit l.header.ncrew bs crew = m

/-- R304, R305: the crew forms. JOIN of a crew already held makes it current and returns the rank; JOIN of another takes the
lowest rank below its MAX that no job of the launch holds, sets EXT, and makes it current. It refuses a crew without an entry, a
full crew, and a job that is in four crews, in this order. After LEAVE of the current crew the most recently joined one still held
is current. INFO gives the item that B names. -/
def Obligations.CrewForms : Prop :=
  ∀ (s u : State) (d a b : SReg) (m r : Nat),
    let crew := (s.sreg a).toNat
    (InJob s → s.myJob.rankIn crew = some r →
      Completes s (.crewJoin d a)
        (({ s with myJob := { s.myJob with current := some crew, ext := true } }).setS d (BitVec.ofNat 64 r)).advance) ∧
    (InJob s → s.myJob.rankIn crew = none → CrewLimit s u crew (some m) →
      (r < m → (∀ q < r, q ∈ u.ranksHeld crew) → r ∉ u.ranksHeld crew →
        (u.myJob = s.myJob → s.myJob.crews.length < 4 →
          Completes s (.crewJoin d a)
            (({ u with myJob := { s.myJob with
                crews := ⟨crew, r⟩ :: s.myJob.crews, current := some crew, ext := true } }).setS d (BitVec.ofNat 64 r)).advance) ∧
        (4 ≤ u.myJob.crews.length → Completes s (.crewJoin d a) (u.setS d 0xFFFFFFFFFFFFFFFD#64).advance)) ∧
      ((∀ q < m, q ∈ u.ranksHeld crew) → Completes s (.crewJoin d a) (u.setS d 0xFFFFFFFFFFFFFFFE#64).advance)) ∧
    (InJob s → s.myJob.rankIn crew = none → CrewLimit s u crew none →
      Completes s (.crewJoin d a) (u.setS d 0xFFFFFFFFFFFFFFFF#64).advance) ∧
    (InJob s → s.myJob.rankIn crew = none → 255 < crew →
      WritesScalar s (.crewJoin d a) d 0xFFFFFFFFFFFFFFFF#64) ∧
    (InJob s → s.myJob.rankIn crew = some r →
      ∃ t : State, Completes s (.crewLeave d a) t.advance ∧ t.sreg d = 0#64 ∧ SameScalarsBut s t d ∧
        t.myJob.rankIn crew = none ∧ t.myJob.crews = s.myJob.crews.filter (fun h => h.crew ≠ crew) ∧
        (s.myJob.current ≠ some crew → t.myJob.current = s.myJob.current) ∧
        (s.myJob.current = some crew → t.myJob.current = t.myJob.crews.head?.map fun h => h.crew)) ∧
    (InJob s → s.myJob.rankIn crew = none → WritesScalar s (.crewLeave d a) d 1#64) ∧
    (InJob s → s.sreg b = 0#64 → s.myJob.rankIn crew = some r → WritesScalar s (.crewInfo d a b) d (BitVec.ofNat 64 r)) ∧
    (InJob s → s.sreg b = 0#64 → s.myJob.rankIn crew = none → WritesScalar s (.crewInfo d a b) d (BitVec.allOnes 64)) ∧
    (InJob s → s.sreg b = 1#64 →
      WritesScalar s (.crewInfo d a b) d (BitVec.ofNat 64 (s.ranksHeld crew).length)) ∧
    (InJob s → s.sreg b = 2#64 →
      (CrewLimit s u crew (some m) → Completes s (.crewInfo d a b) (u.setS d (BitVec.ofNat 64 m)).advance) ∧
      (CrewLimit s u crew none → Completes s (.crewInfo d a b) (u.setS d 0#64).advance) ∧
      (255 < crew → WritesScalar s (.crewInfo d a b) d 0#64)) ∧
    (InJob s → s.sreg b = 3#64 →
      ∃ v : Word, WritesScalar s (.crewInfo d a b) d v ∧ ∀ k < 64, v.getLsbD k = decide (k ∈ s.ranksHeld crew)) ∧
    (InJob s → s.sreg b = 4#64 →
      ∃ v : Word, WritesScalar s (.crewInfo d a b) d v ∧ ∀ k < 64, v.getLsbD k = decide (64 + k ∈ s.ranksHeld crew)) ∧
    (InJob s → 5 ≤ (s.sreg b).toNat → WritesScalar s (.crewInfo d a b) d (BitVec.allOnes 64)) ∧
    (s.isMgmt = true → TrapsIllegal s (.crewJoin d a) ∧ TrapsIllegal s (.crewLeave d a) ∧ TrapsIllegal s (.crewInfo d a b))

/-- The circumstances in which a barrier or semaphore form acts on a word of a pool: not by a divided vector stream, the access
in order, the release done (R307, R369). -/
def PoolReady (s u : State) (b : SReg) (a : Word) (n : Nat) (k : AccessKind) (j : JobId) (off : Nat) : Prop :=
  (s.me.isVector = false ∨ s.me.whole = true) ∧
    checkAccess s ⟨s.poolSpace b, k, n, 8, false⟩ [(0, a)] = .ok (u, [(0, .pool j off)])

/-- Every earlier acquire of the stream has taken its value (R221). -/
def ValuesTaken (s : State) : Prop := (s.myTxns.any fun t => t.acq.isSome) = false

/-- R306, R307: BAR.ARR counts one arrival and returns the generation that it found: the word's count rises, or, when it
reaches the expected number, falls to zero and the generation rises. BAR.WAIT and BAR.AW go on when the generation has
changed, and wait while it has not. A divided vector stream may not execute them. -/
def Obligations.BarrierForms : Prop :=
  ∀ (s u : State) (d a b : SReg) (j : JobId) (off : Nat),
    (PoolReady s u b (s.sreg a) 8 .atomic j off → ReleaseReady u 5 → s.me.frag.wait = .running →
      let v := releaseAt u u.core 5
      let w := v.barrierWord j off
      let t := ((v.peerParcel 11 0 j).poolWrite j off (leBytes 8 (arrivedWord w).toNat)).markExt
      Completes s (.barArr d a b) ((t.setS d ((w.extractLsb' 48 16).zeroExtend 64)).advance) ∧
      Completes s (.barAw d a b) (if (t.barrierWord j off).extractLsb' 48 16 = w.extractLsb' 48 16
        then t.waitFor (.barrier (w.extractLsb' 48 16) j)
        else ((acquireAt t t.core 5).setS d (((t.barrierWord j off).extractLsb' 48 16).zeroExtend 64)).advance)) ∧
    (PoolReady s u b (s.sreg a) 8 .read j off → ValuesTaken s →
      ((u.barrierWord j off).extractLsb' 48 16 ≠ (u.sreg d).extractLsb' 0 16 →
        Completes s (.barWait d a b)
          ((acquireAt u u.core 5).setS d (((u.barrierWord j off).extractLsb' 48 16).zeroExtend 64)).advance) ∧
      ((u.barrierWord j off).extractLsb' 48 16 = (u.sreg d).extractLsb' 0 16 →
        Completes s (.barWait d a b) (u.waitFor (.barrier ((u.sreg d).extractLsb' 0 16) j)))) ∧
    (∀ w : BitVec 64,
      ((w.extractLsb' 32 16).toNat ≤ (w.extractLsb' 0 32).toNat + 1 →
        (arrivedWord w).extractLsb' 0 32 = 0#32 ∧ (arrivedWord w).extractLsb' 48 16 = w.extractLsb' 48 16 + 1#16) ∧
      ((w.extractLsb' 0 32).toNat + 1 < (w.extractLsb' 32 16).toNat →
        (arrivedWord w).extractLsb' 0 32 = w.extractLsb' 0 32 + 1#32 ∧
        (arrivedWord w).extractLsb' 48 16 = w.extractLsb' 48 16) ∧
      (arrivedWord w).extractLsb' 32 16 = w.extractLsb' 32 16) ∧
    (s.me.isVector = true → s.me.whole = false →
      TrapsIllegal s (.barArr d a b) ∧ TrapsIllegal s (.barWait d a b) ∧ TrapsIllegal s (.barAw d a b))

/-- R369, R370: SEM.ADD adds sD[31:0], saturating; SEM.WAIT takes max(sD[31:0], 1) once the count suffices and no earlier wait
on it stands, and returns what is left; SEM.ADD.RING does as SEM.ADD on the named job's pool. -/
def Obligations.SemaphoreForms : Prop :=
  ∀ (s u : State) (d a b : SReg) (j : JobId) (off : Nat) (l : Launch) (x : Job),
    (PoolReady s u b (s.sreg a) 4 .atomic j off → ReleaseReady u (if b = 0#6 then 1 else 5) →
      let v := releaseAt u u.core (if b = 0#6 then 1 else 5)
      Completes s (.semAdd d a b) (((v.peerParcel 11 0 j).poolWrite j off
        (leBytes 4 (min (v.poolNat j off 4 + bitsOf (v.sreg d) 31 0) (2 ^ 32 - 1)))).markExt).advance) ∧
    (PoolReady s u 0#6 (s.sreg a) 4 .atomic j off → ValuesTaken s → u.behind (semTicket off) = false →
      max (bitsOf (u.sreg d) 31 0) 1 ≤ u.poolNat j off 4 →
      let left := u.poolNat j off 4 - max (bitsOf (u.sreg d) 31 0) 1
      let t := u.poolWrite j off (leBytes 4 left)
      Completes s (.semWait d a) ((acquireAt t t.core 5).setS d (BitVec.ofNat 64 left)).advance) ∧
    (InJob s → (s.me.isVector = false ∨ s.me.whole = true) →
      namedJob s s.part (bitsOf (s.sreg a) 63 32) (bitsOf (s.sreg a) 31 0) = some (l, j, some x) →
      (s.sreg b).toNat % 8 = 0 → (s.sreg b).toNat + 4 ≤ l.grant → x.away = false → ReleaseReady s 5 →
      let v := releaseAt s s.core 5
      let at_ := (s.sreg b).toNat
      Completes s (.semAddRing d a b) (((v.peerParcel 11 0 j).poolWrite j at_
        (leBytes 4 (min (v.poolNat j at_ 4 + bitsOf (v.sreg d) 31 0) (2 ^ 32 - 1)))).markExt).advance) ∧
    (s.me.isVector = true → s.me.whole = false → TrapsIllegal s (.semAdd d a b) ∧ TrapsIllegal s (.semWait d a))

/-! ### Service, launches, links -/

/-- R313, R314, R315, R435: RESUME lets the parked fragment of a job's stream go on, KILL stops its job and queues a record of
cause 0, and status 0 is returned; user code may use neither, nor TLBI. TLBI tells the structures that it names and waits
for them; once none has yet to answer it goes on. -/
def Obligations.ServiceForms : Prop :=
  ∀ (s u : State) (d a b : SReg) (bs : List Byte) (l : Launch) (id : JobId) (j : Job) (f no : Nat)
    (st : Stream),
    (s.priv ≠ 0 → (s.sreg a).toNat % 128 = 0 → ReadsBytes s 5 (s.sreg a) 128 bs u →
      (s.isMgmt = true ∨ recordPart u (parseNamed bs) = u.part) → u.isMgmt = s.isMgmt →
      mgmtOf (parseNamed bs).coreid = none → ReleaseReady u 5 →
      let v := releaseAt u u.core 5
      let r := parseNamed bs
      (r.disp ≤ 1 → namedJob v (recordPart v r) r.launch r.job = some (l, id, some j) →
        v.stream ⟨.job j.id, r.strm⟩ = some st → st.parkedUnder r = some (f, no) → j.state = .resident →
        Completes s (.resume d a) ((v.resumeFrag ⟨.job j.id, r.strm⟩ f no).setS d 0#64).advance) ∧
      (namedJob v (recordPart v r) r.launch r.job = some (l, id, some j) → j.hardStop = false → j.killWanted = false →
        j.state ≠ .suspended → (postKill (stopJob v id) j).me.ofJob id = false →
        Completes s (.kill d a) ((postKill (stopJob v id) j).setS d 0#64).advance)) ∧
    (s.priv = 0 → TrapsIllegal s (.resume d a) ∧ TrapsIllegal s (.kill d a) ∧ TrapsIllegal s (.tlbi d a b)) ∧
    (InJob s → s.priv ≠ 0 → tlbiReserved (s.sreg d) = false → 1 ≤ tlbiScope (s.sreg d) → tlbiScope (s.sreg d) ≤ 5 →
      (s.sreg a).toNat < 2 ^ 57 → s.sreg b = 0#64 →
      let ps := s.tlbiPlaces s.core s.part (tlbiScope (s.sreg d)) s.ownerWord
      (s.me.frag.wait = .running → ∃ t : State, Completes s (.tlbi d a b) t ∧ t.pc = s.pc ∧ t.me.frag.wait = .shootdown s.ticket ∧
        t.mm.tlbi = s.mm.tlbi ++ ps.map fun p => (p, s.part, tlbiCtx (s.sreg d), 0, 2 ^ 57)) ∧
      (∀ n, s.me.frag.wait = .shootdown n → (∀ t ∈ s.mm.tlbi, t.2 ≠ (s.part, tlbiCtx (s.sreg d), 0, 2 ^ 57)) →
        Completes s (.tlbi d a b) (releaseParked s s.part (tlbiCtx (s.sreg d)) 0 (2 ^ 57) ps).advance))

/-- R127, R147, R374, R375, R188 to R190: a LAUNCH whose packet and image pass every check enters its queue with the next
acceptance number and returns 0; the first check that fails gives its status, 1 to 8, and a refused packet changes nothing but sD
beside what reading it has left. WQRY sends its query to the Chute, as a packet where that stands at another stop; a management
core, which has no pool, may not. GOVQ.OPEN opens a frame, MARK notes the time, NEXT answers. -/
def Obligations.LaunchForms : Prop :=
  ∀ (s u v : State) (d a b : SReg) (k : BitVec 3) (p h : List Byte) (part : Nat),
    ((s.isMgmt = true ∨ b = 0#6) → (s.sreg a).toNat % 128 = 0 → ReadsBytes s 5 (s.sreg a) 128 p u →
      part = (if u.isMgmt then bitsOf (u.sreg b) 1 0 else u.part) →
      (packetFormOk p = false → Completes s (.launch d a b) (u.setS d 1#64).advance) ∧
      (let l := parsePacket part p
       let full := { l with header := parseHeader h, pword := if l.pword = 0#32 then headerPword h else l.pword }
       let image := readVia u { l.via with strm := u.me.id, op := u.fragOp } l.kimage 256
       let task := recNat p 0x48 8
       let cellsBad := l.hasCells && (l.cells.1 = 0 || 0xFFFFFFFE < l.cells.1 || l.cells.2.1 = 0 || 0xFFFFFFFE < l.cells.2.1 ||
         l.cells.2.2 = 0 || 0xFFFFFFFE < l.cells.2.2)
       packetFormOk p = true →
       (packetQueueOk u part l = false → Completes s (.launch d a b) (u.setS d 2#64).advance) ∧
       (packetQueueOk u part l = true → (l.jobs = 0 ∨ 2 ^ 24 < l.jobs) →
         Completes s (.launch d a b) (u.setS d 3#64).advance) ∧
       (packetQueueOk u part l = true → 1 ≤ l.jobs → l.jobs ≤ 2 ^ 24 →
         (l.kimage.toNat % 256 ≠ 0 → Completes s (.launch d a b) (u.setS d 4#64).advance) ∧
         (l.kimage.toNat % 256 = 0 →
           (∀ c x y, image = (.fault c x y, v) → Completes s (.launch d a b) (v.setS d 4#64).advance) ∧
           (image = (.ok h, v) →
             (headerOk h l.guide = false → Completes s (.launch d a b) (v.setS d 4#64).advance) ∧
             (headerOk h l.guide = true →
               (poolSize l.guide < granules full.pword full.header.nvec → Completes s (.launch d a b) (v.setS d 5#64).advance) ∧
               (granules full.pword full.header.nvec ≤ poolSize l.guide →
                 (0 < task → task % 64 ≠ 0 → Completes s (.launch d a b) (v.setS d 6#64).advance) ∧
                 (task = 0 → cellsBad = true → Completes s (.launch d a b) (v.setS d 7#64).advance) ∧
                 (task = 0 → cellsBad = false → queueOpen v part l.queue = false →
                   Completes s (.launch d a b) (v.setS d 8#64).advance) ∧
                 (task = 0 → cellsBad = false → queueOpen v part l.queue = true → ReleaseReady v 5 →
                   ∃ (t : State) (acc : Nat) (o r : Bool), Completes s (.launch d a b) t.advance ∧ t.sreg d = 0#64 ∧
                     acc = (v.sched part).nextAcc ∧ (t.sched part).nextAcc = acc + 1 ∧
                     t.sch.launches = (releaseAt v v.core 5).sch.launches ++
                       [{ full with acc := acc, overflowed := o, released := r }] ∧
                     t.sys.launched = true)))))))) ∧
    (s.isMgmt = false → b ≠ 0#6 → TrapsIllegal s (.launch d a b)) ∧
    (checkAccess s ⟨.scratch, .write, 16, 16, false⟩ [(0, s.sreg a)] = .ok (u, [(0, .pool s.myJob.id (s.sreg a).toNat)]) →
      u.myJob.queries < 16 →
      Completes s (.wqry a k) ((u.setJob fun j => { j with queries := j.queries + 1 }).sendControl (coreStop u.core)
        (u.controlStop u.part u.part) .chuteQuery
        { job := u.myJob.id, a := (u.sreg a).toNat, b := k.toNat, c := 1 }).advance) ∧
    (s.isMgmt = true → Traps s (.wqry a k) (accessFault ⟨.scratch, .write, 16, 16, false⟩ causePermission (s.sreg a))) ∧
    (part = (if s.isMgmt then s.ownerOf (bitsOf (s.sreg b) 1 0) else s.part) → (s.isMgmt = true ∨ b = 0#6) →
      Completes s (.govqMark b) (markFrame s part).advance ∧
      Completes s (.govqNext d a b)
        (((nextStep s part (s.sreg a).toNat).2.setS d (nextStep s part (s.sreg a).toNat).1).advance) ∧
      ((s.sreg a).toNat % 64 = 0 → ReadsBytes s 5 (s.sreg a) 64 p u → (u.governor part).opened = false → frameOk p = true →
        Completes s (.govqOpen d a b) ((openFrame u part u.opener p).setS d 0#64).advance)) ∧
    (s.isMgmt = false → b ≠ 0#6 →
      TrapsIllegal s (.govqMark b) ∧ TrapsIllegal s (.govqNext d a b) ∧ TrapsIllegal s (.govqOpen d a b))

/-- R371, R372, R373: binding an inbound and an outbound port, unbinding, the counts of QBIND.Q, and one whole register sent as
four entries or received from four. A port whose sender has ended the link goes with its last whole register, and its save area then
reads zeros. -/
def Obligations.LinkForms : Prop :=
  ∀ (s : State) (d a b : SReg) (q : BitVec 2) (v : VNum) (j : Job) (i : InPort) (o : OutPort),
    let w := s.sreg a
    let port := bitsOf w 1 0
    (s.myJob.inPort port = none → bitsOf w 7 2 = 0 → bitsOf w 31 14 = 0 → bitsOf w 13 8 % 4 = 0 → 4 ≤ bitsOf w 13 8 →
      bitsOf w 13 8 ≤ 32 → bitsOf w 63 32 % 128 = 0 → bitsOf w 63 32 + 128 * bitsOf w 13 8 ≤ s.myJob.grant →
      ∃ t : State, Completes s (.qbindIn d a) t.advance ∧ t.sreg d = 0#64 ∧
        t.myJob.inPorts = ⟨port, bitsOf w 13 8, bitsOf w 63 32, none, 0, false, []⟩ :: s.myJob.inPorts) ∧
    (s.myJob.outPort port = none → s.peer (s.sreg b).toNat = some j → bitsOf w 7 2 = 0 → bitsOf w 63 10 = 0 →
      j.inPort (bitsOf w 9 8) = some i → i.ended = false → i.sender = none →
      ∃ t : State, Completes s (.qbindOut d a b) t.advance ∧ t.sreg d = 0#64 ∧
        t.myJob.outPorts = ⟨port, j.id, bitsOf w 9 8, i.depth, s.ticket⟩ :: s.myJob.outPorts) ∧
    (s.myJob.outPort port = some o → WritesScalar s (.qbindOut d a b) d 1#64) ∧
    (w.getLsbD 2 = false → s.myJob.outPort port = some o →
      Completes s (.qbindUn d a) ((unbindOut s s.myJob.id port).setS d 0#64).advance ∧
      WritesScalar s (.qbindQ d a) d (BitVec.ofNat 64 o.credits)) ∧
    (w.getLsbD 2 = false → s.myJob.outPort port = none →
      WritesScalar s (.qbindUn d a) d 1#64 ∧ WritesScalar s (.qbindQ d a) d (BitVec.allOnes 64)) ∧
    (s.me.whole = true → s.myJob.outPort q.toNat = some o → s.job o.peer = some j → j.away = false → 4 ≤ o.credits →
      ∃ t : State, Completes s (.qsend q v) t.advance ∧ t.myJob.ext = true ∧
        t.myJob.outPorts = s.myJob.outPorts.map fun x => if x.port = o.port then { x with credits := x.credits - 4 } else x) ∧
    (s.me.whole = true → s.myJob.inPort q.toNat = some i → 4 ≤ i.entries.length →
      let rest := s.myJob.inPorts.map fun x => if x.port = i.port then { x with entries := x.entries.drop 4 } else x
      ∃ t : State, Completes s (.qrecv v q) t.advance ∧ t.vreg v = joinEntries (i.entries.take 4) ∧
        ((i.ended = false ∨ 8 ≤ i.entries.length) → t.myJob.inPorts = rest) ∧
        (s.myJob.state ≠ .done → i.ended = true → i.entries.length < 8 → s.linkInFlight s.myJob.id i.port i.link = false →
          t.myJob.inPorts = rest.filter (fun x => x.port ≠ i.port) ∧
          ∀ k < 128 * i.depth, cellGet t.myJob.scratch (i.save + k) = 0#8)) ∧
    (s.me.whole = false → TrapsIllegal s (.qsend q v) ∧ TrapsIllegal s (.qrecv v q))

/-! ### Scalar loads and stores -/

/-- An access of one address that passes the checks of R356 in state s, reaches one place and leaves state u, with no arm
pending (R303). -/
def Single (s u : State) (q : Req) (a : Word) (p : Spot) : Prop :=
  NoArm s ∧ NoArm u ∧ Reaches s q [(0, a)] u [(0, p)]

/-- The state after a load of n bytes from a place at a scope. -/
def loaded (u : State) (d : SReg) (scope n : Nat) (p : Spot) (acq sx : Bool) : State :=
  let r := loadSpot u scope p n
  ((r.2.acquired acq scope).setS d (extendBytes r.1 sx)).advance

/-- R244, R359, R360, R362: LD and LDX put the bytes of their place, extended as X says, into sD; an access whose address is no
multiple of its size raises ALIGNMENT; a load from another module waits for its reply with sD pending (R205). The bytes of a
scratchpad, of a place that is performed at its slice and of host memory are those that stand there, but for a byte of
which the core's buffer or its cluster cache holds a newer one (R218; the model's reading, log entry 36). -/
def Obligations.ScalarLoads : Prop :=
  ∀ (s u : State) (d a b : SReg) (j : BitVec 6) (z : BitVec 2) (x o : BitVec 1) (c : BitVec 3) (p : Spot),
    let n := sizeOf_ z
    let g := globalReq .read n
    let va := s.offsetAddr a j z
    (Single s u g va p → Readable u c.toNat n p →
      Completes s (.ld d a j z x o c) (loaded u d c.toNat n p (o = 1#1) (x = 1#1))) ∧
    (Single s u (poolReq .scratch .read n) (s.sreg a) p → Readable u 1 n p →
      Completes s (.ldx d a z x o) (loaded u d 1 n p (o = 1#1) (x = 1#1))) ∧
    (Single s u (poolReq (.peer (s.sreg b).toNat) .read n) (s.sreg a) p → Readable u 5 n p →
      Completes s (.ldxPeer d a b z x o) (loaded u d 5 n p (o = 1#1) (x = 1#1))) ∧
    (∀ id off k, loadSpot u k (.pool id off) n = (u.poolRead id off n, u.peerParcel 0 0 id)) ∧
    (∀ pa k m, inRegs pa = false → (∀ i < n, cachedByte u u.core 5 (pa + i) = none) →
      (loadSpot u k (.mem ⟨1, pa, m, 0⟩) n).1 = cellsGet u.mm.mem pa n) ∧
    (∀ pa k m, (∀ i < n, cachedByte u u.core 5 (hostLoc + pa + i) = none) →
      (loadSpot u k (.mem ⟨3, pa, m, 0⟩) n).1 = cellsGet u.mm.hostMem pa n) ∧
    (∀ pa k m i v, inRegs pa = false → i < n → cachedByte u u.core 5 (pa + i) = some v →
      (loadSpot u k (.mem ⟨1, pa, m, 0⟩) n).1[i]? = some v) ∧
    (∀ pa m k, Single s u g va (.mem ⟨4, pa, m, k⟩) →
      ∃ t : State, Completes s (.ld d a j z x o c) t ∧ (∀ r : SReg, t.sreg r = u.sreg r) ∧
        (d ≠ 0#6 → .s d.toNat ∈ t.me.pending) ∧ u.ticket ∈ t.me.flights) ∧
    (NoArm s → s.mustWait [(0, va)] = false → va.toNat % n ≠ 0 →
      Traps s (.ld d a j z x o c) (accessFault g causeAlignment va)) ∧
    (x = 0#1 → n = 4 → ∀ bs : List Byte, bs.length = 4 → (extendBytes bs false).toNat = leNat bs) ∧
    (∀ v : BitVec 32, extendBytes (leBytes 4 v.toNat) true = v.signExtend 64)

/-- What a load leaves alone when its place is no register of the part (R359, R362): both memories, and every scalar register
but sD; a load that acquires only drops clean copies. -/
def Obligations.LoadFrame : Prop :=
  ∀ (s u t : State) (d a b : SReg) (j : BitVec 6) (z : BitVec 2) (x o : BitVec 1) (c : BitVec 3) (p : Spot),
    let n := sizeOf_ z
    (∀ q, p = .mem q → q.isReg = false) → p.remote = false →
    ((Single s u (globalReq .read n) (s.offsetAddr a j z) p ∧ Readable u c.toNat n p ∧
        exec (.ld d a j z x o c) s = .next t) ∨
      (Single s u (poolReq .scratch .read n) (s.sreg a) p ∧ exec (.ldx d a z x o) s = .next t) ∨
      (Single s u (poolReq (.peer (s.sreg b).toNat) .read n) (s.sreg a) p ∧ exec (.ldxPeer d a b z x o) s = .next t)) →
    SameMemory u t ∧ SameScalarsBut u t d ∧ t.mm.wcb = u.mm.wcb ∧ t.mm.cluDirty = u.mm.cluDirty ∧
      t.jobs = u.jobs ∧ t.myJob = u.myJob ∧ t.streams = u.streams ∧ SameControls u.me t.me ∧ t.me.vregs = u.me.vregs ∧
      (s.isMgmt = true → u = s)

/-- The state after a store of the low bytes of v to a place, after the release that it may carry. -/
def stored (u : State) (scope n : Nat) (p : Spot) (v : Word) : State :=
  (storeSpot u scope p (leBytes n v.toNat)).advance

/-- R244, R359, R360, R362: ST and STX write the low bytes of sD to their place, after their release half (R220). -/
def Obligations.ScalarStores : Prop :=
  ∀ (s u : State) (d a b : SReg) (j : BitVec 6) (z : BitVec 2) (o : BitVec 1) (c : BitVec 3) (p : Spot),
    let n := sizeOf_ z
    let g := globalReq .write n
    let va := s.offsetAddr a j z
    (Single s u g va p → Writable u c.toNat n p →
      (o = 0#1 → Completes s (.st d a j z o c) (stored u c.toNat n p (s.sreg d))) ∧
      (o = 1#1 → ReleaseReady u c.toNat →
        Completes s (.st d a j z o c) (stored (releaseAt u u.core c.toNat) c.toNat n p (s.sreg d)))) ∧
    (Single s u (poolReq .scratch .write n) (s.sreg a) p → Writable u 1 n p →
      (o = 0#1 → Completes s (.stx d a z o) (stored u 1 n p (s.sreg d))) ∧
      (o = 1#1 → ReleaseReady u 1 → Completes s (.stx d a z o) (stored u 1 n p (s.sreg d)))) ∧
    (Single s u (poolReq (.peer (s.sreg b).toNat) .write n) (s.sreg a) p → Writable u 5 n p →
      (o = 0#1 → Completes s (.stxPeer d a b z o) (stored u 5 n p (s.sreg d))) ∧
      (o = 1#1 → ReleaseReady u 5 →
        Completes s (.stxPeer d a b z o) (stored (releaseAt u u.core 5) 5 n p (s.sreg d)))) ∧
    (NoArm s → s.mustWait [(0, va)] = false → va.toNat % n ≠ 0 →
      Traps s (.st d a j z o c) (accessFault g causeAlignment va)) ∧
    (∀ id off v k, (stored u k n (.pool id off) v).poolRead id off n = leBytes n v.toNat ∨ u.job id = none)

/-- The lanes of an access reach these places, all of which answer at once; no arm is pending. -/
def Lanes (s u : State) (q : Req) (scope : Nat) (load : Bool) (lanes : List (Nat × Word)) (ps : List (Nat × Spot)) : Prop :=
  NoArm s ∧ NoArm u ∧ Reaches s q lanes u ps ∧
    (∀ p ∈ ps, spotHeld u scope load p.2 4 = false ∧ p.2.remote = false ∧
      (load = true → spotPoisoned u scope p.2 4 = false))

/-- The vector stores and scatters without release, with the addresses of their lanes (R361). -/
def vectorStores (s : State) (d e : VNum) (b : SReg) (a : BitVec 3) (p : BitVec 4) (sp : BitVec 2) (c : BitVec 3) :
    List (List (Nat × Word) × Instr) :=
  [(s.unitLanes b a sp (s.active p), .vst d b a p sp 0#1 c), (s.stridedLanes b a sp (s.active p), .vsts d b a p sp 0#1 c),
    (s.indexedLanes e a sp (s.active p), .vscat d e a p sp 0#1 c)]

/-- A byte of device memory, of host memory or of a pool that no lane's four bytes cover reads as before. -/
def OnlyLanes (u t : State) (ps : List (Nat × Spot)) : Prop :=
  (∀ x, (∀ p ∈ ps, ∀ y, p.2 = .mem y → x < y.loc ∨ y.loc + 4 ≤ x) → cellGet t.mm.mem x = cellGet u.mm.mem x) ∧
    (∀ x, (∀ p ∈ ps, ∀ y, p.2 = .mem y → hostLoc + x < y.loc ∨ y.loc + 4 ≤ hostLoc + x) →
      cellGet t.mm.hostMem x = cellGet u.mm.hostMem x) ∧
    (∀ k x, (∀ p ∈ ps, ∀ off, p.2 = .pool k off → x < off ∨ off + 4 ≤ x) → t.poolRead k x 1 = u.poolRead k x 1)

/-- What a store without release leaves alone (R359, R361, R362): every register but those of the part that it names; in a pool and
at the slices only the n bytes from its own address change, of a vector store the four bytes of each lane; a buffered store changes
no byte of memory, and joins the write-combining buffer behind what stands there (R215). -/
def Obligations.StoreFrame : Prop :=
  (∀ (s u t : State) (d e : VNum) (b : SReg) (a : BitVec 3) (p : BitVec 4) (sp : BitVec 2) (c : BitVec 3) (ps : List (Nat × Spot)),
    ∀ x ∈ vectorStores s d e b a p sp c,
      Lanes s u ⟨s.vectorSpace a sp, .write, 4, 4, false⟩ c.toNat false x.1 ps →
      (∀ y ∈ ps, ∀ q, y.2 = .mem q → q.isReg = false) → exec x.2 s = .next t →
      (∀ r : SReg, t.sreg r = u.sreg r) ∧ t.me.vregs = u.me.vregs ∧ t.me.fpctl = u.me.fpctl ∧ t.me.arm = u.me.arm ∧
        t.me.qstat = u.me.qstat ∧ t.me.srgen = u.me.srgen ∧ OnlyLanes u t ps ∧ (s.isMgmt = true → u = s)) ∧
  ∀ (s u t : State) (d a b : SReg) (j : BitVec 6) (z : BitVec 2) (c : BitVec 3) (p : Spot),
    let n := sizeOf_ z
    (Single s u (globalReq .write n) (s.offsetAddr a j z) p ∧ Writable u c.toNat n p ∧
        exec (.st d a j z 0#1 c) s = .next t) ∨
      (Single s u (poolReq .scratch .write n) (s.sreg a) p ∧ exec (.stx d a z 0#1) s = .next t) ∨
      (Single s u (poolReq (.peer (s.sreg b).toNat) .write n) (s.sreg a) p ∧ exec (.stxPeer d a b z 0#1) s = .next t) →
    (∀ r : SReg, t.sreg r = u.sreg r) ∧ t.me.vregs = u.me.vregs ∧ t.me.fpctl = u.me.fpctl ∧ t.me.arm = u.me.arm ∧
    (∀ pa m, p = .mem ⟨1, pa, m, 0⟩ → inRegs pa = false →
      (∀ x, x < pa ∨ pa + n ≤ x → cellGet t.mm.mem x = cellGet u.mm.mem x) ∧
      (∀ x, cellGet t.mm.hostMem x = cellGet u.mm.hostMem x) ∧
      t.mm.wcb = u.mm.wcb.filter (fun w => !(w.core == u.core && pa ≤ w.loc && decide (w.loc < pa + n))) ∧
      (pa % n = 0 → u.poisonedLine (pa / 128) = false → u.uncommittedAt pa = false →
        cellsGet t.mm.mem pa n = leBytes n (s.sreg d).toNat)) ∧
    (∀ pa m, p = .mem ⟨3, pa, m, 0⟩ →
      (∀ x, cellGet t.mm.mem x = cellGet u.mm.mem x) ∧
      (∀ x, x < pa ∨ pa + n ≤ x → cellGet t.mm.hostMem x = cellGet u.mm.hostMem x) ∧
      cellsGet t.mm.hostMem pa n = leBytes n (s.sreg d).toNat) ∧
    (∀ k pa m, p = .mem ⟨k, pa, m, 0⟩ → (k = 0 ∨ k = 2) → (⟨k, pa, m, 0⟩ : Place).isReg = false →
      SameMemory u t ∧ ∃ new : List WcByte, t.mm.wcb = u.mm.wcb ++ new ∧ new.length = n ∧
        ∀ w ∈ new, w.core = u.core ∧ (⟨k, pa, m, 0⟩ : Place).loc ≤ w.loc ∧ w.loc < (⟨k, pa, m, 0⟩ : Place).loc + n) ∧
    (∀ id off, p = .pool id off →
      SameMemory u t ∧ t.mm = u.mm ∧ ∀ k x, x < off ∨ off + n ≤ x → t.poolRead k x 1 = u.poolRead k x 1) ∧
    (s.isMgmt = true → u = s)

/-! ### Atomics, fences, cache operations -/

/-- The scalar atomics with their operation and whether they act on 64 bits (R363). -/
def scalarAtomics (d a b : SReg) (o : BitVec 2) (c : BitVec 3) (n w : BitVec 1) : List (Nat × Bool × Instr) :=
  [(0, w = 1#1, .atomAdd d a b o c n w), (1, w = 1#1, .atomAnd d a b o c n w), (2, w = 1#1, .atomOr d a b o c n w),
    (3, w = 1#1, .atomXor d a b o c n w), (4, w = 1#1, .atomMin d a b o c n w), (5, w = 1#1, .atomMax d a b o c n w),
    (6, w = 1#1, .atomMinu d a b o c n w), (7, w = 1#1, .atomMaxu d a b o c n w), (8, false, .atomFadd d a b o c n),
    (9, w = 1#1, .atomSwap d a b o c n w), (10, w = 1#1, .atomCas d a b o c n w)]

/-- The low bytes that an atomic takes of an operand. -/
def operandOf (w : Bool) (v : Word) : BitVec 64 := if w then v else v &&& 0xFFFFFFFF#64

/-- The registers of a stream stand as they did. -/
def SameRegisters (a b : Stream) : Prop :=
  b.sregs = a.sregs ∧ b.lcs = a.lcs ∧ b.loops = a.loops ∧ b.fpctl = a.fpctl ∧ b.arm = a.arm ∧ SameVectors a b

/-- A byte of device and host memory that lies outside n bytes of a location reads as before. -/
def OnlyLocation (u t : State) (loc n : Nat) : Prop :=
  (∀ x, x < loc ∨ loc + n ≤ x → cellGet t.mm.mem x = cellGet u.mm.mem x) ∧
    (∀ x, hostLoc + x < loc ∨ loc + n ≤ hostLoc + x → cellGet t.mm.hostMem x = cellGet u.mm.hostMem x)

/-- R102, R227, R363: after its release half an atomic has its line cleared above its point. One that performs in the L1, the cluster
cache or at the host leaves the new value there and the old value in sD, after its acquire half; one that performs at a slice
over the loops, or on another module, leaves its core, with sD pending (R205). Performing it touches no register of the stream and no
byte of memory outside its location; one that leaves changes no memory. -/
def Obligations.ScalarAtomics : Prop :=
  ∀ (s u : State) (d a b : SReg) (o : BitVec 2) (c : BitVec 3) (n w : BitVec 1) (x : Place),
    ∀ i ∈ scalarAtomics d a b o c n w,
      let size := if i.2.1 then 8 else 4
      Single s u ⟨.global, .atomic, size, size, false⟩ (s.sreg a) (.mem x) →
      (o.getLsbD 1 = true → ReleaseReady u c.toNat) →
      let v := clearWay (if o.getLsbD 1 then releaseAt u u.core c.toNat else u) x c.toNat
      let cmp := if i.1 = 10 then operandOf i.2.1 (s.sreg d) else 0#64
      wayBlocked v x c.toNat = false →
      (∀ old t, leavesCore x c.toNat = false →
        performHere v x c.toNat i.1 size (operandOf i.2.1 (s.sreg b)) cmp = (some old, t) →
        SameRegisters u.me t.me ∧ OnlyLocation v t x.loc size ∧
        let t := if 3 ≤ c.toNat then t.markExt else t
        Completes s i.2.2 (((t.acquired (o.getLsbD 0) c.toNat).setS d old).advance)) ∧
      (leavesCore x c.toNat = true →
        ∃ t : State, Completes s i.2.2 t ∧ (∀ r : SReg, t.sreg r = u.sreg r) ∧ (d ≠ 0#6 → .s d.toNat ∈ t.me.pending) ∧
          t.mm = v.mm ∧ t.me.vregs = u.me.vregs ∧ t.me.fpctl = u.me.fpctl ∧ t.me.qstat = u.me.qstat ∧ t.me.srgen = u.me.srgen ∧
          v.ticket ∈ t.me.flights ∧ (c.toNat ≥ 3 → u.isMgmt = false → t.myJob.ext = true)) ∧
      (∀ t, performHere v x c.toNat i.1 size (operandOf i.2.1 (s.sreg b)) cmp = (none, t) →
        leavesCore x c.toNat = false →
        Completes s i.2.2 (takeFault t (accessFault ⟨.global, .atomic, size, size, false⟩ causeDataLost (s.sreg a))))

/-- R104, R363: what each operation leaves at its location, at 64 bits and at 32; MIN and MAX are signed, MINU and MAXU are
not; CAS writes only where the old value equals the compare value; SWAP writes its operand. -/
def Obligations.AtomicOperations : Prop :=
  ∀ (x y c : BitVec 64) (p q e : BitVec 32),
    let wide (k : Nat) := aopNew k true x y c
    let half (k : Nat) := aopNew k false (p.zeroExtend 64) (q.zeroExtend 64) (e.zeroExtend 64)
    wide 0 = x + y ∧ wide 1 = x &&& y ∧ wide 2 = x ||| y ∧ wide 3 = x ^^^ y ∧
    (wide 4).toInt = min x.toInt y.toInt ∧ (wide 5).toInt = max x.toInt y.toInt ∧
    (wide 6).toNat = min x.toNat y.toNat ∧ (wide 7).toNat = max x.toNat y.toNat ∧ wide 9 = y ∧
    (x = c → wide 10 = y) ∧ (x ≠ c → wide 10 = x) ∧
    half 0 = (p + q).zeroExtend 64 ∧ half 1 = (p &&& q).zeroExtend 64 ∧ half 2 = (p ||| q).zeroExtend 64 ∧
    half 3 = (p ^^^ q).zeroExtend 64 ∧
    ((half 4).truncate 32).toInt = min p.toInt q.toInt ∧ ((half 5).truncate 32).toInt = max p.toInt q.toInt ∧
    (half 6).toNat = min p.toNat q.toNat ∧ (half 7).toNat = max p.toNat q.toNat ∧ half 9 = q.zeroExtend 64 ∧
    (p = e → half 10 = q.zeroExtend 64) ∧ (p ≠ e → half 10 = p.zeroExtend 64)

/-- R221, R223, R226, R366, R367, R368: the fences, once what they wait for has come. After a release at .die or wider nothing
of the core stands above the slices; after an acquire it holds no clean copy. FENCE.OWN and, where no line may be fetched, PF
only go on. -/
def Obligations.Fences : Prop :=
  ∀ (s u : State) (a b : SReg) (c l : BitVec 3) (w : BitVec 1) (k : BitVec 2) (xs : List Place),
    let scope := c.toNat
    let v := releaseAt s s.core scope
    (ReleaseReady s scope →
      Completes s (.fence c) (acquireAt v v.core scope).advance ∧ Completes s (.fenceRel c) v.advance) ∧
    (s.myTxns ≠ [] → Completes s (.fence c) s.stall ∧ Completes s (.fenceRel c) s.stall) ∧
    ((∀ t ∈ s.myTxns, t.takesValue = false) → Completes s (.fenceAcq c) (acquireAt s s.core scope).advance) ∧
    Completes s (.fenceOwn l) s.advance ∧
    ((s.isMgmt = true ∨ 255 < (s.sreg a).toNat ∨ s.crewCores (s.sreg a).toNat = []) → ReleaseReady s scope →
      Completes s (.fenceRem a c) (acquireAt v v.core scope).advance) ∧
    (∀ n, InJob s → (s.sreg a).toNat ≤ 255 → s.crewCores (s.sreg a).toNat = [n] → s.coreBusy n = false →
      ReleaseReady s scope →
      releasedAt (releaseAt (acquireAt v v.core scope) n scope) n scope = true →
      Completes s (.fenceRem a c) (acquireAt (releaseAt (acquireAt v v.core scope) n scope) n scope).advance) ∧
    (reachLines s (linesOf (s.sreg a).toNat (min (s.sreg b).toNat (2 ^ 24))) = .ok (u, xs) →
      (∀ x ∈ xs, flushHeld (xs.foldl (flushLine scope) u) scope x = false) →
      Completes s (.cflush a b c) (xs.foldl (flushLine scope) u).advance) ∧
    (∃ t : State, Completes s (.pf a b w k) t.advance ∧ (∀ r : SReg, t.sreg r = s.sreg r) ∧ t.mm.wcb = s.mm.wcb ∧
      t.jobs = s.jobs ∧ t.myJob = s.myJob ∧ (s.isMgmt = true → t.mm.cluDirty = s.mm.cluDirty)) ∧
    (2 ≤ k.toNat → s.isMgmt = true → Completes s (.pf a b w k) s.advance) ∧
    (3 ≤ scope → ∀ e ∈ (acquireAt s s.core scope).mm.cluClean, e.1 / cacheStride ≠ coreCluster s.core) ∧
    (2 ≤ scope → ∀ e ∈ (acquireAt s s.core scope).mm.l1Clean, e.1 / cacheStride ≠ s.core) ∧
    SameMemory s (acquireAt s s.core scope) ∧
    (ReleaseReady s scope → 2 ≤ scope → ∀ x ∈ v.mm.wcb, x.core ≠ s.core) ∧
    (ReleaseReady s scope → 3 ≤ scope → ∀ e ∈ v.mm.cluDirty, e.1 / cacheStride ≠ coreCluster s.core)

/-! ### Vector memory -/

/-- R361, R362: VLD, VLDS and VGATH read their active lanes in ascending order into VD and leave its other lanes; VST, VSTS
and VSCAT write theirs in ascending order after their release half. An instruction with no active lane accesses nothing.
A misaligned lane raises ALIGNMENT before any lane is accessed (R356). -/
def Obligations.VectorMemory : Prop :=
  ∀ (s u : State) (d e : VNum) (b : SReg) (a : BitVec 3) (p : BitVec 4) (sp : BitVec 2) (o : BitVec 1) (c : BitVec 3)
    (ps : List (Nat × Spot)),
    let scope := c.toNat
    let rd : Req := ⟨s.vectorSpace a sp, .read, 4, 4, false⟩
    let wr : Req := ⟨s.vectorSpace a sp, .write, 4, 4, false⟩
    let m := s.active p
    let base := s.vectorBase a sp
    let unit := (lanesOf m).map fun l => (l, base + s.sreg b + BitVec.ofNat 64 (4 * l))
    let strided := (lanesOf m).map fun l => (l, base + BitVec.ofNat 64 l * s.sreg b)
    let indexed := (lanesOf m).map fun l => (l, base + (laneOf (s.vreg e) l).zeroExtend 64)
    let got := loadLanes (u.readSpots scope 4 (ps.map fun p => p.2)) scope ps (u.vreg d)
    let done := ((got.2.acquired (o = 1#1) scope).setV d got.1).advance
    let put (v : State) (xs : List (Nat × Word)) :=
      (storeLanes (v.writeSpots 4 (ps.map fun p => p.2)) scope (s.vreg d) v.ticket none (xs.zip ps)).advance
    (Lanes s u rd scope true unit ps → Completes s (.vld d b a p sp o c) done) ∧
    (Lanes s u rd scope true strided ps → Completes s (.vlds d b a p sp o c) done) ∧
    (Lanes s u rd scope true indexed ps → Completes s (.vgath d e a p sp o c) done) ∧
    (Lanes s u wr scope false unit ps →
      (o = 0#1 → Completes s (.vst d b a p sp o c) (put u unit)) ∧
      (o = 1#1 → ReleaseReady u scope → Completes s (.vst d b a p sp o c) (put (releaseAt u u.core scope) unit))) ∧
    (Lanes s u wr scope false strided ps →
      (o = 0#1 → Completes s (.vsts d b a p sp o c) (put u strided)) ∧
      (o = 1#1 → ReleaseReady u scope → Completes s (.vsts d b a p sp o c) (put (releaseAt u u.core scope) strided))) ∧
    (Lanes s u wr scope false indexed ps →
      (o = 0#1 → Completes s (.vscat d e a p sp o c) (put u indexed)) ∧
      (o = 1#1 → ReleaseReady u scope → Completes s (.vscat d e a p sp o c) (put (releaseAt u u.core scope) indexed))) ∧
    (∀ l, l < 128 → (∀ x ∈ ps, x.1 ≠ l ∧ x.1 < 128) → laneOf got.1 l = laneOf (u.vreg d) l) ∧
    (∀ l j off, ps = [(l, .pool j off)] → l < 128 →
      laneOf got.1 l = BitVec.ofNat 32 (leNat (u.poolRead j off 4)) ∧ got.2 = u.peerParcel 0 0 j) ∧
    (m = 0#128 → NoArm s → (∀ t ∈ s.myTxns, t.acq = none) →
      Completes s (.vst d b a p sp 0#1 c) s.advance ∧ Completes s (.vscat d e a p sp 0#1 c) s.advance) ∧
    (sp = 0#2 → NoArm s → s.mustWait unit = false → ∀ l va, unit.find? (fun x => decide (x.2.toNat % 4 ≠ 0)) = some (l, va) →
      Traps s (.vld d b a p sp o c) (accessFault rd causeAlignment va) ∧
      Traps s (.vst d b a p sp o c) (accessFault wr causeAlignment va))

/-- The vector atomics with their operation, their destination, and what gives a lane's operand and compare value (R364): VCAS takes
its operand from the register behind its destination and compares with the destination. -/
def vectorAtomics (s : State) (d e : VNum) (f : BitVec 5) (a : BitVec 3) (op : BitVec 4) (o : BitVec 2) (c : BitVec 3) (n : BitVec 1) :
    List (Nat × VNum × (Nat → BitVec 32) × (Nat → BitVec 32) × Instr) :=
  [(op.toNat, d, fun l => laneOf (s.vreg d) l, fun _ => 0#32, .vatom d e a op o c n),
    (10, pairReg f, fun l => laneOf (s.vregAt (pairReg f) 1) l, fun l => laneOf (s.vreg (pairReg f)) l, .vcas f e a o c n)]

/-- The requests of a vector atomic, as instruction number g, perform where they stand one after another, and find these old values. -/
def PerformAll (scope op g : Nat) : List LaneRequest → List (BitVec 64) → State → State → Prop
  | [], [], v, w => w = v
  | r :: rs, old :: olds, v, w => ∃ u, performHere v r.place scope op 4 r.v r.c = (some old, u) ∧
      PerformAll scope op g rs olds (u.modNet fun n => { n with
        lanesBack := n.lanesBack ++ (laneResults op old r.lanes).map fun y => (g, y.1, some y.2) }) w
  | _, _, _, _ => False

/-- R109, R364, R365: after its release half VATOM sends one request for each distinct address of its active lanes, in ascending order
of its lowest lane, with the fold of its lanes' operands; for SWAP, and so does VCAS, one for each lane, those of one address
together. Each lane receives the value before it in the lane order. Where all perform in the L1, the cluster cache or at the host, VD
holds the old values at once; where some leave, VD is pending until the last reply (R205). VCAS returns its old values in VD too. Where
one meets poison the instruction raises DATA_LOST at its address, and VD is not written (R66). -/
def Obligations.VectorAtomics : Prop :=
  (∀ (s u : State) (d e : VNum) (f : BitVec 5) (a : BitVec 3) (op : BitVec 4) (o : BitVec 2) (c : BitVec 3) (n : BitVec 1)
      (ps : List (Nat × Spot)),
    ∀ i ∈ vectorAtomics s d e f a op o c n,
      let q : Req := ⟨.global, .atomic, 4, 4, false⟩
      let scope := c.toNat
      let lanes := s.indexedLanes e a 0#2 s.mask
      NoArm s → NoArm u → Reaches s q lanes u ps → (o.getLsbD 1 = true → ReleaseReady u scope) →
      let places := (lanes.zip ps).filterMap laneOfSpot
      let v := places.foldl (fun s y => clearWay s y.2.2 scope) (if o.getLsbD 1 then releaseAt u u.core scope else u)
      let v := if 3 ≤ scope then v.markExt else v
      let g := v.ticket
      let vd := s.after i.2.1
      let acq := if o.getLsbD 0 then some scope else none
      let rs := laneRequests 128 i.1 i.2.2.1 i.2.2.2.1 places
      let away := places.any fun y => leavesCore y.2.2 scope
      let sent := issueRequests (if away then v.nextTicket.pend (.v vd.toNat) else v.nextTicket) vd scope i.1 o.toNat (n = 1#1) g none acq rs
      (∀ y ∈ places, wayBlocked v y.2.2 scope = false) → (∀ t ∈ v.net.txns, txnGroup t ≠ some g) →
      (∀ y ∈ v.net.lanesBack, y.1 ≠ g) →
      (sent.1 = none → ∃ t : State, Completes s i.2.2.2.2 t.advance ∧ SameRegisters { u.me with vregs := t.me.vregs } t.me ∧
        (∀ k, k ≠ vd.toNat → t.me.vregAfter k = s.me.vregAfter k) ∧ (away = true → .v vd.toNat ∈ t.me.pending ∧ t.me.vregs = u.me.vregs)) ∧
      (∀ va, sent.1 = some va → ∃ t : State, Completes s i.2.2.2.2 (takeFault t (accessFault q causeDataLost va)) ∧
        t.me.vregs = u.me.vregs) ∧
      ((∀ y ∈ places, y.2.2.apt = 0 → leavesCore y.2.2 scope = true) → sent.1 = none) ∧
      (s.mask = 0#128 → sent.1 = none) ∧
      ((∀ y ∈ places, leavesCore y.2.2 scope = true) → places ≠ [] →
        ∃ (t : State) (txns : List Txn), Completes s i.2.2.2.2 t.advance ∧ t.mm = v.mm ∧ t.net.txns = v.net.txns ++ txns ∧
          txns.map (fun x => (x.strm, x.va, x.kind, x.acq, x.loc)) =
            rs.map (fun r => (u.me.id, r.va, TxnKind.lanes vd r.lanes i.1 g, acq, some r.place.loc)) ∧
          ∀ (k : Nat) (r : LaneRequest) (x : Txn), rs[k]? = some r → txns[k]? = some x → atomicPoint r.place scope = .far →
            ∃ p ∈ t.net.packets, p.cls = 4 ∧ p.txn = x.id ∧ p.pa = r.place.pa ∧ (p.dstDie, p.dstStop) = sliceStop r.place.pa ∧
              p.body = .fetchOp r.v r.c 1 i.1 false o.toNat scope (n = 1#1) false) ∧
      (∀ olds w, (∀ y ∈ places, leavesCore y.2.2 scope = false) → PerformAll scope i.1 g rs olds v.nextTicket w →
        ∃ t : State, Completes s i.2.2.2.2 t.advance ∧ t.mm.mem = w.mm.mem ∧ t.mm.hostMem = w.mm.hostMem ∧ t.mm.wcb = w.mm.wcb ∧
          t.mm.cluDirty = w.mm.cluDirty ∧ OnlyLanes v w ps ∧
          t.me.vregAfter vd.toNat = ((rs.zip olds).flatMap fun y => laneResults i.1 y.2 y.1.lanes).foldl
            (fun z y => setLane z y.1 y.2) (s.me.vregAfter vd.toNat) ∧
          ∀ l < 128, s.mask.getLsbD l = false → laneOf (t.me.vregAfter vd.toNat) l = laneOf (s.me.vregAfter vd.toNat) l)) ∧
  (∀ (op : Nat) (x y : Nat → BitVec 32) (places : List (Nat × Word × Place)), places.length ≤ 128 →
    let rs := laneRequests 128 op x y places
    let vas := (places.map fun z => z.2.1).eraseDups
    let at_ (va : Word) := places.filter fun z => z.2.1 == va
    (∀ r ∈ rs, ∃ z ∈ places, r.place = z.2.2 ∧ r.va = z.2.1 ∧ r.lanes.head?.map (fun l => l.1) = some z.1) ∧
    (op < 9 → rs.map (fun r => (r.va, r.lanes, r.v, r.c)) =
      vas.map fun va => (va, (at_ va).map fun z => (z.1, x z.1), laneFold op ((at_ va).map fun z => x z.1), 0#64)) ∧
    (9 ≤ op → rs.map (fun r => (r.va, r.lanes, r.v, r.c)) =
      vas.flatMap fun va => (at_ va).map fun z => (va, [(z.1, x z.1)], (x z.1).zeroExtend 64, (y z.1).zeroExtend 64))) ∧
  (∀ (op : Nat) (old : BitVec 64) (lanes : List (Nat × BitVec 32)) (k : Nat),
    (laneResults op old lanes)[k]? = lanes[k]?.map fun z =>
      (z.1, ((lanes.take k).foldl (fun p y => aopApply op false p (y.2.zeroExtend 64)) old).truncate 32)) ∧
  (∀ (op : Nat) (z : BitVec 32) (xs : List (BitVec 32)),
    laneFold op (z :: xs) = xs.foldl (fun p y => aopApply op false p (y.zeroExtend 64)) (z.zeroExtend 64))

/-! ### The vector engine -/

/-- R269 to R271, R317, R318, R325: elements, lanes and formats. A register made of elements holds each of them modulo its width; a masked
write replaces the lanes of its mask, and no other lane and no other register changes; a predicate write replaces the bits of
the fragment's lanes, and p0 stays all ones. A pattern that is no NaN decodes to a value that rounds back to it in every mode; a
NaN gives the canonical NaN; an exact zero sum of opposite signs is +0, and -0 toward minus infinity; FTZ gives a zero of the
subnormal's sign. -/
def Obligations.VectorElements : Prop :=
  ((∀ (w : Nat) (f : Nat → Nat), w ∈ [4, 8, 16, 32] → ∀ e < 4096 / w, elemOf (mapElems w f) w e = f e % 2 ^ w) ∧
  (∀ (old new : VReg) (m : LaneMask) (l : Nat), l < 128 →
    laneOf (mergeLanes old new m) l = if m.getLsbD l then laneOf new l else laneOf old l) ∧
  (∀ (s : State) (d n : VNum) (v : VReg) (m : LaneMask),
    (s.setLanes d 0 v m).vreg d = mergeLanes (s.vreg d) v m ∧ (n ≠ d → (s.setLanes d 0 v m).vreg n = s.vreg n) ∧
    (∀ r : SReg, (s.setLanes d 0 v m).sreg r = s.sreg r)) ∧
  (∀ (s : State) (q : BitVec 4) (m : LaneMask) (l : Nat), q ≠ 0#4 → l < 128 →
    ((s.setPredLanes q m).me.pred q.toNat).getLsbD l =
      if s.mask.getLsbD l then m.getLsbD l else (s.me.pred q.toNat).getLsbD l) ∧
  (∀ (s : State) (m : LaneMask), s.setPredLanes 0#4 m = s) ∧
  (∀ (w : Nat) (f : Nat → Bool) (l : Nat), w ∈ [8, 16, 32] → l < 128 →
    (lanesWhere w f).getLsbD l = decide (∀ k < 32 / w, f (32 / w * l + k) = true)) ∧
  (∀ (v : VReg) (l : Nat), l < 128 → (laneOf v l).toNat = elemOf v 32 l)) ∧
  (∀ (f : Format) (r : Rounding) (x : Nat) (y : Machine.Num) (g h : Bool) (m : Nat) (e : Int),
    f ∈ [fp32, fp16, bf16, e4m3, e5m2, e2m3, e3m2, e2m1] →
    (x < 2 ^ f.width → f.decode x ≠ .nan → f.ofNum r (f.decode x) = x) ∧
    (x < 2 ^ f.width → f.spec = .ieee → (f.decode x = .nan ↔
      x / 2 ^ f.frac % 2 ^ f.exp = 2 ^ f.exp - 1 ∧ x % 2 ^ f.frac ≠ 0)) ∧
    f.ofNum r .nan = f.nanCode ∧ Machine.Num.add r.mode .nan y = .nan ∧ Machine.Num.add r.mode y .nan = .nan ∧ Machine.Num.mul .nan y = .nan ∧
    Machine.Num.mul y .nan = .nan ∧ Machine.Num.add r.mode (.inf g) (.inf h) = (if g = h then .inf g else .nan) ∧
    Machine.Num.mul (.inf g) (.fin h 0 e) = .nan ∧ (m ≠ 0 → Machine.Num.mul (.inf g) (.fin h m e) = .inf (g != h)) ∧
    Machine.Num.add r.mode (.fin false m e) (.fin true m e) = .fin (decide (r.mode = 3)) 0 0 ∧
    (f.subnormal x = false → f.flush true x = x) ∧
    (f.subnormal x = true → f.flush true x = if x.testBit (f.frac + f.exp) then 2 ^ (f.exp + f.frac) else 0) ∧
    f.flush false x = x)

/-- The lanes of an elementwise floating-point form (R323), rounded once each with their element's number as E (R276). -/
def floatLanes (s : State) (t : BitVec 3) (op : Nat → Machine.Num) : VReg :=
  let f := floatFormat t.toNat
  mapElems f.width fun e => f.result s.me.ftz (s.rounding s.me.rmode e) (op e)

/-- R276, R323, R324, R326, R327: the floating-point forms on FP32, FP16 and BF16; every other TY raises ILLEGAL_TYPE (R321). The
generator steps once, in stochastic mode alone. FMIN, FMAX and FSGN do not round. -/
def Obligations.VectorFloat : Prop :=
  ∀ (s : State) (d a b : VNum) (p : BitVec 4) (x t : BitVec 3) (o : BitVec 6),
    let f := floatFormat t.toNat
    let mode := s.me.rmode
    let u := s.stepGen mode
    let x_ (e : Nat) := f.read s.me.ftz (elemOf (s.vreg a) f.width e)
    let y_ (e : Nat) := f.read s.me.ftz (elemOf (s.vreg b) f.width e)
    let z_ (e : Nat) := f.read s.me.ftz (elemOf (s.vreg d) f.width e)
    let m := s.active p
    let n := s.active (x.zeroExtend 4)
    let w := f.width
    let gives (i : Instr) (v : VReg) := Completes s i ((u.setLanes d 0 v m).advance)
    (t.toNat < 3 →
      gives (.fadd d a b p t) (floatLanes u t fun e => Machine.Num.add mode (x_ e) (y_ e)) ∧
      gives (.fsub d a b p t) (floatLanes u t fun e => Machine.Num.add mode (x_ e) (y_ e).neg) ∧
      gives (.fmul d a b p t) (floatLanes u t fun e => Machine.Num.mul (x_ e) (y_ e)) ∧
      gives (.ffma d a b p t) (floatLanes u t fun e => Machine.Num.add mode (Machine.Num.mul (x_ e) (y_ e)) (z_ e)) ∧
      gives (.ffms d a b p t) (floatLanes u t fun e => Machine.Num.add mode (z_ e) (Machine.Num.mul (x_ e) (y_ e)).neg) ∧
      (o.toNat < 8 → gives (.funSpecial d a o p t)
        (mapElems w fun e => f.flush s.me.ftz (funOf o.toNat f (u.rounding mode e) (x_ e)))) ∧
      WritesLanes s (.fmin d a b p t) d m (mapElems w fun e =>
        f.pick false (f.flush s.me.ftz (elemOf (s.vreg a) w e)) (f.flush s.me.ftz (elemOf (s.vreg b) w e))) ∧
      WritesLanes s (.fmax d a b p t) d m (mapElems w fun e =>
        f.pick true (f.flush s.me.ftz (elemOf (s.vreg a) w e)) (f.flush s.me.ftz (elemOf (s.vreg b) w e))) ∧
      WritesLanes s (.fsgnCpy d a b x t) d n (mapElems w fun e =>
        elemOf (s.vreg a) w e % 2 ^ (w - 1) + elemOf (s.vreg b) w e / 2 ^ (w - 1) * 2 ^ (w - 1)) ∧
      WritesLanes s (.fsgnXor d a b x t) d n (mapElems w fun e =>
        Nat.xor (elemOf (s.vreg a) w e) (elemOf (s.vreg b) w e / 2 ^ (w - 1) * 2 ^ (w - 1)))) ∧
    (3 ≤ t.toNat → ∀ i ∈ ([.fadd d a b p t, .fsub d a b p t, .fmul d a b p t, .ffma d a b p t, .ffms d a b p t,
        .fmin d a b p t, .fmax d a b p t, .fsgnCpy d a b x t, .fsgnXor d a b x t] : List Instr),
      Traps s i { cause := causeIllegalType }) ∧
    (8 ≤ o.toNat → TrapsIllegal s (.funSpecial d a o p t)) ∧
    (mode ≠ 4 → u = s) ∧ (mode = 4 → u = { s with me := { s.me with srgen := srgenStep s.me.srgen } })

/-- R267, R321, R328 to R334: the integer forms, modulo 2^w or saturated to TY's range; I4 and UI4 raise ILLEGAL_TYPE, and so do the
codes 6 and 7 of LOGIC raise ILLEGAL_INSTRUCTION. IMADW adds products into wider lanes of VD and its successors. -/
def Obligations.VectorInteger : Prop :=
  ∀ (s : State) (d a b : VNum) (p : BitVec 4) (x t o : BitVec 3) (g : BitVec 1),
    let w := intWidth t
    let x_ (e : Nat) := intElem t (s.vreg a) e
    let y_ (e : Nat) := intElem t (s.vreg b) e
    let z_ (e : Nat) := intElem t (s.vreg d) e
    let n (e : Nat) := elemOf (s.vreg b) w e % w
    let lo : Int := if t.toNat < 4 then -(2 ^ (w - 1)) else 0
    let hi : Int := if t.toNat < 4 then 2 ^ (w - 1) - 1 else 2 ^ w - 1
    let ints (f : Nat → Int) := mapElems w fun e => (f e % 2 ^ w).toNat
    let with_ (i : Instr) (f : Nat → Int) := WritesLanes s i d (s.active p) (ints f)
    let low (i : Instr) (f : Nat → Int) := WritesLanes s i d (s.active (x.zeroExtend 4)) (ints f)
    (w ≠ 4 →
      with_ (.iadd d a b p t) (fun e => x_ e + y_ e) ∧ with_ (.isub d a b p t) (fun e => x_ e - y_ e) ∧
      with_ (.imul d a b p t) (fun e => x_ e * y_ e) ∧ with_ (.imad d a b p t) (fun e => x_ e * y_ e + z_ e) ∧
      with_ (.iabs d a p t) (fun e => ((x_ e).natAbs : Int)) ∧
      with_ (.popcV d a p t) (fun e => onesIn w (elemOf (s.vreg a) w e)) ∧
      with_ (.clzV d a p t) (fun e => leadingZeros w (elemOf (s.vreg a) w e)) ∧
      low (.iadds d a b x t) (fun e => max lo (min hi (x_ e + y_ e))) ∧
      low (.isubs d a b x t) (fun e => max lo (min hi (x_ e - y_ e))) ∧
      low (.imin d a b x t) (fun e => min (x_ e) (y_ e)) ∧ low (.imax d a b x t) (fun e => max (x_ e) (y_ e)) ∧
      (g = 0#1 → low (.shift d a b x g t) fun e => x_ e * 2 ^ n e) ∧
      (g = 1#1 → low (.shift d a b x g t) fun e => x_ e / 2 ^ n e)) ∧
    (w = 4 → ∀ i ∈ ([.iadd d a b p t, .isub d a b p t, .imul d a b p t, .imad d a b p t, .imadw d a b p t, .iabs d a p t,
        .popcV d a p t, .clzV d a p t, .iadds d a b x t, .isubs d a b x t, .imin d a b x t, .imax d a b x t,
        .shift d a b x g t] : List Instr), Traps s i { cause := causeIllegalType }) ∧
    (w = 8 ∨ w = 16 → ∃ u : State, Completes s (.imadw d a b p t) u.advance ∧
      ∀ j < 32 / w, d.toNat + j < 32 → u.me.vreg (d.toNat + j) = mergeLanes (s.vregAt d j)
        (mapElems 32 fun l => ((x_ (32 / w * l + j) * y_ (32 / w * l + j) + elemOf (s.vregAt d j) 32 l) % 2 ^ 32).toNat)
        (s.active p)) ∧
    (w = 32 → d.toNat + 1 < 32 → ∃ u : State, Completes s (.imadw d a b p t) u.advance ∧
      ∀ l < 128, (s.active p).getLsbD l = true →
        (elemOf (u.me.vreg d.toNat) 32 l + 2 ^ 32 * elemOf (u.me.vreg (d.toNat + 1)) 32 l : Nat) =
          ((x_ l * y_ l + (elemOf (s.vregAt d 0) 32 l + 2 ^ 32 * elemOf (s.vregAt d 1) 32 l : Nat)) % 2 ^ 64).toNat) ∧
    (∀ v, logicOf o.toNat (s.vreg a) (s.vreg b) = some v → WritesLanes s (.logic d a b p o) d (s.active p) v) ∧
    (6 ≤ o.toNat → TrapsIllegal s (.logic d a b p o)) ∧
    (∀ v w' : VReg, logicOf 0 v w' = some (v &&& w') ∧ logicOf 1 v w' = some (v ||| w') ∧ logicOf 2 v w' = some (v ^^^ w') ∧
      logicOf 3 v w' = some (v &&& ~~~w') ∧ logicOf 4 v w' = some (v ||| ~~~w') ∧ logicOf 5 v w' = some (~~~(v ^^^ w')))

/-- R325, R331, R346, R347: compares write their condition in active lanes and 0 in the fragment's other lanes; the predicate forms
write the fragment's lanes; ANY and ALL give all ones or all zeros there, BALLOT writes all 128 bits. -/
def Obligations.PredicateForms : Prop :=
  ∀ (s : State) (c : BitVec 2) (q p x y : BitVec 4) (a b : VNum) (t : BitVec 3) (m n : SReg),
    let f := floatFormat t.toNat
    let sets (i : Instr) (v : LaneMask) := Completes s i (s.setPredLanes q v).advance
    let u_ (e : Nat) := f.read s.me.ftz (elemOf (s.vreg a) f.width e)
    let v_ (e : Nat) := f.read s.me.ftz (elemOf (s.vreg b) f.width e)
    (t.toNat < 3 →
      sets (.fcmp 0#2 q a b p t) ((lanesWhere f.width fun e => (u_ e).eq (v_ e)) &&& s.active p) ∧
      sets (.fcmp 1#2 q a b p t) ((lanesWhere f.width fun e => !(u_ e).eq (v_ e)) &&& s.active p) ∧
      sets (.fcmp 2#2 q a b p t) ((lanesWhere f.width fun e => (u_ e).lt (v_ e)) &&& s.active p) ∧
      sets (.fcmp 3#2 q a b p t) ((lanesWhere f.width fun e => (u_ e).lt (v_ e) || (u_ e).eq (v_ e)) &&& s.active p)) ∧
    (3 ≤ t.toNat → Traps s (.fcmp c q a b p t) { cause := causeIllegalType }) ∧
    (intWidth t ≠ 4 → sets (.icmp c q a b p t) ((lanesWhere (intWidth t) fun e =>
      let i := intElem t (s.vreg a) e
      let j := intElem t (s.vreg b) e
      (c = 0#2 && i == j) || (c = 1#2 && i != j) || (c = 2#2 && decide (i < j)) || (c = 3#2 && decide (i ≤ j)))
        &&& s.active p)) ∧
    (intWidth t = 4 → Traps s (.icmp c q a b p t) { cause := causeIllegalType }) ∧
    sets (.pset q m n) (s.sreg n ++ s.sreg m) ∧ sets (.pand q x y) (s.me.pred x.toNat &&& s.me.pred y.toNat) ∧
    sets (.por q x y) (s.me.pred x.toNat ||| s.me.pred y.toNat) ∧ sets (.pnot q x) (~~~ s.me.pred x.toNat) ∧
    sets (.pmov q x) (s.me.pred x.toNat) ∧
    ((∃ l < 128, (s.active p).getLsbD l = true ∧ (s.me.pred x.toNat).getLsbD l = true) →
      sets (.voteAny q x p) (BitVec.allOnes 128)) ∧
    ((∀ l < 128, (s.active p).getLsbD l = true → (s.me.pred x.toNat).getLsbD l = false) → sets (.voteAny q x p) 0#128) ∧
    ((∀ l < 128, (s.active p).getLsbD l = true → (s.me.pred x.toNat).getLsbD l = true) →
      sets (.voteAll q x p) (BitVec.allOnes 128)) ∧
    ((∃ l < 128, (s.active p).getLsbD l = true ∧ (s.me.pred x.toNat).getLsbD l = false) → sets (.voteAll q x p) 0#128) ∧
    Completes s (.voteBallot q x p)
      ({ s with me := s.me.setPred q.toNat (s.me.pred x.toNat &&& s.active p) }).advance

/-- R336, R341 to R344, R351, R352: packing, permuting and moving elements; PART puts the lanes whose predicate bit is 1 first and
counts them in VB; VROT lowers RRB. -/
def Obligations.VectorMoves : Prop :=
  ∀ (s : State) (d a b : VNum) (p : BitVec 4) (x t : BitVec 3) (k : BitVec 5) (n : BitVec 6) (r : SReg),
    let w := intWidth t
    let m := s.active (x.zeroExtend 4)
    let va := s.vreg a
    let vb := s.vreg b
    let elems := 4096 / w
    let at_ (v : VReg) (i : Nat) := if i < elems then elemOf v w i else 0
    let two (i : Instr) (f h : Nat → Nat) (w : Nat) := ∃ u : State, Completes s i u.advance ∧
      (d.toNat + 1 < 32 → u.me.vreg d.toNat = mergeLanes (s.vregAt d 0) (mapElems w f) m ∧
        u.me.vreg (d.toNat + 1) = mergeLanes (s.vregAt d 1) (mapElems w h) m)
    (w ≠ 32 → WritesLanes s (.pack d a b x t) d m (mapElems w fun e =>
      (saturate t (toInt (2 * w) (tySigned t) (elemOf (if e % 2 = 0 then va else vb) (2 * w) (e / 2))) % 2 ^ w).toNat)) ∧
    (w ≠ 32 → two (.unpk d a x t) (fun i => (intElem t va (2 * i) % 2 ^ (2 * w)).toNat)
      (fun i => (intElem t va (2 * i + 1) % 2 ^ (2 * w)).toNat) (2 * w)) ∧
    (w = 32 → Traps s (.pack d a b x t) { cause := causeIllegalType } ∧
      Traps s (.unpk d a x t) { cause := causeIllegalType }) ∧
    (16 ≤ w → WritesLanes s (.shuf d a b p t) d (s.active p) (mapElems w fun e => at_ va (elemOf vb w e))) ∧
    (w < 16 → Traps s (.shuf d a b p t) { cause := causeIllegalType }) ∧
    WritesLanes s (.bcast d a b x t) d m (mapElems w fun _ => elemOf va w (elemOf vb w 0 % elems)) ∧
    WritesLanes s (.slide d a 0#1 k x t) d m (mapElems w fun e => at_ va (e + k.toNat)) ∧
    WritesLanes s (.slide d a 1#1 k x t) d m (mapElems w fun e =>
      if e < k.toNat then 0 else elemOf va w (e - k.toNat)) ∧
    two (.zip d a b x t) (fun e => elemOf (if e % 2 = 0 then va else vb) w (e / 2))
      (fun e => elemOf (if (elems + e) % 2 = 0 then va else vb) w ((elems + e) / 2)) w ∧
    two (.unzip d a b x t) (fun e => if 2 * e < elems then elemOf va w (2 * e) else elemOf vb w (2 * e - elems))
      (fun e => if 2 * e + 1 < elems then elemOf va w (2 * e + 1) else elemOf vb w (2 * e + 1 - elems)) w ∧
    WritesLanes s (.vmov d a x) d m va ∧
    WritesLanes s (.vsplat d r x t) d m (mapElems w fun _ => (s.sreg r).toNat % 2 ^ w) ∧
    (w = 32 → s.me.whole = true →
      let on := (List.range 128).filter fun l => (s.me.pred p.toNat).getLsbD l
      let off := (List.range 128).filter fun l => !(s.me.pred p.toNat).getLsbD l
      Completes s (.part d a b p t)
        (((s.setV d (ofElems 32 ((on ++ off).map fun l => elemOf va 32 l))).setV b
          (mapElems 32 fun _ => on.length)).advance)) ∧
    (w = 32 → s.me.whole = false → TrapsIllegal s (.part d a b p t)) ∧
    (w ≠ 32 → Traps s (.part d a b p t) { cause := causeIllegalType }) ∧
    (s.me.whole = true →
      Completes s (.vrot n) ({ s with me := { s.me with rrb := s.me.rrb - n.truncate 5 } }).advance) ∧
    (s.me.whole = false → TrapsIllegal s (.vrot n))

/-- The state with QSTAT counted on (R288) and its instruction completed. -/
def quantised (s : State) (sat : Nat) (nan uf : Bool) : State :=
  ({ s with me := s.me.noteQuant sat nan uf }).advance

/-- R276, R277, R285 to R288, R335, R338 to R340: the conversions, and QNT, DQN and REQ. A CVT that widens writes the elements
of VA whose number is j modulo the ratio to register VD + j; one that narrows takes element e of VD from element e div ratio of
register VA + (e mod ratio). CVT with a rounding mode 5 or 6, a block format that R337 does not list and a divided stream raise ILLEGAL_INSTRUCTION; QNT raises
QUANT_RANGE where QSTAT.TRAP asks for it. -/
def Obligations.Conversions : Prop :=
  ∀ (s : State) (d a b : VNum) (sf df : BitVec 1) (y r t : BitVec 3) (q : BitVec 4) (bf : BlockFormat),
    let w := cvtWidth sf y
    let mode := if r = 7#3 then s.me.rmode else r.toNat
    let u := if sf = 1#1 ∧ df = 1#1 then s else s.stepGen mode
    let conv (e : Nat) := convertElem sf y df t (u.rounding mode e) (elemOf (s.vreg a) w e)
    let f := floatFormat (q.extractLsb' 2 2).toNat
    let v := s.stepGen s.me.rmode
    let blocks := (List.range (4096 / f.width / 32)).map (quantBlock v f bf a b s.me.rmode)
    let sat := (blocks.map fun k => (k.items.filter fun i => i.limited).length).sum
    let uf := blocks.any fun k => k.uf
    let out := quantRegister bf.position blocks
    let lane := rescaledLane s a b (q.getLsbD 0)
    (r ≠ 5#3 → r ≠ 6#3 → cvtWidth df t = w →
      ∃ nan : Bool, Completes s (.cvt d a sf y df r t)
        (quantised (u.setLanes d 0 (mapElems w fun e => (conv e).1) s.mask) 0 nan false) ∧
        (nan = true ↔ ∃ e < 4096 / w, s.mask.getLsbD (e / (32 / w)) = true ∧ (conv e).2 = true)) ∧
    (let v := cvtWidth df t
     let k := v / w
     r ≠ 5#3 → r ≠ 6#3 → w < v → d.toNat + k ≤ 32 →
      ∃ (nan : Bool) (t' : State), Completes s (.cvt d a sf y df r t) (quantised t' 0 nan false) ∧
        (nan = true ↔ ∃ e < 4096 / w, s.mask.getLsbD (e / (32 / w)) = true ∧ (conv e).2 = true) ∧
        t'.me.srgen = u.me.srgen ∧
        ∀ j < k, t'.me.vreg (d.toNat + j) = mergeLanes (s.vregAt d j) (mapElems v fun i => (conv (k * i + j)).1) s.mask) ∧
    (let v := cvtWidth df t
     let k := w / v
     let conv (e : Nat) := convertElem sf y df t (u.rounding mode e) (elemOf (s.vregAt a (e % k)) w (e / k))
     r ≠ 5#3 → r ≠ 6#3 → v < w →
      ∃ nan : Bool, Completes s (.cvt d a sf y df r t)
        (quantised (u.setLanes d 0 (mapElems v fun e => (conv e).1) s.mask) 0 nan false) ∧
        (nan = true ↔ ∃ e < 4096 / v, s.mask.getLsbD (e / (32 / v)) = true ∧ (conv e).2 = true)) ∧
    (r ≠ 5#3 → r ≠ 6#3 → ∃ t' : State, Completes s (.cvt d a sf y df r t) t'.advance) ∧
    ((r = 5#3 ∨ r = 6#3) → TrapsIllegal s (.cvt d a sf y df r t)) ∧
    (blockFormat (q.getLsbD 0) t = some bf → q.getLsbD 1 = false → q.extractLsb' 2 2 ≠ 3#2 → s.me.whole = true →
      (s.me.qstat.getLsbD 34 = false ∨ (sat = 0 ∧ uf = false) →
        Completes s (.qnt d a b q t) (quantised (v.setV d out) sat (blocks.any fun k => k.nan) uf)) ∧
      (s.me.qstat.getLsbD 34 = true → (sat ≠ 0 ∨ uf = true) →
        let x := v.setV d out
        Completes s (.qnt d a b q t) (takeFault { x with me := x.me.noteQuant sat (blocks.any fun k => k.nan) uf }
          { cause := causeQuantRange }))) ∧
    (blockFormat (q.getLsbD 0) t = some bf → (bf.position ≠ 8 ∨ q.toNat / 2 < 4) →
      Completes s (.dqn d a b q t)
        ((v.setLanes d 0 (mapElems 32 (dequantLane v bf a b (q.toNat / 2))) s.mask).advance)) ∧
    (q.extractLsb' 1 3 = 0#3 →
      Completes s (.req d a b q t) (quantised
        (s.setLanes d 0 (mapElems 32 fun l => (saturate t (lane l) % 2 ^ 32).toNat) s.mask)
        ((lanesOf s.mask).filter fun l => decide (saturate t (lane l) ≠ lane l)).length false false)) ∧
    (blockFormat (q.getLsbD 0) t = none → TrapsIllegal s (.qnt d a b q t) ∧ TrapsIllegal s (.dqn d a b q t)) ∧
    (s.me.whole = false → TrapsIllegal s (.qnt d a b q t)) ∧
    (q.extractLsb' 1 3 ≠ 0#3 → TrapsIllegal s (.req d a b q t)) ∧
    (∀ (acc mult zp : Int) (n : Nat), rescale acc mult (n + 1) zp = (acc * mult + 2 ^ n) / 2 ^ (n + 1) + zp) ∧
    (∀ acc mult zp : Int, rescale acc mult 0 zp = acc * mult + zp)

/-- The operations that SCAN and RED give meaning to: the first three on floating-point types, the others on integers. -/
def reductionOf (s : State) (o : BitVec 6) (t : BitVec 3) (r : Reduction) (u : State) : Prop :=
  (o.toNat < 3 ∧ t.toNat < 3 ∧ u = (if o = 0#6 then s.stepGen s.me.rmode else s) ∧ r = floatReduction u o.toNat t) ∨
    (8 ≤ o.toNat ∧ o.toNat ≤ 13 ∧ intWidth t ≠ 4 ∧ u = s ∧ r = intReduction o.toNat t)

/-- The matrices at these offsets from a base, n bytes each, are read one after another as relaxed loads at .core (R354). -/
def ReadsMatrices (base : Word) (n : Nat) : List Nat → State → List (Nat × List Byte) → State → Prop
  | [], v, ms, w => ms = [] ∧ w = v
  | o :: os, v, ms, w => ∃ (u : State) (bs : List Byte) (rest : List (Nat × List Byte)),
      ReadsBytes v 1 (base + BitVec.ofNat 64 o) n bs u ∧ ms = (o, bs) :: rest ∧ ReadsMatrices base n os u rest w

/-- R271, R289, R290, R345, R353 to R355: SCAN writes each active element with the fold of the maximal aligned nodes up to it, RED writes
the root to every element of the fragment's lanes; an integer sum is the sum, wherever the nodes lie; FTZ flushes every operand. VMX
reads the distinct matrices of the fragment's lanes in ascending order of their offsets, each once, multiplies each lane's vector by its
matrix's row and adds; a bad offset raises VMX_OPERAND before anything is read. -/
def Obligations.VectorReductions : Prop :=
  ∀ (s u : State) (d a b : VNum) (o : BitVec 6) (p : BitVec 4) (t : BitVec 3) (r : Reduction) (c : SReg) (g : BitVec 1),
    let levels := treeOf r (fun e => (s.active p).getLsbD (laneOfElem r.w e)) (s.vreg a)
    (reductionOf s o t r u →
      Completes s (.scan d a o p t)
        ((u.setLanes d 0 (mapElems r.w fun e => (prefixFold r.combine (e + 1) 0 none levels).getD 0) (s.active p)).advance) ∧
      Completes s (.red d a o p t) ((u.setLanes d 0 (mapElems r.w fun _ => treeRoot levels r.identity) s.mask).advance)) ∧
    (reductionOp o = false → TrapsIllegal s (.scan d a o p t) ∧ TrapsIllegal s (.red d a o p t)) ∧
    (∀ (v : VReg) (pr : Nat → Bool), intWidth t = 32 →
      treeRoot (treeOf (intReduction 8 t) pr v) 0 =
        (((List.range 128).filter pr).map fun e => elemOf v 32 e).sum % 2 ^ 32) ∧
    (reductionOf s o t r u → o.toNat < 3 → s.me.ftz = true → ∀ x, r.operand x = (floatFormat t.toNat).flush true x) ∧
    (badOffsets (s.vreg b) s.mask = 0#128 →
      let base := s.sreg c
      let n := matrixBytes g
      let offs := distinctOffsets (s.vreg b) s.mask
      let pieces := sortBy (fun (x y : Nat × Nat) => decide (x.1 ≤ y.1))
        (offs.flatMap fun k => rangePieces 10 (base + BitVec.ofNat 64 k).toNat n).eraseDups
      ∀ (v w : State) (ms : List (Nat × List Byte)), s.mustWait (pieces.map fun x => (0, BitVec.ofNat 64 x.1)) = false →
        checkPieces none s pieces = .ok v → ReadsMatrices base n offs v ms w →
        let x := w.stepGen w.me.rmode
        ∃ f : Nat → Nat, Completes s (.vmx d a b c g) ((x.setLanes d 0 (mapElems 32 f) s.mask).advance) ∧
          ∀ l < 128, s.mask.getLsbD l = true → ∃ bs, (elemOf (s.vreg b) 32 l, bs) ∈ ms ∧
            f l = vmxSum x g bs (x.vreg a) l (List.range 16) (elemOf (x.vreg d) 32 l)) ∧
    ((distinctOffsets (s.vreg b) s.mask).Pairwise (fun x y => x < y) ∧
      ∀ k, k ∈ distinctOffsets (s.vreg b) s.mask ↔ ∃ l < 128, s.mask.getLsbD l = true ∧ elemOf (s.vreg b) 32 l = k) ∧
    (∀ k, (lanesOf (badOffsets (s.vreg b) s.mask)).head? = some k →
      Traps s (.vmx d a b c g)
        { cause := causeVmxOperand
          addr := s.sreg c + BitVec.ofNat 64 (elemOf (s.vreg b) 32 k)
          lanes := some (badOffsets (s.vreg b) s.mask) })

/-- The vector forms that write vector registers and access no memory, each with the lanes that it may write and how many registers it
writes from VD on (R317, R318, R320). -/
def laneForms (s : State) (d a b : VNum) (p q : BitVec 4) (x t o y m : BitVec 3) (g sf df : BitVec 1) (k : BitVec 5) (n : BitVec 6)
    (r : SReg) : List (LaneMask × Nat × Instr) :=
  let wide := max 1 (cvtWidth df t / cvtWidth sf y)
  (([.fadd d a b p t, .fsub d a b p t, .fmul d a b p t, .ffma d a b p t, .ffms d a b p t, .fmin d a b p t, .fmax d a b p t,
      .funSpecial d a n p t, .iadd d a b p t, .isub d a b p t, .imul d a b p t, .imad d a b p t, .logic d a b p o, .iabs d a p t,
      .popcV d a p t, .clzV d a p t, .shuf d a b p t, .scan d a n p t] : List Instr).map fun i => (s.active p, 1, i)) ++
  (([.fsgnCpy d a b x t, .fsgnXor d a b x t, .iadds d a b x t, .isubs d a b x t, .imin d a b x t, .imax d a b x t,
      .shift d a b x g t, .pack d a b x t, .bcast d a b x t, .slide d a g k x t, .vmov d a x, .vsplat d r x t] : List Instr).map
        fun i => (s.active (x.zeroExtend 4), 1, i)) ++
  (([.unpk d a x t, .zip d a b x t, .unzip d a b x t] : List Instr).map fun i => (s.active (x.zeroExtend 4), 2, i)) ++
  [(s.active p, if intWidth t = 32 then 2 else 32 / intWidth t, .imadw d a b p t), (s.mask, wide, .cvt d a sf y df m t),
    (BitVec.allOnes 128, 1, .qnt d a b q t), (s.mask, 1, .dqn d a b q t), (s.mask, 1, .req d a b q t), (s.mask, 1, .red d a n p t)]

/-- Only vector registers and what the form's own rule names change: no predicate, no scalar register, no control register, no loop
counter, no memory, nothing outside the stream. -/
def OnlyVectors (s u : State) : Prop :=
  OnlyStream s u ∧ SameMemory s u ∧ (∀ j : SReg, u.sreg j = s.sreg j) ∧ SameControls s.me u.me ∧ u.me.rrb = s.me.rrb ∧
    u.me.preds = s.me.preds ∧ u.me.lcs = s.me.lcs ∧ u.me.spilled = s.me.spilled ∧ u.pc = s.pc + 4#64

/-- The frame of those forms when they complete (R317, R318, R320): only VD and, for a form of several, the registers behind it change,
and in each only lanes that are active under the form's own predicate, or are the fragment's where it has none; a QNT of all lanes and a
PART, which writes VB too, need an undivided stream. SRGEN changes only in stochastic mode (R276), QSTAT only under CVT, QNT and REQ
(R288). -/
def Obligations.VectorFrame : Prop :=
  ∀ (s u : State) (d a b e : VNum) (p q : BitVec 4) (x t o y m : BitVec 3) (g sf df : BitVec 1) (k : BitVec 5) (n : BitVec 6) (r : SReg),
    NoLoopEnd s → NoReconvergence s (s.pc + 4#64) → (∀ f, u ≠ takeFault s f) →
    (∀ i ∈ laneForms s d a b p q x t o y m g sf df k n r, exec i.2.2 s = .next u →
      (i.2.2 = .qnt d a b q t → s.me.qstat.getLsbD 34 = false) →
      OnlyVectors s u ∧
      (i.2.2 ∉ ([.cvt d a sf y df m t, .qnt d a b q t, .req d a b q t] : List Instr) → u.me.qstat = s.me.qstat) ∧
      (s.me.rmode ≠ 4 → m ≠ 4#3 → u.me.srgen = s.me.srgen) ∧
      ((∀ j < i.2.1, s.me.rotate e.toNat ≠ s.me.rotate (d.toNat + j)) → u.vreg e = s.vreg e) ∧
      ∀ j < i.2.1, ∀ l < 128, i.1.getLsbD l = false → laneOf (u.vregAt d j) l = laneOf (s.vregAt d j) l) ∧
    (exec (.part d a b p t) s = .next u →
      OnlyVectors s u ∧ u.me.qstat = s.me.qstat ∧ u.me.srgen = s.me.srgen ∧ s.me.whole = true ∧
      (s.after e ≠ s.after d → s.after e ≠ s.after b → u.vreg e = s.vreg e))

/-- R201, R202, R204, R348, R349, R350: VBR with no lane taken goes on, with every lane taken goes to its target, and with some divides
the fragment: the taken lanes stand at the target, the others behind the branch, both one level deeper, in a region that
waits for them at its reconvergence address. WHOLE starts a bracket with one fragment of all lanes once every fragment stands
at it, after the entries that the core holds are written to slots 240 on (R203); ENDWHOLE brings the fragments back. VEXIT takes lanes out of regions. -/
def Obligations.Divergence : Prop :=
  ∀ (s : State) (p : BitVec 4) (t : BitVec 11) (r : BitVec 10) (n : BitVec 6),
    let taken := s.mask &&& s.me.pred p.toNat
    let other := s.mask &&& ~~~ s.me.pred p.toNat
    let target := s.pc + 4#64 * t.signExtend 64
    let reconv := s.pc + 4#64 * r.zeroExtend 64
    (taken = 0#128 → Completes s (.vbr p t r) s.advance) ∧
    (taken ≠ 0#128 → other = 0#128 → s.targetOk target = true → Completes s (.vbr p t r) (s.goto target)) ∧
    (taken ≠ 0#128 → s.targetOk target = false → TrapsIllegal s (.vbr p t r)) ∧
    (taken ≠ 0#128 → other ≠ 0#128 → s.targetOk target = true →
      (s.targetOk reconv = false ∨ s.me.bracket ≠ none ∨ s.me.frag.depth = 63) → TrapsIllegal s (.vbr p t r)) ∧
    (taken ≠ 0#128 → other ≠ 0#128 → s.targetOk target = true → s.targetOk reconv = true → s.me.bracket = none →
      s.me.frag.depth < 63 → s.forbiddenLoopEnd = false → NoLoopEnd s → s.me.entries ≤ 252 →
      target ≠ reconv → s.pc + 4#64 ≠ reconv → NoReconvergence s target → NoReconvergence s (s.pc + 4#64) →
      (∀ g ∈ s.me.frags, g.id ≠ s.me.frag.id) →
      ∃ u : State, Completes s (.vbr p t r) u ∧ OnlyStream s u ∧ u.mask = other ∧ u.pc = s.pc + 4#64 ∧
        u.me.frag.depth = s.me.frag.depth + 1 ∧
        (∃ f ∈ u.me.frags, f.mask = taken ∧ f.pc = target ∧ f.depth = s.me.frag.depth + 1 ∧ f.wait = .running) ∧
        ⟨reconv, s.me.frag.depth + 1, s.mask, 0#128, none, s.me.uses⟩ ∈ u.me.regions) ∧
    (n = 0#6 ∨ s.me.frag.depth < n.toNat + 1 ∨ s.me.bracket ≠ none → TrapsIllegal s (.vexit n)) ∧
    (n ≠ 0#6 → n.toNat < s.me.frag.depth → s.me.bracket = none → Completes s (.vexit n) { s with
      me := arriveAtDepth (leaveDepths n.toNat s.me.frag.depth s.mask s.me) (s.me.frag.depth - n.toNat) }) ∧
    (∀ q, s.me.frag.depth = 1 → regionFor s.me.regions 1 s.mask = some q → q.waiting &&& ~~~s.mask ≠ 0#128 →
      ∃ st : Stream, arriveAtDepth s.me 1 = st.dropFrag ∧ st.frags = s.me.frags ∧
        ∀ x ∈ st.regions, x ∈ s.me.regions ∨ (x.waiting = q.waiting &&& ~~~s.mask ∧ x.arrived = q.arrived ||| s.mask)) ∧
    (s.me.bracket = none → s.me.isVector = true → s.me.frags = [] → s.me.ended = false → s.me.frag.parked = none →
      s.me.frag.atWhole = false → 0 < s.me.entriesOnCore → ∀ v : State,
      let w := (s.waitFor (.whole s.ticket)).nextTicket
      let x := w.freeBytes (32 * s.me.entriesOnCore)
      writeVia x.2 (s.myJob.via 1 s.me.id.strm s.fragOp) (s.myJob.splitSlot s.me.id.strm 240) x.1 = (.ok (), v) →
      ∃ u : State, Completes s .whole u ∧ u.me.bracket.isSome = true ∧ u.mm = v.mm ∧ u.myJob = v.myJob) ∧
    (s.me.bracket = none → s.me.isVector = true → s.me.undiverged = true → s.me.ended = false → s.me.frag.parked = none →
      s.me.frag.atWhole = false → NoLoopEnd s →
      ∃ u : State, Completes s .whole u ∧ u.mask = BitVec.allOnes 128 ∧ u.me.frag.depth = 0 ∧ u.me.whole = true ∧
        u.me.bracket.isSome = true ∧ u.pc = s.pc + 4#64 ∧ u.me.vregs = s.me.vregs ∧ u.mm = s.mm) ∧
    (s.me.bracket ≠ none → TrapsIllegal s .whole) ∧ (s.me.bracket = none → TrapsIllegal s .endwhole) ∧
    (∀ f, s.me.bracket = some ⟨[f], []⟩ → NoLoopEnd s → s.me.regions = [] →
      ∃ u : State, Completes s .endwhole u ∧ u.mask = f.mask ∧ u.me.frag.depth = f.depth ∧ u.me.bracket = none ∧
        u.pc = s.pc + 4#64 ∧ u.me.regions = [] ∧ u.mm = s.mm)

/-! ### Stream registers, the matrix engine, the copy engine -/

/-- Offset and size of the field of a stream register that an index of GSET names, in the register's image (R376, R380). -/
def gsetFields : List (Nat × Nat) :=
  [(0, 8), (8, 8), (16, 8), (24, 4), (28, 4), (32, 4), (36, 4), (40, 4), (44, 4), (48, 4), (52, 4), (56, 1), (57, 1), (58, 1)]

/-- R376, R380: GSET writes the field that its index names with the low bits of sA and leaves the others; the indices 14 and 15 are
reserved. GLD reads and GST writes the 64-byte image, from which the register comes back. GADV adds to both cursors modulo
2^32. -/
def Obligations.StreamRegisters : Prop :=
  ∀ (s u : State) (g f : BitVec 4) (a b : SReg) (c : BitVec 3) (x : BitVec 1) (p : Spot),
    let r := s.myJob.greg g.toNat
    let put (v : StreamReg) := s.setJob fun j => j.setGreg g.toNat v
    let scope := if x = 0#1 then c.toNat else 1
    let got := loadSpot u scope p 64
    (∀ n (h : n < gsetFields.length), f.toNat = n →
      ∃ v : StreamReg, Completes s (.gset g a f) (put v).advance ∧
        imageField v.bytes gsetFields[n].1 gsetFields[n].2 = (s.sreg a).toNat % 2 ^ (8 * gsetFields[n].2) ∧
        (∀ k (h' : k < gsetFields.length), k ≠ n →
          imageField v.bytes gsetFields[k].1 gsetFields[k].2 = imageField r.bytes gsetFields[k].1 gsetFields[k].2) ∧
        v.rsv = r.rsv) ∧
    (14 ≤ f.toNat → TrapsIllegal s (.gset g a f)) ∧
    StreamReg.ofBytes r.bytes = r ∧ r.bytes.length = 64 ∧
    Completes s (.gadv g a b) (put { r with
      curi := r.curi + (s.sreg a).truncate 32, curk := r.curk + (s.sreg b).truncate 32 }).advance ∧
    (Single s u (imageReq x .read) (s.sreg a + s.sreg b) p → Readable u scope 64 p →
      Completes s (.gld g a b c x) (got.2.setJob fun j => j.setGreg g.toNat (StreamReg.ofBytes got.1)).advance) ∧
    (Single s u (imageReq x .write) (s.sreg a + s.sreg b) p → Writable u scope 64 p →
      Completes s (.gst g a b c x) (storeSpot u scope p r.bytes).advance) ∧
    (NoArm s → s.mustWait [(0, s.sreg a + s.sreg b)] = false → x = 0#1 → (s.sreg a + s.sreg b).toNat % 64 ≠ 0 →
      Traps s (.gld g a b c x) (accessFault (imageReq x .read) causeAlignment (s.sreg a + s.sreg b)) ∧
      Traps s (.gst g a b c x) (accessFault (imageReq x .write) causeAlignment (s.sreg a + s.sreg b)))

/-- An engine's operation may be issued: the stream has no access under way, the core's buffer drains at once, and the lock table
has room (R209, R233). -/
def EngineRoom (s : State) (asks : List LockAsk) : Prop :=
  s.myTxns = [] ∧ (∀ b ∈ (drainCore s s.core).mm.wcb, b.core ≠ s.core) ∧
    (s.locks.filter fun l => l.core == some s.core).length + (asks.filter fun a => decide (a.lo < a.hi)).length ≤ 64

/-- The operation's ranges stand in the lock table (R209). -/
def Registers (s t : State) (op : Nat) (asks : List LockAsk) : Prop :=
  ∀ a ∈ asks, a.lo < a.hi → (⟨some s.core, s.myJob.id, op, a.space, a.lo, a.hi, a.write⟩ : RangeLock) ∈ t.locks

/-- A matrix instruction completes with its command behind those in the queue (R382). -/
def Queues (s : State) (i : Instr) (c : MatrixCmd) (asks : List LockAsk) (t : State) : Prop :=
  Completes s i t ∧ t.myJob.mcmds = s.myJob.mcmds ++ [c] ∧ Registers s t c.id asks ∧ (∀ r : SReg, t.sreg r = s.sreg r) ∧
    t.myJob.panels = s.myJob.panels

/-- The stream registers of a command pass the rows of R379. -/
def StreamsPass (s : State) (gs : List StreamReg) (accepts : Nat → Bool) (transfer : Bool) : Prop :=
  (∃ f, ∀ g ∈ gs, fmtFamily g.fmt.toNat = some f ∧ accepts g.fmt.toNat = true) ∧
    ∀ g ∈ gs, g.malformed = false ∧ g.misaligned transfer = none ∧ ungranted s g = none

/-- R382, R386 to R390, R393 to R395: the commands of the matrix stream are queued with what they take from their stream registers.
MLOOP and MLOOP.C advance both cursors by the K-steps; panels outside the grant raise ILLEGAL_INSTRUCTION. -/
def Obligations.MatrixCommands : Prop :=
  ∀ (s : State) (d a b : BitVec 4) (m : BitVec 16) (h : BitVec 2) (c z : BitVec 1) (k : BitVec 10) (r : SReg),
    let ga := s.greg a
    let gb := s.greg b
    let n := if k = 0#10 then ga.kcount.toNat else k.toNat
    let blank (op : MatrixOp) := MatrixCmd.blank s op d.toNat
    let product (op : MatrixOp) : MatrixCmd :=
      { blank op with shape := h.toNat, acc := c == 1#1, a := ga, b := gb, count := n }
    let move (op : MatrixOp) : MatrixCmd := { blank op with a := ga, scalar := s.sreg r }
    let asks := productLocks ga gb (shapeRows h.toNat) (shapeCols h.toNat) 0 0 0 n
    let spans (cols : Nat) (w : Bool) :=
      ga.boxes ((ga.curi.toNat + bitsOf (s.sreg r) 31 0) % 2 ^ 32) ((ga.curi.toNat + bitsOf (s.sreg r) 31 0) % 2 ^ 32 + 63)
        ((32 * ga.curk.toNat + bitsOf (s.sreg r) 63 32) % 2 ^ 32)
        ((32 * ga.curk.toNat + bitsOf (s.sreg r) 63 32) % 2 ^ 32 + cols - 1) w
    let ready (asks : List LockAsk) := EngineRoom s asks ∧ s.myJob.queued < 8
    let floats (f : Nat) : Bool := decide (f ≤ 2)
    (s.myJob.grantsPanels (MatrixCmd.blank s (.zero m) 0).panels = true → ready [] →
      ∃ t, Queues s (.mzero m) (MatrixCmd.blank s (.zero m) 0) [] t ∧ t.pc = s.advance.pc) ∧
    (s.myJob.grantsPanels (product .step).panels = true → StreamsPass s [ga, gb] (fun _ => true) false →
      badKcount ga k = false → ready asks →
      (∃ t, Queues s (.mstep d a b h c k) (product .step) asks t ∧ t.myJob.gregs = s.myJob.gregs) ∧
      (∃ t, Queues s (.mloop d a b h c k) (product .loop) asks t ∧
        t.greg a = { ga with curk := ga.curk + BitVec.ofNat 32 n } ∧
        t.greg b = { gb with curk := gb.curk + BitVec.ofNat 32 n })) ∧
    (∀ crew rank, s.myJob.grantsPanels (product .coop).panels = true → StreamsPass s [ga, gb] (fun _ => true) false →
      badKcount ga k = false → coopCols ga ≤ 6 → s.myRank = some (crew, rank) →
      coopRows ga * coopCols ga * coopParts ga ≤ 128 → rank < coopRows ga * coopCols ga * coopParts ga →
      let tile := rank % (coopRows ga * coopCols ga)
      let part := rank / (coopRows ga * coopCols ga)
      let first := part * n / coopParts ga
      let asks := productLocks ga gb (shapeRows h.toNat) (shapeCols h.toNat)
        (64 * shapeRows h.toNat * (tile / coopCols ga)) (64 * shapeCols h.toNat * (tile % coopCols ga)) first
        ((part + 1) * n / coopParts ga - first)
      ready asks →
      (part = 0 → ∃ t, Queues s (.mloopC d a b h c k) { product .coop with tile := tile } asks t ∧
        t.greg a = { ga with curk := ga.curk + BitVec.ofNat 32 n }) ∧
      (∀ (o : Job) (x : Nat), part ≠ 0 → s.member crew tile = some o →
        s.myJob.coopAnswer ⟨o.id, crew, tile, part, h.toNat, n, ga.coop, ga.fmt, gb.fmt, none⟩ = some (some (some x)) →
        ∃ t, Queues s (.mloopC d a b h c k) { product .coop with tile := tile, part := part, origin := some (o.id, x) } asks t ∧
          t.greg a = { ga with curk := ga.curk + BitVec.ofNat 32 n } ∧ t.myJob.coopAsk = none)) ∧
    (s.myJob.grantsPanels [d.toNat] = true →
      (StreamsPass s [ga] floats true →
        (ready (spans 64 true) → ∃ t, Queues s (.mdrain d a r z) (move (.drain (z == 1#1))) (spans 64 true) t ∧
          t.myJob.segment.scope = max s.myJob.segment.scope ga.scope) ∧
        (ready (spans 64 false) → ∃ t, Queues s (.mlda d a r) (move .lda) (spans 64 false) t)) ∧
      (StreamsPass s [ga] (fun f => f == 0) true → ready (spans 1 false) →
        (∃ t, Queues s (.mrescRow d a r) (move (.resc 1)) (spans 1 false) t) ∧
        (∃ t, Queues s (.mrescCol d a r) (move (.resc 2)) (spans 1 false) t)) ∧
      (ready [] → ∃ t, Queues s (.mrescS d r) { blank (.resc 0) with scalar := s.sreg r } [] t)) ∧
    (s.myJob.grantsPanels [d.toNat] = false →
      TrapsIllegal s (.mdrain d a r z) ∧ TrapsIllegal s (.mlda d a r) ∧ TrapsIllegal s (.mrescS d r) ∧
      TrapsIllegal s (.mrescRow d a r) ∧ TrapsIllegal s (.mrescCol d a r)) ∧
    (s.myJob.grantsPanels (product .step).panels = false →
      TrapsIllegal s (.mstep d a b h c k) ∧ TrapsIllegal s (.mloop d a b h c k) ∧ TrapsIllegal s (.mloopC d a b h c k))

/-- R383, R384, R385, R397: MBATCH closes the current segment and opens the next; MWAIT and MWAIT.ALL go on once nothing that they await
is left, and acquire at the widest scope awaited; MMIG sets the policy. -/
def Obligations.MatrixControl : Prop :=
  ∀ (s : State) (k b : BitVec 3) (g : BitVec 1) (a : SReg) (st : Stream),
    let last := s.myJob.segment
    let own := if last.batch = b.toNat then last.scope else 0
    let widest := (s.myJob.segs.map fun x => x.scope).foldl max ((s.myJob.mdone.map fun e => e.2).foldl max 0)
    (s.stream ⟨.job s.myJob.id, matrixStrm⟩ = some st → st.ended = false →
      ∃ t : State, Completes s (.mbatch k g b) t.advance ∧
        t.myJob.segment = ⟨last.no + 1, b.toNat, if g = 1#1 then some k else none, false, 1⟩ ∧
        t.myJob.mcmds = s.myJob.mcmds ∧ (s.myJob.segmentBusy last = true → { last with closed := true } ∈ t.myJob.segs)) ∧
    (s.myJob.batchBusy b.toNat = false →
      Completes s (.mwait b) ((acquireAt s s.core (max (tableGet s.myJob.mdone b.toNat 0) own)).setJob fun j =>
        { j with mdone := tableErase j.mdone b.toNat }).advance) ∧
    (s.myJob.batchBusy b.toNat = true → Completes s (.mwait b) s.stall) ∧
    (s.myJob.mcmds = [] →
      Completes s .mwaitAll ((acquireAt s s.core widest).setJob fun j => { j with mdone := [] }).advance) ∧
    (s.myJob.mcmds ≠ [] → Completes s .mwaitAll s.stall) ∧
    Completes s .mmigOff (s.setJob fun j => { j with mpolicy := none }).advance ∧
    Completes s (.mmigWait a) (s.setJob fun j => { j with mpolicy := some (bitsOf (s.sreg a) 31 0) }).advance ∧
    Completes s .mmigAny (s.setJob fun j => { j with mpolicy := some 0 }).advance

/-- A copy instruction completes with its operation behind those in the queue (R404). -/
def Enters (s : State) (i : Instr) (c : CopyCmd) (asks : List LockAsk) (t : State) : Prop :=
  Completes s i t ∧ t.myJob.copies = s.myJob.copies ++ [c] ∧ Registers s t c.id asks ∧ (∀ r : SReg, t.sreg r = s.sreg r) ∧
    t.me.arm = Arm.clear

/-- R402, R404 to R409: the copy operations enter the queue with their views, shape, scope and tag; one that reads and one that
writes a range register both. CP.Y leaves the stream suspended on its operation. A shape or a space out of range raises
ILLEGAL_INSTRUCTION. CP.WAIT goes on once no covered operation is left; CP.PF has no effect that software sees. -/
def Obligations.CopyOps : Prop :=
  ∀ (s : State) (d g t : BitVec 4) (r : SReg) (c : BitVec 3) (o : BitVec 6) (k l : BitVec 2) (x : BitVec 1)
    (h : CopyShape) (idx : List Nat),
    let dst := s.greg d
    let src := s.greg g
    let w : CopyRange := ⟨dst.viewSpace, (dst.span h).1, (dst.span h).2, true⟩
    let v : CopyRange := ⟨src.viewSpace, (src.span h).1, (src.span h).2, false⟩
    let op (o : CopyOp) := CopyCmd.make s o dst src h c t.toNat
    let room (rs : List CopyRange) := NoArm s ∧ EngineRoom s (rs.map CopyRange.ask) ∧ s.myJob.copiesQueued < 16 ∧
      ∀ q ∈ rs, q.refused s = false
    (h.total ≠ 0 → dst.space ≠ 3 →
      (src.space ≠ 3 → room [v, w] →
        (byteShape (s.sreg r) = some h → ∃ z, Enters s (.cp d g r c t) (op .linear) [v.ask, w.ask] z ∧ z.pc = s.advance.pc) ∧
        (wordShape false (s.sreg r) = some h → ∃ z, Enters s (.cp2d d g r c t) (op .plane) [v.ask, w.ask] z) ∧
        (wordShape true (s.sreg r) = some h → ∃ z, Enters s (.cp3d d g r c t) (op .volume) [v.ask, w.ask] z) ∧
        (k = 0#2 → byteShape (s.sreg r) = some h →
          ∃ z, Enters s (.cpY d g r c o k) (CopyCmd.make s .linear dst src h c 16) [v.ask, w.ask] z ∧
            z.me.frag.wait = .copy s.ticket (s.pc + BitVec.ofNat 64 (4 * o.toNat)) ∧ z.pc = s.pc)) ∧
      (room [w] → wordShape true (s.sreg r) = some h →
        ∃ z, Enters s (.cpFill d g r c t)
          (CopyCmd.make s (.fill (s.sreg (g.zeroExtend 6))) dst StreamReg.zero h c t.toNat) [w.ask] z)) ∧
    (wordShape false (s.sreg r) = some h → h.total ≠ 0 → dst.space ≠ 3 → src.space ≠ 3 →
      let iv := if x = 1#1 then dst else src
      let ov := if x = 1#1 then src else dst
      let plain : CopyRange := ⟨ov.viewSpace, (ov.span h).1, (ov.span h).2, x == 0#1⟩
      let list : CopyRange := ⟨iv.viewSpace, iv.listAt, iv.listAt + 4 * h.rows, false⟩
      let rows : CopyRange := ⟨iv.viewSpace, (iv.indexSpan h.rowBytes idx).1, (iv.indexSpan h.rowBytes idx).2, x == 1#1⟩
      iv.sideBase.toNat % 4 = 0 → readIndices s ⟨s.myJob.current, s.fragOp⟩ iv h.rows c.toNat = (.ok idx, s) →
      room [plain, list, rows] →
      ∃ z, Enters s (.cpG d g r c t x) { op (.indexed (x == 1#1)) with index := some idx }
        [list.ask, plain.ask, rows.ask] z) ∧
    (∀ crew n j, wordShape false (s.sreg r) = some h → dst.space = 2 → src.space ≠ 3 → s.myJob.current = some crew →
      mcastRanks dst = [n] → s.member crew n = some j →
      let wr : CopyRange := ⟨.peer n, (dst.span h).1, (dst.span h).2, true⟩
      let sem : CopyRange := ⟨.peer n, dst.sstride.toNat, dst.sstride.toNat + 4, true⟩
      (x = 1#1 → dst.sstride.toNat % 8 = 0) → room [v, wr] → (x = 1#1 → sem.refused s = false) →
      ∃ z, Enters s (.cpMc d g r c t x)
        { op (.multicast (x == 1#1)) with targets := [⟨n, 0, false⟩] } [v.ask, wr.ask] z ∧ z.myJob.ext = true) ∧
    (∀ crew, wordShape false (s.sreg r) = some h → dst.space = 2 → src.space ≠ 3 → s.myJob.current = some crew → NoArm s →
      v.refused s = false → (∀ n ∈ mcastRanks dst, s.member crew n = none) → mcastRanks dst ≠ [] →
      Traps s (.cpMc d g r c t x)
        { cause := causeMcastPartition
          space := 2
          lanes := some (BitVec.ofNat 128 (((mcastRanks dst).map fun n => 2 ^ n).sum)) }) ∧
    (dst.space % 3 ≠ 0 → dst.start dst.base % 8 = 0 → NoArm s → EngineRoom s [] → s.myJob.copiesQueued < 16 →
      (⟨dst.viewSpace, dst.start dst.base, dst.start dst.base + 4, true⟩ : CopyRange).refused s = false →
      ∃ z, Enters s (.cpSem d r t x) (CopyCmd.make s (.sem ((s.sreg r).truncate 32)
        ((s.myJob.covered t x).map fun c => c.id)) dst StreamReg.zero ⟨0, 0, 0⟩ 5#3 t.toNat) [] z ∧ z.myJob.ext = true) ∧
    (s.myJob.covered t x = [] →
      let mine (e : Nat × Nat) : Bool := x == 1#1 || e.1 == t.toNat
      let scope := ((s.myJob.cdone.filter mine).map fun e => e.2).foldl max 0
      Completes s (.cpWait t x) ((acquireAt s s.core scope).setJob fun j =>
        { j with cdone := j.cdone.filter fun e => !mine e }).advance) ∧
    (s.myJob.covered t x ≠ [] → Completes s (.cpWait t x) s.stall) ∧
    Completes s (.cpPf g r l) s.advance ∧
    (NoArm s → 2 ^ 32 < (s.sreg r).toNat → TrapsIllegal s (.cp d g r c t)) ∧
    (NoArm s → (bitsOf (s.sreg r) 63 56 ≠ 0 ∨ dst.space = 3) →
      TrapsIllegal s (.cp2d d g r c t) ∧ TrapsIllegal s (.cp3d d g r c t) ∧ TrapsIllegal s (.cpFill d g r c t))

/-! ### Rays, textures, passes, the ring -/

/-- The checks of a ray instruction on its records let it go on in this state (R354, R356). -/
def RecordsPass (s : State) (k : AccessKind) (lanes : List (Nat × Word)) (u : State) : Prop :=
  ∀ go : State → Result, withRecords s k lanes go = go u

/-- R415, R416, R417: RAY.Q submits the active lanes' rays in lane order, each in one step with its version pinned and returned in VD,
and stalls with the lanes that have gone marked when a slot or a version is missing; RAY.HIT returns
each lane's event; RAY.RES gives each lane's decision to its ray, a parked one as its record gives it; a decision of 4 or more raises ILLEGAL_INSTRUCTION. -/
def Obligations.RayForms : Prop :=
  ∀ (s u v w : State) (d a : VNum) (b : SReg) (p : BitVec 4) (rs : List Ray) (xs : List (Nat × Word × Nat))
    (tris : List (Nat × List Byte)) (ys : List (Nat × Ray × Nat)),
    let m := s.active p
    let lanes := laneAddrs s a b m
    let word (n l : Nat) := elemOf (s.vregAt d n) 32 l
    (let left := laneAddrs s a b (m &&& ~~~ s.me.frag.rayLanes)
     let marks (t : State) (k : LaneMask) : State := { t with me := { t.me with frag := { t.me.frag with rayLanes := k } } }
     RecordsPass s .write left u → (∀ k, readRays u left k = k v rs) →
      (rs = [] → Completes s (.rayQ d a b p) (marks v 0#128).advance) ∧
      (∀ r rest, rs = r :: rest →
        ((256 ≤ v.raysHeld v.core ∨ pinVersion v r.job.part r.ctx r.desc r.version = none) →
          Completes s (.rayQ d a b p) v.stall) ∧
        (v.raysHeld v.core < 256 → pinVersion v r.job.part r.ctx r.desc r.version = some w →
          let y := (submitRay w r).setLanes d 0 (mapElems 32 fun _ => r.version.toNat) (1#128 <<< r.lane)
          let x := marks y (y.me.frag.rayLanes ||| 1#128 <<< r.lane)
          (rest = [] → Completes s (.rayQ d a b p) (marks x 0#128).advance) ∧
          (∀ q, rest = [q] → 256 ≤ x.raysHeld x.core → Completes s (.rayQ d a b p) x.stall))) ∧
      ∃ (n : Nat) (t : State), n ≤ rs.length ∧ Completes s (.rayQ d a b p) t ∧
        t.guide.rays.length = v.guide.rays.length + n) ∧
    (RecordsPass s .read lanes u → (∀ k, readStates u lanes k = k v xs) →
      (∀ x ∈ xs, rayEvent v x.1 x.2.1 x.2.2 ≠ none) →
      ∃ t : State, Completes s (.rayHit d a b p) t.advance ∧ t.draw = v.draw + 128 ∧ t.guide.rays.length = v.guide.rays.length ∧
        ∀ l e, d.toNat + 3 < 32 → m.getLsbD l = true → l < 128 →
          (xs.map fun x => (x.1, rayEvent v x.1 x.2.1 x.2.2)).find? (fun y => y.1 == l) = some (l, some e) →
          ∀ k < 4, elemOf (t.me.vreg (d.toNat + k)) 32 l = e.getD k 0 % 2 ^ 32) ∧
    ((∀ x ∈ lanes, word 0 x.1 / 2 ^ 24 < 4) → RecordsPass s .write lanes u →
      (∀ x ∈ lanes, ∀ r, u.rayAt x.2 = some r → r.phase ≠ .parking) →
      (u.raysHeld u.core + (parkedLanes u lanes).length ≤ 256 ∨ parkedLanes u lanes = []) →
      (∀ k, readParked u word (parkedLanes u lanes) k = k v ys) → (∀ k, readTriangles v word ys k = k w tris) →
      Completes s (.rayRes d a b p) (lanes.foldl (resolveLane word ys tris) w).advance) ∧
    ((∃ x ∈ lanes, 4 ≤ word 0 x.1 / 2 ^ 24) → TrapsIllegal s (.rayRes d a b p)) ∧
    (∀ (r : Ray) (t prim x y : BitVec 32), (r.decide_ 0 t prim x y).phase = .traversing ∧ (r.decide_ 0 t prim x y).best = r.best ∧
      (r.decide_ 2 t prim x y).stack = [])

/-- R187, R419: TEX reads its descriptor and the texels of the active lanes, and writes one register for each component; a reserved
descriptor raises ILLEGAL_TYPE, a destination that is not aligned to its group ILLEGAL_INSTRUCTION. A lane with a NaN coordinate
receives NaN, and a border texel is zero. -/
def Obligations.TextureForms : Prop :=
  ∀ (s u v w : State) (d a : VNum) (b : SReg) (p : BitVec 4) (bs : List Byte) (read : List (Nat × List Byte)),
    let t := Texture.ofBytes bs
    let m := s.active p
    let coords (n l : Nat) := (List.range n).map fun c => fp32.decode (elemOf (s.vregAt a c) 32 l)
    let fetch (l : Nat) : Sample := .texel (t.spot (toInt 32 true (elemOf (s.vregAt a 0) 32 l))
      (toInt 32 true (elemOf (s.vregAt a 1) 32 l)) (toInt 32 true (elemOf (s.vregAt a 2) 32 l)))
    let samples (f : Nat → Sample) := (lanesOf m).map fun l => (l, f l)
    let spots (f : Nat → Sample) :=
      sortBy (fun (x y : Nat) => decide (x ≤ y)) ((samples f).flatMap fun x => x.2.spots).eraseDups
    let pieces (f : Nat → Sample) := ((spots f).flatMap fun x => rangePieces 2 x t.bytes).eraseDups
    let passes (f : Nat → Sample) := u.mustWait ((pieces f).map fun q => (0, BitVec.ofNat 64 q.1)) = false ∧
      checkPieces textureUnit u (pieces f) = .ok v ∧ ∀ k, readTexels v t.bytes (spots f) k = k w read
    let gives (i : Instr) (f : Nat → Sample) := passes f → ∃ z : State, Completes s i z.advance ∧ z.draw = w.draw + 512 ∧
      ∀ c < t.comps, ∀ l < 128, d.toNat + 3 < 32 → m.getLsbD l = true →
        elemOf (z.me.vreg (d.toNat + c)) 32 l = (f l).value t read c (w.draw + 4 * l + c) % 2 ^ 32
    ((s.sreg b).toNat % 32 = 0 → ReadsBytes s 1 (s.sreg b) 32 bs u → u.me = s.me →
      (t.reserved = false → d.toNat % t.comps = 0 →
        gives (.tex2d d a b p) (fun l => filtered t 2 (coords 2 l)) ∧
        gives (.tex3d d a b p) (fun l => filtered t 3 (coords 3 l)) ∧ gives (.texFetch d a b p) fetch) ∧
      (t.reserved = true → ∀ i ∈ ([.tex2d d a b p, .tex3d d a b p, .texFetch d a b p] : List Instr),
        Completes s i (takeFault u { cause := causeIllegalType, engine := some 5 })) ∧
      (t.reserved = false → d.toNat % t.comps ≠ 0 →
        ∀ i ∈ ([.tex2d d a b p, .tex3d d a b p, .texFetch d a b p] : List Instr),
        Completes s i (takeFault u { cause := causeIllegalInstruction }))) ∧
    (Sample.value .nan t read 0 0 = 0x7FC00000 ∧ Sample.value (.texel none) t read 0 0 = 0)

/-- R172, R412, R413: PRIM.OPEN opens a pass, of which a partition has one at a time; PRIM.EMIT sends the active lanes' triangles in
ascending order, PRIM.END an end form; VIS.LD reads a final bin's entries into three registers, and its releasing form gives
the store back. GUIDE.OUT takes a slot of its ring and sends the bin (R414). -/
def Obligations.PassForms : Prop :=
  ∀ (s u v : State) (d a e : VNum) (b c : SReg) (p : BitVec 4) (ds tab : List Byte) (q : Pass) (x : VisStore),
    let m := s.active p
    let plain := s.me.whole = true ∨ s.me.isVector = false
    let arrived (ps : List Primitive) : State := { s with guide := { s.guide with arrivals := s.guide.arrivals ++ ps } }
    (plain → (s.sreg b).toNat % 64 = 0 → ReadsBytes s 5 (s.sreg b) 64 ds u →
      ReadsBytes u 5 (BitVec.ofNat 64 (imageField ds 0x20 8)) 256 tab v → passOf v (s.sreg b) ds tab = some q →
      (v.openPass v.part = none →
        ∃ t : State, Completes s (.primOpen b) t.advance ∧ t.guide.passes = v.guide.passes ++ [q]) ∧
      (v.openPass v.part ≠ none → Completes s (.primOpen b) (takeFault v { cause := causePermission, addr := s.sreg b }))) ∧
    (s.openPass s.part ≠ none →
      Completes s (.primEmit d a e p) (arrived ((lanesOf m).map fun l =>
        ⟨s.part, false, laneOf (s.vreg d) l,
          ((List.range 8).map fun k => laneOf (s.vregAt a k) l) ++ [laneOf (s.vregAt e 0) l],
          laneOf (s.vregAt e 1) l⟩)).advance ∧
      (plain → Completes s .primEnd (arrived [⟨s.part, true, 0#32, [], 0#32⟩]).advance)) ∧
    (s.openPass s.part = none → Traps s (.primEmit d a e p) { cause := causePermission }) ∧
    (s.me.whole = false → s.me.isVector = true →
      TrapsIllegal s (.primOpen b) ∧ TrapsIllegal s .primEnd ∧ TrapsIllegal s (.guideOut d b c)) ∧
    (let bx := bitsOf (s.sreg b) 15 0
     let by_ := bitsOf (s.sreg b) 31 16
     let bin := by_ * q.binsWide + bx
     s.guide.passes.reverse.find? (fun q => q.part == s.part && q.seq.toNat == bitsOf (s.sreg b) 63 32) = some q →
     bx < q.binsWide → by_ < q.binsHigh → bin < q.nextBin →
     s.guide.stores.find? (fun y => y.pass == q.id && y.bin == bin) = some x →
     (∃ t w : State, Completes s (.visLd d a b p) t.advance ∧ Completes s (.visLdRel d a b p) w.advance ∧
       t.guide = s.guide ∧ w.me = t.me ∧ (∀ y ∈ w.guide.stores, y.pass ≠ q.id ∨ y.bin ≠ bin) ∧
       ∀ l < 128, m.getLsbD l = true → d.toNat + 2 < 32 → ∀ k < 3,
         elemOf (t.me.vreg (d.toNat + k)) 32 l =
           (tableGet x.entries (elemOf (s.vreg a) 32 l % 1024) emptyEntry).toNat / 2 ^ (32 * k) % 2 ^ 32)) ∧
    (s.guide.passes = [] →
      Traps s (.visLd d a b p) { cause := causePermission } ∧ Traps s (.visLdRel d a b p) { cause := causePermission }) ∧
    (∀ (id : JobId) (l : Launch) (j : Job),
      let me := s.myJob.id
      let at_ := (s.sreg b).toNat
      let src := (s.sreg c).toNat
      let r := Ring.ofBytes (s.poolRead me at_ 32)
      plain → checkAccess s ⟨.scratch, .write, 32, 32, false⟩ [(0, s.sreg b)] = .ok (s, [(0, .pool me at_)]) →
      checkAccess s ⟨.scratch, .read, 16384, 256, false⟩ [(0, s.sreg c)] = .ok (s, [(0, .pool me src)]) →
      r.wellFormed = true → r.freeOff + 8 ≤ s.myJob.grant →
      namedJob s s.part r.launch r.job = some (l, id, some j) → j.away = false →
      aditJoins (coreDie s.core) j.die = true → r.fits j.grant = true →
      s.poolNat me r.freeOff 4 ≠ 0 → s.behind (semTicket r.freeOff) = false →
      EngineRoom s [⟨.scratch, src, src + 16384, false⟩] →
      ∃ t : State, Completes s (.guideOut d b c) t.advance ∧
        t.guide.sends = s.guide.sends ++ [⟨s.ticket, me, id, r.ringOff, r.tagOff, r.fullOff, src, r.next, s.sreg d⟩])

/-! ### Words -/

/-- R238, R243 to R252: words written out from the formats and from the worked examples of R266 and R253, with what the engines read
in them; a blank word, a reserved major, a reserved field, a forbidden combination and a unit that a tile lacks are refused
by name. -/
def Obligations.DecodedWords : Prop :=
  decode .tile .control 0x02084180#32 = .instr (.add 1#6 2#6 3#6) ∧
  decode .tile .matrix 0x0828DFFF#32 = .instr (.addi 5#6 6#6 0x1FFF#13) ∧
  decode .tile .vector 0x28A3FFFE#32 = .instr (.bc 5#4 7#6 0x7FFE#15) ∧
  decode .tile .copy 0x2F005009#32 = .instr (.loopi 2#2 5#11 9#12) ∧
  decode .management .control 0x25FFFFFF#32 = .instr (.b 0x1FFFFFF#25) ∧
  decode .tile .control 0x805020E1#32 = .instr (.ld 10#6 1#6 1#6 3#2 0#1 0#1 1#3) ∧
  decode .tile .control 0x80189FDD#32 = .instr (.ld 3#6 4#6 0x3F#6 2#2 1#1 1#1 5#3) ∧
  decode .tile .control 0x82616061#32 = .instr (.st 12#6 11#6 0#6 3#2 0#1 1#3) ∧
  decode .tile .control 0x880841FB#32 = .instr (.atomAdd 1#6 2#6 3#6 3#2 6#3 1#1 1#1) ∧
  decode .tile .control 0x9A00001A#32 = .instr (.fenceRel 5#3) ∧
  decode .tile .vector 0x8020A310#32 = .instr (.fadd 4#6 5#6 6#6 2#4 0#3) ∧
  decode .tile .vector 0x86084182#32 = .instr (.ffma 1#6 2#6 3#6 0#4 2#3) ∧
  decode .tile .vector 0xA31882B1#32 = .instr (.icmp 2#2 3#4 4#6 5#6 6#4 1#3) ∧
  decode .tile .vector 0xC0604080#32 = .instr (.vbr 3#4 16#11 128#10) ∧
  decode .tile .vector 0xD0392805#32 = .instr (.vld 7#6 9#6 2#3 0#4 0#2 0#1 5#3) ∧
  decode .tile .vector 0xDC20AC3A#32 = .instr (.vatom 4#6 5#6 3#3 0#4 3#2 5#3 0#1) ∧
  decode .tile .vector 0xAA1092E1#32 = .instr (.cvt 2#6 4#6 1#1 1#3 0#1 7#3 1#3) ∧
  decode .tile .matrix 0x8A427C40#32 = .instr (.mloop 2#4 1#4 3#4 3#2 1#1 64#10) ∧
  decode .tile .copy 0x80241D00#32 = .instr (.cp 1#4 2#4 3#6 5#3 0#4) ∧
  decode .tile .control 0x00000004#32 = .instr .exit ∧
  decode .tile .control 0x00000000#32 = .reject .blankWord ∧ decode .guide .vector 0xFFFFFFFF#32 = .reject .blankWord ∧
  decode .tile .vector 0xE4000000#32 = .reject .absentUnit ∧ decode .tile .vector 0xEE000000#32 = .reject .unassigned ∧
  decode .tile .control 0x00000001#32 = .instr .nop ∧ decode .tile .control 0x00080001#32 = .reject .unassigned ∧
  decode .tile .control 0x80000071#32 = .reject .forbidden

/-- R238 to R253: every well-formed instruction's word decodes, on an engine that owns its half and a core that has its unit, to that
instruction, with every operand at every value; and a word that decodes to an instruction is that instruction's word, which
is well formed: no bit of a word goes unread. -/
def Obligations.DecodeEncode : Prop :=
  (∀ (i : Instr) (w : BitVec 32), wellFormed i = true → encode i = some w →
    ∃ e : Engine, decode .guide e w = .instr i ∧
      ((e ≠ .vector ∨ guideMajor w = false) → ∀ k : CoreKind, decode k e w = .instr i) ∧
      (w.extractLsb' 31 1 = 0#1 → ∀ (f : Engine) (k : CoreKind), decode k f w = .instr i)) ∧
  ∀ (k : CoreKind) (e : Engine) (w : BitVec 32) (i : Instr), decode k e w = .instr i →
    encode i = some w ∧ wellFormed i = true

/-! ### Steps -/

/-- A step takes the first turn of the agenda. A whole step of the part is its meaning with its argument. An issue turn fetches the
word at the fragment's program counter and runs the instruction that it decodes to, once the checks before it let it:
ILLEGAL_UNIT and ILLEGAL_INSTRUCTION for words that are none (R252), a wait while a register is pending (R205). Vector streams
have their split-table entries and registers brought in first (R203, R198). A fragment whose word has completed at a loop end goes
on once the register that decides is ready (R299). One that waits is only offered: what its
instruction would do shows whether it waits on or is woken (R206). With nothing on the agenda time goes on; without power
nothing happens. -/
def Obligations.StepRunsDecoded : Prop :=
  ∀ (s : State) (rest : List Turn),
    let u : State := { s with agenda := rest }
    (∀ i a, s.agenda = .event i a :: rest → step s = exec i { u with arg := a }) ∧
    (∀ (id : StreamId) (n : Nat) (st : Stream) (f : Frag) (bs : List Byte),
      s.agenda = .issue id n :: rest → u.stream id = some st → (st.frag :: st.frags).find? (fun g => g.id == n) = some f →
      u.mayIssue st f = true →
      let t := u.select id n
      let present := t.me.isVector = true → t.me.wantsEntry = none
      (f.wait = .loopEnd → step s = .next (if t.me.loopPending then u else { t with me := t.me.goOn })) ∧
      (f.wait ≠ .loopEnd → t.fetch = some bs →
      (∀ i, decodeBytes (coreKind t.core) t.me.engine bs = .instr i → t.scoreboardHolds i = false →
        let runs (v : State) : Prop :=
          let before := beforeIssue v
          (u.offered id n = none → step s = exec i before) ∧
          ∀ w, u.offered id n = some (st, f) → exec i before = .next w → step s = .next (afterPoll u st f w)
        (t.me.isVector = false → runs t) ∧
        (∀ v, t.me.isVector = true → t.me.wantsEntry = none →
          (t.me.frag.ready && t.forbiddenLoopEnd && t.fallsThrough i) = false → t.splitNeed i = none →
          residence 64 t (t.needs i) = .ready v → runs v)) ∧
      (present → decodeBytes (coreKind t.core) t.me.engine bs = .reject .absentUnit →
        step s = .next (takeFault t { cause := causeIllegalUnit })) ∧
      (∀ r, present → r ≠ .absentUnit → decodeBytes (coreKind t.core) t.me.engine bs = .reject r →
        step s = .next (takeFault t { cause := causeIllegalInstruction })) ∧
      (∀ i, present → decodeBytes (coreKind t.core) t.me.engine bs = .instr i →
        t.scoreboardHolds i = true → step s = .next t))) ∧
    (s.agenda = [] → s.sys.boot ≠ .off → step s = .next (tick s)) ∧
    (s.agenda = [] → s.sys.boot = .off → step s = .fault .unpowered) ∧
    (∀ (id : StreamId) (n : Nat), s.agenda = .issue id n :: rest → u.stream id = none → step s = .next u)

/-- No instruction and no step of the part stops: a step answers a next state, but for a module without power that has nothing on
its agenda (R134, R135). Exceptions are taken, waits wait, and open values are free values. -/
def Obligations.StepGoesOn : Prop :=
  ∀ s : State, (∃ t : State, step s = .next t) ∨ (s.agenda = [] ∧ s.sys.boot = .off ∧ step s = .fault .unpowered)

/-- The live fragments and the regions of a diverged vector stream (R201, R202): fragments of distinct identities with lanes, no lane in
two of them or in one and among a region's arrived lanes, at depths up to 63; no lane arrived at two regions, nor waited for by two of one
depth; every region of depth 1 to 63 still waits for a lane, which has not arrived at it. A fragment's lanes are all waited for by one
region of each depth up to its own, a region's by one of each depth below its own; and a lane that is waited for lies in a fragment at
that depth or deeper, or has arrived at a deeper region. -/
def SplitForm (fs : List Frag) (rs : List Region) : Prop :=
  (fs.map fun f => f.id).Nodup ∧ (∀ f ∈ fs, f.mask ≠ 0#128 ∧ f.depth ≤ 63) ∧ fs.Pairwise (fun f g => f.mask &&& g.mask = 0#128) ∧
    (∀ f ∈ fs, ∀ r ∈ rs, f.mask &&& r.arrived = 0#128) ∧
    rs.Pairwise (fun q r => q.arrived &&& r.arrived = 0#128 ∧ (q.depth = r.depth → q.waiting &&& r.waiting = 0#128)) ∧
    (∀ r ∈ rs, 1 ≤ r.depth ∧ r.depth ≤ 63 ∧ r.waiting ≠ 0#128 ∧ r.waiting &&& r.arrived = 0#128) ∧
    (∀ f ∈ fs, ∀ k, 1 ≤ k → k ≤ f.depth → ∃ r ∈ rs, r.depth = k ∧ f.mask &&& ~~~r.waiting = 0#128) ∧
    (∀ q ∈ rs, ∀ k, 1 ≤ k → k < q.depth → ∃ r ∈ rs, r.depth = k ∧ (q.waiting ||| q.arrived) &&& ~~~r.waiting = 0#128) ∧
    (∀ r ∈ rs, ∀ l < 128, r.waiting.getLsbD l = true →
      (∃ f ∈ fs, r.depth ≤ f.depth ∧ f.mask.getLsbD l = true) ∨ (∃ q ∈ rs, r.depth < q.depth ∧ q.arrived.getLsbD l = true))

/-- A stream has at most one active slot of each of its four loop counters (R298), and a vector stream that has not ended divides its lanes
as SplitForm says; inside a bracket it is one fragment at depth 0, and what WHOLE saved has that form (R204). -/
def StreamForm (st : Stream) : Prop :=
  (st.loops.map fun l => l.lc).Nodup ∧ (∀ l ∈ st.loops, l.lc < 4) ∧
    (st.isVector = true → st.ended = false →
      (st.bracket = none → SplitForm (st.frag :: st.frags) st.regions) ∧
      ∀ b, st.bracket = some b → SplitForm b.frags b.regions ∧ st.undiverged = true)

/-- A job counts at most 16 in each token FIFO (R302) and is in at most four crews, none of them twice (R304). -/
def JobForm (j : Job) : Prop :=
  (∀ k, j.token k ≤ 16) ∧ (j.crews.map fun h => h.crew).Nodup ∧ j.crews.length ≤ 4

/-- Two jobs of one launch hold no rank of a crew in common (R304). -/
def DistinctRanks (i j : Job) : Prop :=
  i.id.part = j.id.part → i.id.acc = j.id.acc → ∀ g ∈ i.crews, ∀ h ∈ j.crews, g.crew = h.crew → g.rank ≠ h.rank

/-- The form of every stream and every job. -/
def AgentForm (s : State) : Prop :=
  (∀ st ∈ s.me :: s.streams, StreamForm st) ∧ (∀ j ∈ s.myJob :: s.jobs, JobForm j) ∧ (s.myJob :: s.jobs).Pairwise DistinctRanks

/-- Every step keeps both memories in canonical form: addresses strictly rising, no byte listed that an unlisted address reads as.
Equal memories are then equal data, whichever instructions, engines, units and host wrote them. Every step keeps the form of the
streams and of the jobs too: loop slots, fragments and regions, token counts, crews and their ranks (R201, R202, R298, R302, R304). -/
def Obligations.StateFormKept : Prop :=
  ∀ s t : State, step s = .next t → (MemoryForm s → MemoryForm t) ∧ (AgentForm s → AgentForm t)

/-- R58, R116, R134, R146, R240, R241: the module after reset. Both memories read zero and stand in canonical form; every stream register,
loop counter and predicate reads zero, p0 all ones; registers of the register space read the reset values of their tables;
nothing is resident, and management core 0 is about to run the boot ROM. What no rule states is the model's choice (log
entries 1, 2 and 4). -/
def Obligations.ResetState : Prop :=
  let s := State.reset
  MemoryForm s ∧ AgentForm s ∧ (∀ a, cellGet s.mm.mem a = 0#8 ∧ cellGet s.mm.hostMem a = 0#8) ∧ (∀ n : SReg, s.sreg n = 0#64) ∧
    (∀ n, s.me.lc n = 0#64) ∧ (∀ n, n ≠ 0 → s.me.pred n = 0#128) ∧ s.me.rrb = 0#5 ∧ s.pc = 0#64 ∧ s.isMgmt = true ∧
    s.agenda = [.event .moduleReset {}] ∧ s.sys.boot = .off ∧ s.jobs = [] ∧ s.sch.launches = [] ∧ s.mm.tlb = [] ∧
    s.net.txns = [] ∧ s.time.ns = 0#64 ∧ s.time.frac = 0#24 ∧
    s.reg 0 = 0x0009000100000000#64 ∧ s.reg (prtReg 0) = 0xE4#64 ∧ s.reg (prtReg 0x040) = 0x0071#64 ∧
    s.reg (prtReg 0x048) = 0x0382#64 ∧ s.reg (prtReg 0x050) = 0x1C04#64 ∧ s.reg (prtReg 0x058) = 0xE008#64 ∧
    s.reg (memReg 0x200) = 0x0800#64 ∧ s.reg (memReg 0x208) = 0xC0#64 ∧ s.reg (bootReg 0x050) = 0x0C80#64 ∧
    ∀ q, q < 4 → s.reg (schReg q 0x008) = 0x40000000#64 ∧ s.reg (govReg q 0x008) = 0x07A120#64

/-! ### Exceptions -/

/-- R170, R211, R213, R298, R313, R436: taking an exception on a job's stream, and the return from one. Causes 4 to 9 are parked for
replay, 10, 14 and 15 parked behind, the others end the job; the record holds the cause, the instruction's address and what
identifies the stream, and joins those to be posted; a parked fragment keeps its program counter and registers. On the return with
DISP 0 the fragment executes its instruction again, with DISP 1 it goes on behind it, where the loop slots that end there are
evaluated; one that a failed reply parked goes on where it stands. A fragment parked more than once goes on with the return
under its last record. -/
def Obligations.FaultEntryAndReturn : Prop :=
  (∀ (s : State) (f : FaultInfo),
    let disp := dispOf f.cause
    let r := faultRecord s f disp
    let part := s.myJob.id.part
    let posted (t : State) (item : ParkedItem) (ends : Option JobId) : State := { t with
      sch := { s.sch with records := s.sch.records ++ [⟨part, r, item, ends, none⟩] },
      agenda := s.agenda ++ [.event .faultRecordPost { a := part }] }
    (InJob s → s.field (snpReg 0x010) f.cause f.cause ≠ 1 →
      (disp < 2 → s.me.frag.parked = none → takeFault s f = posted { s with
          ticket := s.ticket + 1
          me := { s.me with frag :=
            { s.me.frag with wait := .running, parked := some ⟨disp, s.time.ns, f.kind, false, s.ticket⟩ } } }
        (.frag s.me.id s.me.frag.id s.ticket) none) ∧
      (disp < 2 → s.me.frag.parked ≠ none → takeFault s f = posted { s with
          ticket := s.ticket + 1
          me := { s.me with frag :=
            { s.me.frag with behind := s.me.frag.behind ++ [⟨disp, s.time.ns, f.kind, false, s.ticket⟩] } } }
        (.frag s.me.id s.me.frag.id s.ticket) none) ∧
      (disp = 2 → takeFault s f = posted { s with myJob := { s.myJob with hardStop := true } } .nothing
        (some s.myJob.id))) ∧
    (InJob s → f.pc = none → f.engine = none →
      r.cause = f.cause ∧ r.disp = disp ∧ r.pc = s.pc ∧ r.addr = f.addr ∧ r.kind = f.kind ∧ r.space = f.space ∧
      r.akind = f.akind ∧ r.strmid = s.me.id.strm ∧ r.job = s.myJob.id.job ∧ r.launch = s.myJob.id.acc % 2 ^ 32 ∧
      r.tag = s.myJob.tag ∧ r.ctx = s.myJob.ctx.toNat ∧ r.relaunches = s.myJob.relaunches ∧ r.ctxBase = s.myJob.ctxBase ∧
      r.cycles = s.myJob.canary ∧ (s.me.isVector = true → f.lanes = none → r.mask = s.mask) ∧
      (s.me.isVector = false → f.lanes = none → r.mask = 0#128)) ∧
    (∀ c, (4 ≤ c ∧ c ≤ 9 → dispOf c = 0) ∧ (c = 10 ∨ c = 14 ∨ c = 15 → dispOf c = 1) ∧
      ((1 ≤ c ∧ c ≤ 3) ∨ (11 ≤ c ∧ c ≤ 13) → dispOf c = 2)) ∧
    (let bs := recordBytes r
     bs.length = 128 ∧ imageField bs 0 1 = r.cause % 2 ^ 8 ∧ imageField bs 1 1 = r.disp % 2 ^ 8 ∧
     imageField bs 2 1 = r.engine % 2 ^ 8 ∧ imageField bs 4 2 = r.strmid % 2 ^ 16 ∧ imageField bs 8 4 = r.job % 2 ^ 32 ∧
     imageField bs 0x0C 4 = r.launch % 2 ^ 32 ∧ imageField bs 0x18 8 = r.pc.toNat ∧ imageField bs 0x20 8 = r.addr.toNat ∧
     imageField bs 0x28 8 = r.tag.toNat ∧ imageField bs 0x38 16 = r.mask.toNat ∧ imageField bs 0x58 4 = r.nfrag % 2 ^ 32)) ∧
  (∀ (s : State) (p q : Park) (rest : List Park) (no : Nat),
    let t := s.resumeFrag s.me.id s.me.frag.id no
    let awake : State := { s with me := { s.me with frag := { s.me.frag with parked := none } } }
    (s.me.frag.parked = some p → p.no = no → s.me.frag.behind = [] →
      (p.disp ≠ 1 → t = awake) ∧ (p.disp = 1 → t = awake.advance) ∧
      (p.disp = 1 → NoLoopEnd s → NoReconvergence s (s.pc + 4#64) → t.pc = s.pc + 4#64 ∧ t.me.frag.parked = none)) ∧
    (s.me.frag.parked = some p → p.no = no → s.me.frag.behind = q :: rest →
      t = { s with me := { s.me with frag :=
        { s.me.frag with parked := some { q with disp := p.disp }, behind := rest } } }) ∧
    (s.me.frag.parked = some p → p.no ≠ no → t.me.frag.parked = some p ∧ t.pc = s.pc) ∧
    (s.me.frag.parked = none → t = s) ∧
    SameMemory s t ∧ OnlyStream s t ∧ ∀ r : SReg, t.sreg r = s.sreg r)

/-- R435: a management core's exception parks it for every cause, and its record joins those to be posted. Posting, once the core's
earlier record has been disposed of (log entry 154), its accesses have performed and a release at .dev is done, writes the
record to the management fault area, which BASE names, at 128 bytes a core, and sets PEND. While BASE is zero no byte of
memory changes. -/
def Obligations.ManagementFault : Prop :=
  (∀ (s : State) (f : FaultInfo),
    let disp := dispOf f.cause
    let t := takeFault s f
    s.isMgmt = true → s.field (snpReg 0x010) f.cause f.cause ≠ 1 → s.me.frag.parked = none →
      t.me.frag.parked = some ⟨disp, s.time.ns, f.kind, false, s.ticket⟩ ∧ t.pc = s.pc ∧
      (∀ r : SReg, t.sreg r = s.sreg r) ∧ t.mm = s.mm ∧ t.sys = s.sys ∧ t.jobs = s.jobs ∧
      t.sch.records = s.sch.records ++
        [⟨4 + (s.core - 544), faultRecord s f disp, .frag s.me.id s.me.frag.id s.ticket, none, none⟩] ∧
      t.agenda = s.agenda ++ [.event .faultRecordPost { a := 4 + (s.core - 544) }]) ∧
  ∀ (s : State) (n no : Nat) (id : StreamId) (fr : Nat) (r : PendingRecord),
    let base := s.field (bootReg 0x058) 51 9 * 512
    let at_ := base + 128 * n
    let v := releaseAt s (544 + n) 5
    s.arg.a = 4 + n → n < 4 → s.sch.records.find? (fun x => x.part == 4 + n) = some r → r.item = .frag id fr no →
      (∀ p ∈ s.sys.mgmtPark, p.1 ≠ n) → (∀ t ∈ s.net.txns, t.strm ≠ ⟨.mgmt n, 0⟩) →
      releasedAt v (544 + n) 5 = true → v.hostHolds at_ = false →
      ∃ t : State, Completes s .faultRecordPost t ∧ t.field (bootReg 0x058) n n = 1 ∧
        t.sch.records = s.sch.records.erase r ∧
        (base = 0 → t.mm = v.mm) ∧
        (base ≠ 0 → (∃ p ∈ t.sys.mgmtPark, p.1 = n ∧ p.2.time = s.dtb 6 ∧ p.2.no = no) ∧
          (v.poisonedLine (at_ / 128) = false → v.uncommittedAt at_ = false →
            cellsGet t.mm.mem at_ 128 = recordBytes { r.record with time := s.dtb 6 }) ∧
          ∀ a, a < at_ ∨ at_ + 128 ≤ a → cellGet t.mm.mem a = cellGet v.mm.mem a)

/-! ### Whole steps of the part -/

/-- R24, R62, R134 to R137, R146: the starts of the module, the flash commands and attestation. Three failed attempts leave the
module in minimal mode; else the boot ROM raises the counter and ends at the first failing check with its FAIL code, or
runs the firmware of the first slot that verifies. A start that fails, and a restart, leave the module at reset with its
flash and the host's memory, and BOOT_STAT.STOP tells why. -/
def Obligations.StartEvents : Prop :=
  ∀ s : State,
    let f := s.sys.flash
    let b := s.arg.boot
    let again (t : State) : Prop :=
      (∃ c : BootInput, t.agenda = [.event .moduleReset { boot := c }]) ∧ t.sys.boot = .off ∧ t.mm.mem = [] ∧
        t.mm.hostMem = s.mm.hostMem ∧ t.jobs = []
    let fails (t : State) (n : BitVec 8) : Prop :=
      again t ∧ t.sys.flash = { f with attempts := f.attempts + 1#8, fail := n, stop := 5#8 }
    let runs (t : State) (image : List Host.Cell) : Prop :=
      t.sys.firmware = image ∧ t.sys.boot = .awaitGood 0 ∧ t.field (bootReg 0) 39 36 = 8 ∧ t.agenda = []
    let busy (t : State) : Prop :=
      t.field (bootReg 0x048) 63 63 = 1 ∧ t.agenda = s.agenda ++ [.event .flashOpDone {}]
    (∀ i, i = Instr.powerOn ∨ i = .moduleReset →
      (3 ≤ f.attempts.toNat → ∃ t : State, Completes s i t ∧ t.sys.boot = .minimal ∧ t.sys.flash = f ∧ t.agenda = [] ∧
        t.mm.mem = [] ∧ t.field (bootReg 0) 0 0 = 1 ∧ t.field (bootReg 0) 63 56 = f.attempts.toNat) ∧
      (f.attempts.toNat < 3 → ∃ t : State, Completes s i t ∧
        (if Config.recordValid (cellsGet f.record 0 0x320) (cellsGet f.record 0x320 1280) = false then fails t 1#8
         else if f.malformed = true then fails t 2#8
         else if f.seedHolds = false then fails t 3#8
         else if b.linkFail = true then fails t 5#8
         else b.phyFail = [] → b.lostZeroing = [] → (∀ k, k < 28 → f.member k = (0, 0)) →
           if b.zeroTimeout = true then t.field (bootReg 0) 39 36 = 6 ∧ t.agenda = [.event .zeroingTimeout {}]
           else if Config.firmwareValid f.slotA = true then runs t f.slotA
           else if Config.firmwareValid f.slotB = true then runs t f.slotB
           else fails t 6#8))) ∧
    (∃ t : State, Completes s .hostReset t ∧ again t ∧ (s.sys.stopped = false → t.sys.flash = { f with stop := 1#8 })) ∧
    (∃ t : State, Completes s .powerLoss t ∧ t.agenda = [] ∧ t.sys.boot = .off ∧ t.mm.mem = [] ∧
      (s.sys.stopped = false → t.sys.flash = { f with stop := 0#8 })) ∧
    (s.field (bootReg 0) 39 36 = 6 → s.sys.boot = .off →
      ∃ t : State, Completes s .zeroingTimeout t ∧ again t ∧ t.sys.flash.fail = 8#8) ∧
    (s.started = true →
      Completes s .bootGood { s with sys := { s.sys with boot := .good, flash := { f with attempts := 0#8 } } } ∧
      ∃ t : State, Completes s .bootRestart t ∧ again t ∧ (s.sys.stopped = false → t.sys.flash = { f with stop := 2#8 })) ∧
    (∀ n, s.sys.boot = .awaitGood n →
      let limit := n + s.field (bootReg 0x010) 47 32 * 1000000 * Config.ticksPerMicrosecond
      (s.time.ticks < limit → Completes s .bootGoodTimeout s) ∧
      (limit ≤ s.time.ticks → ∃ t : State, Completes s .bootGoodTimeout t ∧ again t ∧ t.sys.flash.fail = 7#8)) ∧
    (s.sys.boot = .minimal → ∃ t : State, Completes s .bootClrcnt t ∧ again t ∧ t.sys.flash.attempts = 0#8 ∧
      (s.sys.stopped = false → t.sys.flash.stop = 6#8)) ∧
    (∃ t : State, Completes s .flashEraseB t ∧ busy t ∧ t.sys.flash = { f with slotB := [] }) ∧
    (∃ t : State, Completes s .flashProgram t ∧ busy t ∧
      t.sys.flash = { f with slotB := cellsSet f.slotB (4096 * s.arg.a) (cellsGet s.sys.flashBuf 0 4096) }) ∧
    (∃ t : State, Completes s .flashVerifyB t ∧ busy t ∧
      t.sys.flash = if Config.firmwareValid f.slotB then { f with slotA := f.slotB, slotB := f.slotA } else f) ∧
    (∀ op r, s.sys.flashOp = some (op, r) → r < 4 → ∃ t : State, Completes s .flashOpDone t ∧ t.sys.flashOp = none ∧
      t.field (bootReg 0x048) 63 63 = 0 ∧ t.field (bootReg 0x048) 62 61 = if s.arg.flag then 2 else r) ∧
    (s.sys.boot = .minimal → Completes s .quoteRequest s) ∧
    (s.sys.boot ≠ .minimal → s.field (bootReg 0x020) 63 63 = 0 →
      let out := bitsOf s.arg.v 51 6 * 64
      (hbmTop < out + 0x600 → ∃ t : State, Completes s .quoteRequest t ∧ t.field (bootReg 0x020) 62 62 = 1 ∧
        t.sys.quote = s.sys.quote) ∧
      (out + 0x600 ≤ hbmTop → ∃ t : State, Completes s .quoteRequest t ∧ t.sys.quote = some (BitVec.ofNat 64 out) ∧
        t.field (bootReg 0x020) 63 63 = 1 ∧ t.agenda = s.agenda ++ [.event .quoteDone {}])) ∧
    (∀ out, s.sys.quote = some out → (∀ k, k < 13 → s.hostHolds (out.toNat + 128 * k) = false) →
      ∃ t : State, Completes s .quoteDone t ∧ t.sys.quote = none ∧
      t.field (bootReg 0x020) 63 63 = 0 ∧
      t.mm = (sliceWrite s out.toNat 
        (quoteHead s ++ zeroPadded 1280 (Config.quoteSignature s.sys.flash.seed (quoteHead s)))).mm)

/-- R18 to R22, R129, R130, R144 to R146: clocks and power, the snapshot trigger, and the disciplining of the DTB. -/
def Obligations.PlatformEvents : Prop :=
  ∀ s : State,
    let p := s.sys.power
    let a := s.arg
    let cap := capWatts (s.field (bootReg 0x050) 15 0)
    (∃ t : State, Completes s .powerCapWrite t ∧ t.field (bootReg 0x050) 15 0 = bitsOf a.v 15 0) ∧
    (∃ t : State, Completes s .powerWindowEnd t ∧
      t.sys.power.move = (if cap < a.a then CapMove.down else if 20 * a.a ≤ 19 * cap then .up else .hold) ∧
      (t.field (bootReg 0x050) 63 63 = 1 ↔ cap < a.a ∧ s.slowest = true)) ∧
    (∃ t : State, Completes s .clockStep t ∧
      t.sys.power.capped = (match p.move with
        | .down => min 3 (p.capped + 1)
        | .up => p.capped - 1
        | .hold => p.capped) ∧
      ∀ q, q < 4 → tableGet t.sys.power.thermal q 0 =
        if s.partitionHas q p.hot then min 3 (tableGet p.thermal q 0 + 1)
        else if s.partitionHas q p.warm then tableGet p.thermal q 0 else tableGet p.thermal q 0 - 1) ∧
    (∃ t : State, Completes s .thermalThrottle t ∧
      (105 ≤ a.b → a.a ∈ t.sys.power.hot) ∧ (a.b < 105 → a.a ∉ t.sys.power.hot) ∧
      (100 ≤ a.b → a.b < 105 → (a.a ∈ p.hot ∨ a.a ∈ p.warm) → a.a ∈ t.sys.power.warm) ∧
      (a.b < 100 → a.a ∉ t.sys.power.warm) ∧
      ∀ d, d ≠ a.a → (d ∈ t.sys.power.hot ↔ d ∈ p.hot) ∧ (d ∈ t.sys.power.warm ↔ d ∈ p.warm)) ∧
    (∃ t : State, Completes s .thermalShutdown t ∧ t.sys.power.compute = false ∧
      t.sys.flash.stop = 3#8) ∧
    (∃ t : State, Completes s .currentLimit t ∧ t.sys.power.limited = true ∧ ∀ c, t.stretched c = true) ∧
    (∃ t : State, Completes s .currentBelowLimit t ∧ t.sys.power.limited = false) ∧
    (a.a < 6 → ∃ t : State, Completes s .droopDetect t ∧ ∀ d, d ∈ t.sys.power.droop ↔ d = a.a ∨ d ∈ p.droop) ∧
    (∃ t : State, Completes s .droopRecover t ∧ ∀ d, d ∈ t.sys.power.droop ↔ d ≠ a.a ∧ d ∈ p.droop) ∧
    (bitOf a.v 8 = true → ∃ t : State, Completes s .snapArm t ∧ t.field (snpReg 0x000) 8 8 = 1 ∧
      t.field (snpReg 0x018) 63 63 = 0 ∧ t.field (snpReg 0x018) 59 59 = 0) ∧
    (∀ n, n = 1 ∨ n = 3 → s.field (snpReg 0x000) n n = 1 → s.field (snpReg 0x000) 8 8 = 1 →
      (n = 3 ∨ (s.reg (snpReg 0x008)).toNat ≤ s.time.ns.toNat) →
      ∃ t : State, Completes s (if n = 3 then .triggerPinEdge else .snapDtbMatch) t ∧ t.field (snpReg 0x000) 8 8 = 0 ∧
        t.field (snpReg 0x018) 63 63 = 1 ∧ t.field (snpReg 0x018) 61 60 = n ∧
        t.sys.snapshot = some ⟨n, s.time.ns + 64#64, false, []⟩) ∧
    (∀ x, s.sys.snapshot = some x → x.latched = false → x.latchAt.toNat ≤ s.time.ns.toNat →
      ∃ t : State, Completes s .snapshotLatch t ∧ (∃ rs, t.sys.snapshot = some { x with latched := true, pending := rs } ∧
          rs = (List.range 548).map fun c => (s.field (snpReg 0x028) 51 16 * 65536 + 256 * c, coreRecord s c)) ∧
        t.sys.shadows = shadowTable s ∧ t.reg (snpReg 0x020) = s.time.ns ∧
        t.agenda = s.agenda ++ [.event .snapshotDone {}]) ∧
    (∀ x, s.sys.snapshot = some x → x.latched = true → (∀ r ∈ x.pending, s.recordHeld r.1 = []) →
      ∃ t : State, Completes s .snapshotDone t ∧ t.sys.snapshot = none ∧ t.field (snpReg 0x018) 59 59 = 1) ∧
    Completes s .referenceClockInputChange { s with time := { s.time with external := a.flag } } ∧
    (a.v ≠ 0#64 → ∃ t : State, Completes s .dtbStep t ∧ t.time.step = some (s.time.step.getD 0#64 + a.v) ∧
      t.field hifEvt 2 2 = 1) ∧
    (s.field 0x058 0 0 = 1 → s.sys.cxl.ptm = none →
      ∃ t : State, Completes s .ptmRequest t ∧ t.sys.cxl.ptm = some s.time.ticks ∧ t.reg 0x060 = s.time.ns) ∧
    (∀ n, s.sys.cxl.ptm = some n →
      (∃ t : State, Completes s .ptmResponse t ∧ t.sys.cxl.ptm = none ∧ t.reg 0x068 = s.time.ns ∧ t.reg 0x070 = a.v ∧
        t.reg 0x078 = BitVec.ofNat 64 (a.b % 2 ^ 32) ∧ t.field hifEvt 3 3 = 1) ∧
      (n + 10 * Config.ticksPerMicrosecond ≤ s.time.ticks →
        ∃ t : State, Completes s .ptmTimeout t ∧ t.sys.cxl.ptm = none ∧ t.field hifEvt 4 4 = 1))

/-- R35, R36, R39, R40, R97, R117, R133, R225: a page walk answers the misses that wait for it, with a held entry or with a failure,
and a dirty update replaces the entry; structures acknowledge a TLBI when no access of their cores is under way, buffers
drain, and registers are written and read with their effects. -/
def Obligations.AccessEvents : Prop :=
  ∀ (s : State) (l : Leaf) (passed : List WalkEntry) (x : Place) (m : Miss) (at_ : Nat),
    let w := s.arg.walk
    let a := s.arg.a
    let die := walkDie w.core
    let key := (die, w.part, w.ctx, w.va.toNat / 65536)
    let held (t : State) (va : Nat) : Option TlbEntry := t.tlbFind w.core w.part w.ctx va
    let v := s.walked die (.leaf l passed)
    (s.mm.misses = [m] → m.key = key → m.ended = none →
      (walkEnd s die w.part w.ctx w.va.toNat = .leaf l passed → m.who = w.core → m.who < 1000 →
        checkLeaf v w.part m.user l m.va 1 m.kind = .ok x → v.hostHolds l.at_ = false →
        ∃ (t : State) (e : TlbEntry), Completes s .pageWalkDone t ∧ held t m.va = some e ∧
          e.leaf.toNat = Nat.lor l.entry 256 % 2 ^ 64 ∧ e.bits = l.bits ∧ (∀ y ∈ t.mm.misses, y.ended = some (some l)) ∧
          (pteA l.entry = false → v.poisonedLine ((l.at_ + 1) / 128) = false → v.uncommittedAt (l.at_ + 1) = false →
            (cellGet t.mm.mem (l.at_ + 1)).getLsbD 0 = true)) ∧
      ((walkEnd s die w.part w.ctx w.va.toNat = .bad at_ passed ∨ walkEnd s die w.part w.ctx w.va.toNat = .lost at_ passed) →
        ∃ t : State, Completes s .pageWalkDone t ∧ (∀ y ∈ t.mm.misses, y.ended = some none) ∧ t.mm.tlb = s.mm.tlb) ∧
      (walkEnd s die w.part w.ctx w.va.toNat = .held at_ → Completes s .pageWalkDone (s.askLine at_ 0 1 false))) ∧
    (key ∉ s.inFlight die → Completes s .pageWalkDone s) ∧
    (∀ e, w.core < 1000 → held s w.va.toNat = some e → pteD e.leaf.toNat = false →
      walkEnd s die w.part w.ctx w.va.toNat = .leaf l passed → v.hostHolds l.at_ = false →
      (pteW l.entry = true → ∃ (t : State) (e' : TlbEntry), Completes s .dirtyUpdate t ∧ held t w.va.toNat = some e' ∧
        e'.leaf.toNat = Nat.lor l.entry 768 % 2 ^ 64) ∧
      (pteW l.entry = false → ∃ t : State, Completes s .dirtyUpdate t ∧ held t w.va.toNat = none ∧ t.mm.mem = v.mm.mem)) ∧
    (∀ r, s.mm.tlbi.filter (fun t => t.1 == s.arg.place) = [r] → s.net.txns = [] → s.mm.wcb = [] → s.mm.cluDirty = [] →
      ∃ t : State, Completes s .tlbiAck t ∧ t.mm.tlbi = s.mm.tlbi.erase r ∧
        (∀ d, s.arg.place = .walkCache d → ∀ e ∈ t.mm.walks, e.die = d →
          overlapsRange r.2.1 r.2.2.1 r.2.2.2.1 r.2.2.2.2 e.part e.ctx e.page e.level = false) ∧
        ((∀ d, s.arg.place ≠ .walkCache d) → ∀ e ∈ t.mm.tlb, e.place = s.arg.place →
          overlapsRange r.2.1 r.2.2.1 r.2.2.2.1 r.2.2.2.2 e.part e.ctx e.page e.bits = false) ∧
        ∀ y ∈ t.mm.misses, y.ended ≠ none → placeServes s.arg.place y = true →
          y.inRange r.2.1 r.2.2.1 r.2.2.2.1 r.2.2.2.2 = false) ∧
    (s.sys.cxl.snoop = [] → ∃ t : State, Completes s .wcDrain t ∧ (∀ b ∈ t.mm.wcb, b.core ≠ a) ∧
      ∀ b, b.core ≠ a → (b ∈ t.mm.wcb ↔ b ∈ s.mm.wcb)) ∧
    (((s.arg.b = 4 ∨ s.arg.b = 8) ∧ a % s.arg.b = 0 →
        (s.arg.flag = false → Completes s .registerWrite (busWrite s a s.arg.b s.arg.v)) ∧
        (s.arg.flag = true → ∃ t : State, Completes s .registerWrite t ∧
          t.sys.cxl.answer = some (leBytes s.arg.b (busRead s a s.arg.b).1.toNat, false))) ∧
      ((s.arg.b ≠ 4 ∧ s.arg.b ≠ 8) ∨ a % s.arg.b ≠ 0 →
        (s.arg.flag = false → Completes s .registerWrite (s.raiseHif 1)) ∧
        (s.arg.flag = true → ∃ t : State, Completes s .registerWrite t ∧
          t.sys.cxl.answer = some (leBytes s.arg.b 0, false))) ∧
      (s.regAt (a / 8 * 8) = none → busWrite s a 8 s.arg.v = s.raiseHif 1) ∧
      (∀ i, s.regAt a = some i → a % 8 = 0 → s.idleQuarter a = false → shadowOf a = none → isWriteOnly a = false →
        s.prtWritable a = BitVec.allOnes 64 → (∀ v, (s.setReg a v).command a s.arg.v = s.setReg a v) →
        ∃ t : State, busWrite s a 8 s.arg.v = t ∧
          (t.reg a &&& i.rw) &&& ~~~i.w1c = (s.arg.v &&& i.rw) &&& ~~~i.w1c ∧
          (t.reg a &&& ~~~i.rw) &&& ~~~i.w1c = (s.reg a &&& ~~~i.rw) &&& ~~~i.w1c)) ∧
    (∃ t : State, Completes s .dtbNsRead t ∧ t.reg 0x40 = s.time.frac.zeroExtend 64 ∧ t.time = s.time) ∧
    (∀ y rest, s.net.stamps = y :: rest →
      ∃ t : State, Completes s .tsRecordPop t ∧ t.net.stamps = rest ∧ t.reg (fabReg 0x088) = y.ns)

/-- R41, R42, R45 to R54, R118 to R120, R311: the LPDDR tier behind its slices, the hotness sweep, and the host at the slices. -/
def Obligations.TierEvents : Prop :=
  ∀ s : State,
    let a := s.arg.a
    let b := s.arg.b
    let range := blockRange a b
    (s.field (memReg 0x000) 1 1 = 1 → ∃ t : State, Completes s .lpFreeMerge t ∧
      ∀ d f, tableFind s.dram.free d = some f → ∃ g, tableFind t.dram.free d = some g ∧ g.next = f.next ∧ g.stop = f.stop ∧
        (g.runs.map fun r => r.2).sum = (f.runs.map fun r => r.2).sum) ∧
    (a ∈ s.dram.stalled → s.committed a = true → entrySectors (s.mapEntry a) = 0 → (∀ y ∈ blockBytes s a, y = 0#8) →
      ∃ t : State, Completes s .lpWritebackResume t ∧ t.mapEntry a = 0xC000000000000000#64 ∧ a ∉ t.dram.stalled ∧
        ∀ k ∈ t.mm.dirty, k / 32 ≠ blockLine a / 32) ∧
    (let new := range.filter fun l => !s.committed l
     let now := s.field (memReg 0x030) 30 0 + new.length
     (new ≠ [] → s.commitLimit < now → ∃ t : State, Completes s .lpCommit t ∧ t.field memEvt 3 3 = 1 ∧
       t.field (memReg 0x000) 2 2 = 0 ∧ t.dram = s.dram ∧ t.mm = s.mm) ∧
     ((new = [] ∨ now ≤ s.commitLimit) → ∃ t : State, Completes s .lpCommit t ∧ t.field (memReg 0x030) 30 0 = now ∧
       (∀ l ∈ range, t.committed l = true) ∧ t.mm = s.mm ∧ t.dram.command = some (1, a, b))) ∧
    (let old := range.filter s.committed
     ∃ t : State, Completes s .lpDecommit t ∧ t.field (memReg 0x030) 30 0 = s.field (memReg 0x030) 30 0 - old.length ∧
       (∀ l ∈ range, t.committed l = false) ∧
       (∀ l ∈ old, ∀ k, k < 4096 → cellGet t.mm.mem (128 * blockLine l + k) = 0#8) ∧ t.dram.command = some (2, a, b)) ∧
    (∀ c, s.dram.command = some c → ∃ t : State, Completes s .lpCmdDone t ∧ t.field (memReg 0x000) 2 2 = 0 ∧
      t.field memEvt 5 5 = 1 ∧ t.dram.command = none) ∧
    ((s.field (memReg 0x048) 2 2 = 0 ∨ s.arg.flag = true) →
      (∃ c ∈ s.mm.mem, s.inHotArrays c.1 = true ∧ s.hostHolds c.1 = true) → ∃ t : State, Completes s .hotDecay t ∧
      t.field (memReg 0x048) 2 2 = 1 ∧ .event .hotDecay { flag := true } ∈ t.agenda ∧ t.mm = s.mm) ∧
    ((s.field (memReg 0x048) 2 2 = 0 ∨ s.arg.flag = true) → MemoryForm s →
      (∀ c ∈ s.mm.mem, s.inHotArrays c.1 = true → s.hostHolds c.1 = false) → ∃ t : State, Completes s .hotDecay t ∧
      t.field (memReg 0x048) 2 2 = 1 ∧ t.agenda = s.agenda ++ [.event .hotSweepEnd {}] ∧
      ∀ k, s.poisonedLine (k / 128) = false → s.uncommittedAt k = false →
        cellGet t.mm.mem k = if s.inHotArrays k then (cellGet s.mm.mem k).ushiftRight 1 else cellGet s.mm.mem k) ∧
    (∃ t : State, Completes s .hotSweepEnd t ∧ t.field (memReg 0x048) 2 2 = 0) ∧
    (∀ pa bs, s.arg.slice = .write pa bs → s.hostHolds pa = false → pa % 128 + bs.length ≤ 128 →
      s.poisonedLine (pa / 128) = false → s.uncommittedAt pa = false →
      ∃ t : State, Completes s .sliceRequest t ∧ cellsGet t.mm.mem pa bs.length = bs ∧
        ∀ k, k < pa ∨ pa + bs.length ≤ k → cellGet t.mm.mem k = cellGet s.mm.mem k) ∧
    (∀ pa n, s.arg.slice = .read pa n → s.hostHolds pa = false → s.arg.flag = true →
      ∃ t : State, Completes s .sliceRequest t ∧ .event .dramReadDone { a := pa } ∈ t.agenda ∧ t.mm = s.mm) ∧
    (∀ pa, s.arg.slice = .evict pa → pa / 128 ∉ s.mm.dirty →
      Completes s .sliceRequest { s with mm := { s.mm with l2 := s.mm.l2.filter fun l => l != pa / 128 } }) ∧
    (∀ pa bs, s.arg.slice = .write pa bs → s.hostHolds pa = true → Completes s .sliceRequest (s.backInvalidate pa)) ∧
    (∀ pa n, s.arg.slice = .read pa n → s.hostHolds pa = true → s.linePresent (pa / 128) = false →
      Completes s .sliceRequest (s.backRead pa)) ∧
    (∃ t : State, Completes s .hdmDecoderCommit t ∧
      t.sys.cxl.hdm = if a ≤ 1 ∧ s.arg.c ≤ (hdmTier a).2 then tablePut s.sys.cxl.hdm a (b, s.arg.c) else s.sys.cxl.hdm) ∧
    (∀ pa, s.sys.cxl.up = true → s.sys.boot ≠ .minimal → s.hdmAddress a = some pa →
      (s.mustRebuild pa = false → ∃ t : State, Completes s .hostMemRead t ∧
        t.sys.cxl.answer = some (sliceRead s pa b, s.poisonedAt pa b) ∧ t.mm.mem = s.mm.mem ∧ (s.hostBias pa = true → pa / 128 ∈ t.sys.cxl.snoop)) ∧
      (pa % 128 + s.arg.bytes.length ≤ 128 → s.poisonedLine (pa / 128) = false → s.uncommittedAt pa = false →
        ∃ t : State, Completes s .hostMemWrite t ∧ cellsGet t.mm.mem pa s.arg.bytes.length = s.arg.bytes)) ∧
    (∃ t : State, Completes s .hostSnoop t ∧
      (∀ e ∈ t.mm.l1Clean ++ t.mm.cluClean, e.1 % cacheStride / 128 ≠ hostLoc / 128 + a / 128) ∧
      ∀ w, s.me.watch = some w → w.line = hostLoc / 128 + a / 128 → t.me.fired = true ∧ t.me.watch = none) ∧
    ((∀ c ∈ s.dram.hotWaits, c / 128 ≠ a) → ∃ t : State, Completes s .biResponse t ∧
      t.sys.cxl.snoop = s.sys.cxl.snoop.erase a ∧ t.sys.cxl.pendingBi = s.sys.cxl.pendingBi.erase (a, s.arg.flag)) ∧
    (∀ c, s.dram.hotWaits = [c] → c / 128 = a → a ∉ s.sys.cxl.snoop.erase a → s.poisonedLine a = false →
      s.uncommittedAt c = false → cellGet s.mm.mem c ≠ 255#8 →
      ∃ t : State, Completes s .biResponse t ∧ t.dram.hotWaits = [] ∧ cellGet t.mm.mem c = cellGet s.mm.mem c + 1#8) ∧
    (∃ t : State, Completes s .biasSet t ∧ t.sys.cxl.bias = some (false, a) ∧ t.mm = s.mm ∧
      t.agenda = s.agenda ++ [.event .biasCmdDone {}]) ∧
    (∀ clears bit, s.sys.cxl.bias = some (clears, bit) →
      let k := s.biasByte bit
      s.hostHolds k = false → (clears = true → s.recordedLines bit = []) →
      ∃ t : State, Completes s .biasCmdDone t ∧ t.field 0x020 63 63 = 0 ∧ t.sys.cxl.bias = none ∧
        (s.poisonedLine (k / 128) = false → s.uncommittedAt k = false → bit < biasBits →
          (cellGet t.mm.mem k).getLsbD (bit % 8) = !clears)) ∧
    (∃ t : State, Completes s .biasClear t ∧ t.sys.cxl.bias = some (true, a) ∧ t.mm = s.mm ∧
      ∀ l ∈ s.recordedLines a, (l, true) ∈ t.sys.cxl.pendingBi) ∧
    (∃ t : State, Completes s .cxlLinkDown t ∧ t.sys.cxl.up = false ∧ t.field hifEvt 0 0 = 1) ∧
    (∃ t : State, Completes s .cxlLinkUp t ∧ t.sys.cxl.up = true ∧ t.mm = s.mm)

/-- R55, R58 to R75, R434: the parity groups and the channels. A delta turns the parity line by old XOR new and its acknowledgement makes
the new value the image; a reconstruction collects the images of the surviving members, and parity XOR these goes to the
requester; losses enter degraded mode; scrub makes parity agree. -/
def Obligations.ParityEvents : Prop :=
  ∀ (s : State) (r : Recon) (d : Delta),
    let a := s.arg.a
    let b := s.arg.b
    let l := s.arg.line
    let mine (d : Delta) : Bool := d.is l a && !d.applied && !d.held
    let parity (t : State) (x : StripeLine) : List Byte := t.parityLine x
    let line (t : State) (x : StripeLine) (m : Nat) : List Byte := cellsGet (t.dataCells x.lpddr) (dataAddr x m) 128
    (s.dram.deltas.find? mine = some d → s.parityLost l = false → s.reconOf l = none →
      (s.arg.flag = false ∨ s.cachedParity l ≠ none) →
      ∃ t : State, Completes s .parityDelta t ∧ parity t l = xorBytes (parity s l) (xorBytes d.old d.new) ∧
        (∃ y, t.cachedParity l = some y) ∧ (∀ m, line t l m = line s l m) ∧ t.agenda = s.agenda ++ [.event .deltaAck { line := l, a := d.member }]) ∧
    (s.dram.deltas.find? mine = some d → s.parityLost l = true →
      ∃ t : State, Completes s .parityDelta t ∧ parity t l = parity s l ∧ t.dram.deltas.length + 1 = s.dram.deltas.length) ∧
    (s.reconOf l = none → ∃ t : State, Completes s .deltaAck t ∧ parity t l = parity s l ∧ t.agenda = s.agenda ∧
      t.dram.deltas = updateFirst (fun d => d.is l a && d.applied) (fun _ => none) s.dram.deltas) ∧
    (s.reconOf l = none → s.lineAway l.lpddr (dataAddr l a) = true → s.parityLost l = false →
      otherLosses s l.lpddr l.stripe a = [] →
      ∃ t : State, Completes s .reconstructionRequest t ∧ t.dram.recons = s.dram.recons ++ [⟨l, a, []⟩] ∧
        t.agenda = s.agenda ++ ((dataMembers l).filter fun m => m != a).map fun m =>
          .event .reconstructionAnswer { line := l, a := m }) ∧
    (s.reconOf l = some r → a ∈ r.survivors → (∀ x ∈ r.answers, x.1 ≠ a) → (∀ x ∈ s.dram.deltas, x.is l a = false) →
      (s.arg.flag = false → ∃ t : State, Completes s .reconstructionAnswer t ∧
        t.reconOf l = some { r with answers := r.answers ++ [(a, line s l a)] }) ∧
      (s.arg.flag = true → ∃ t : State, Completes s .reconstructionAnswer t ∧ t.reconOf l = none ∧
        t.field parEvt 2 2 = 1 ∧ ∀ m, m = a ∨ m = r.requester → m ≠ parityMember l.lpddr l.stripe →
          t.lineLost l.lpddr (dataAddr l m) = true)) ∧
    (s.reconOf l = some r → r.complete = true → (∀ x ∈ r.answers, x.2.length = 128) → (s.parityLine l).length = 128 →
      (s.arg.flag = false ∨ s.cachedParity l ≠ none) →
      ∃ t : State, Completes s .reconstructionComplete t ∧
        line t l r.requester = (if s.dram.deltas.any (fun d => d.is l r.requester && !d.applied) then line s l r.requester
          else r.answers.foldl (fun x y => xorBytes x y.2) (parity s l)) ∧ parity t l = parity s l ∧
        ∀ x ∈ t.dram.deltas, x.line = l → x.held = false) ∧
    (∀ c, a < 28 → (a, c) ∈ s.dram.entering → c < 32 → ∃ t : State, Completes s .degradedEntryDone t ∧ t.channelLost a c = true ∧
      t.field (parState a) 2 2 = 0 ∧ t.field parEvt 0 0 = 1 ∧ ∀ e ∈ t.dram.entering, e.1 ≠ a) ∧
    (∀ i, (i = Instr.channelLoss ∨ i = .parDeclareChannelLost) → s.channelLost a b = false → (a, b) ∉ s.dram.entering →
      ∃ t : State, Completes s i t ∧ t.field (parState a) 2 2 = 1 ∧ t.dram.entering = s.dram.entering ++ [(a, b)] ∧
        t.agenda = s.agenda ++ [.event .degradedEntryDone { a := a }]) ∧
    (∀ i, (i = Instr.phyTrainingFail ∨ i = .parDeclareMemberLost) →
      ∃ t : State, Completes s i t ∧ ∀ c ∈ allChannels a, s.channelLost a c = true ∨ (a, c) ∈ t.dram.entering) ∧
    (let lp := s.arg.flag
     let pos := if lp then parReg 0x028 else parReg 0x020
     let n := s.field pos 27 0
     let k := tableGet s.dram.scrub (natOfBool lp) 0
     s.field (parReg 0x018) 32 32 = 1 → b = 0 → s.stripeLosses lp n = 0 → s.dram.deltas = [] →
      s.dram.recons = [] → s.dram.erring = [] →
      ∃ t : State, Completes s .scrubLine t ∧ tableGet t.dram.scrub (natOfBool lp) 0 = (k + 1) % 4 ∧
        parity t ⟨lp, n, k⟩ = (dataMembers ⟨lp, n, k⟩).foldl (fun x m => xorBytes x (line s ⟨lp, n, k⟩ m)) (List.replicate 128 0#8) ∧
        t.field pos 27 0 = if k < 3 then n else if n + 1 = stripeCount lp then 0 else (n + 1) % 2 ^ 28) ∧
    (27 < a ∨ stripeCount (isPackage a) ≤ b →
      ∃ t : State, Completes s .parScrubStripe t ∧ t.field parEvt 5 5 = 1 ∧ t.dram = s.dram) ∧
    (a ≤ 27 → b < stripeCount (isPackage a) → s.stripeLosses (isPackage a) b = 0 → s.dram.deltas = [] → s.dram.parLines.length < 1021 →
      s.dram.recons = [] → s.dram.erring = [] → s.arg.c = 0 →
      ∃ t : State, Completes s .parScrubStripe t ∧ ∀ k, k < 4 → parity t ⟨isPackage a, b, k⟩ =
        (dataMembers ⟨isPackage a, b, k⟩).foldl (fun x m => xorBytes x (line s ⟨isPackage a, b, k⟩ m)) (List.replicate 128 0#8)) ∧
    (∃ t : State, Completes s .groupWindowClose t ∧
      ∀ w, w ∈ t.dram.windows ↔ w ∈ s.dram.windows ∧ (w.chan ≠ a ∨ s.windowPast w = false)) ∧
    (let k := s.bank a b
     s.field (memReg 0x200) 15 0 ≠ 0 → s.field (memReg 0x200) 15 0 ≤ tableGet k.counts s.arg.c 0 → k.swaps.length < 64 →
      ∃ t : State, Completes s .rowSwap t ∧
        (match swapPartner k s.arg.c s.draw with
         | none => t = { s.setBank k with draw := s.draw + 256 }.event .rowSwap s.arg
         | some y => (t.bank k.chan k.bank).swaps = k.swaps ++ [(s.arg.c, y)] ∧
             tableGet (t.bank k.chan k.bank).counts s.arg.c 0 = 0 ∧ y ≠ s.arg.c ∧ ∀ w ∈ k.swaps, w.1 ≠ y ∧ w.2 ≠ y)) ∧
    (let k := s.bank a b
     (s.field (memReg 0x200) 15 0 = 0 ∨ tableGet k.counts s.arg.c 0 < s.field (memReg 0x200) 15 0) → Completes s .rowSwap s) ∧
    ((serveLine s a).readWaits a = true → Completes s .dramReadDone (serveLine s a)) ∧
    (∀ q, s.dram.queue = [q] → q.pa / 128 = a / 128 → s.channelHeld q.chan = false → (serveLine s a).readWaits a = false) ∧
    (inHbm a = true → s.poisonedLine (a / 128) = false → s.field (memReg 0x048) 0 0 = 0 → s.arg.c = 0 → s.readWaits a = false →
      let m := memberOf false (a / 128 * 128)
      let n := stripeOf false (a / 128 * 128)
      (s.unitDown false n m = false → (false, a / 128) ∉ s.dram.erring → s.arg.flag = false →
        ∃ t : State, Completes s .dramReadDone t ∧ a / 128 ∈ t.mm.l2 ∧ t.mm.mem = s.mm.mem ∧ t.dram.erring = s.dram.erring) ∧
      (s.unitDown false n m = false → (false, a / 128) ∉ s.dram.erring → (false, a / 128) ∉ s.dram.rebuilt →
        s.arg.flag = true → s.arg.v = 0#64 → otherLosses s false n m = [] →
        ∃ t : State, Completes s .dramReadDone t ∧ (false, a / 128) ∈ t.dram.erring ∧
          .event .reconstructionRequest { line := stripeLineOf false (a / 128 * 128), a := m } ∈ t.agenda)) ∧
    (∃ t : State, Completes s .refresh t ∧ (t.bank a b).debt =
      if s.arg.flag = true ∧ (s.bank a b).debt < 8 then (s.bank a b).debt + 1 else (s.bank a b).debt - s.arg.c) ∧
    (∃ t : State, Completes s .alertBackoff t ∧
      (t.bank a b).debt = if 8 ≤ (s.bank a b).debt then 0 else (s.bank a b).debt)

/-- R81 to R86, R99 to R106: the loops, the links between dies, combining fetch-and-operate, and what queue links and replies bring. A
stop injects what arbitration chooses once its slots are empty, a packet ejects where its leg ends or is refused, a hop's
sixteenth failure moves it to its spare wire, a combined request is performed once and answered twice, and a reply writes
its register and ends its transaction. -/
def Obligations.LoopEvents : Prop :=
  ∀ (s : State) (p q : Packet) (g : Bool) (die stop port : Nat),
    let a := s.arg.a
    let b := s.arg.b
    let c := s.arg.c
    let next (d st : Nat) (p : Packet) : Leg := nextLeg d st p.inPort p.dstDie p.dstStop
    let onLoop (p : Packet) : Bool :=
      p.place == .injection a b && (match next a b p with
        | .loop t => loopOf b t == c
        | _ => false)
    let fails : Nat := s.hopCount a b c
    (∀ queue, s.arbitrate die queue = some (p, g) →
      p ∈ queue ∧ ((∃ q ∈ queue, isResponse q.cls = true) → isResponse p.cls = true)) ∧
    (∀ u, s.arbitrate a (s.net.packets.filter onLoop) = some (p, g) → next a b p = .loop u →
      let shut := decide (4 ≤ a) && decide (a < 6) && stopQuarter a b != stopQuarter a u && s.betweenPartitions p &&
        s.closedBoundary a a
      (s.slotsFree a (loopOf b u) b p.len = false → Completes s .packetInject s) ∧
      (s.slotsFree a (loopOf b u) b p.len = true → shut = true →
        ∃ t : State, Completes s .packetInject t ∧ t.packet p.id = none) ∧
      (s.slotsFree a (loopOf b u) b p.len = true → shut = false →
        ∃ (t : State) (r : Packet), Completes s .packetInject t ∧ t.packet p.id = some r ∧
          r.place = .travelling a (loopOf b u) u ∧ r.inPort = b ∧ r.body = p.body ∧ r.hops = loopHops a (loopOf b u) b u)) ∧
    (s.packet a = some p → p.place = .travelling die port stop →
      let held := s.net.packets.filter fun x => x.place == .ejected die stop port
      let kept := s.net.reserved.filter fun r => r.1 == die && r.2.1 == stop && r.2.2.1 == port
      let refused := s.refusedHere p die port stop = true ∨
        8 ≤ held.length + kept.findIdx fun r => r.2.2.2 == p.inPort
      (p.hops ≠ 0 → Completes s .packetEject s) ∧
      (p.hops = 0 → p.cls < 12 → refused →
        ∃ (t : State) (r : Packet), Completes s .packetEject t ∧ t.packet a = some r ∧ r.place = p.place ∧ r.lap = true ∧
          r.body = p.body) ∧
      (p.hops = 0 → p.cls < 12 → ¬ refused →
        ∃ (t : State) (r : Packet), Completes s .packetEject t ∧ t.packet a = some r ∧ r.inPort = port ∧ r.body = p.body ∧
          r.place = .ejected die stop port) ∧
      (p.hops = 0 → 12 ≤ p.cls →
        ∃ t : State, Completes s .packetEject t ∧ t.packet a = none ∧ t.field (lopReg die 0x08) 0 0 = 1)) ∧
    (s.packet a = some p → p.place = .ejected die stop port → p.isFetch = false →
      let leg := nextLeg die stop port p.dstDie p.dstStop
      let goes (x : PacketPlace) : Prop := ∃ (t : State) (r : Packet), Completes s .packetEject t ∧ t.packet a = some r ∧
        r.place = x ∧ r.body = p.body ∧ r.inPort = p.inPort
      (∀ u, leg = .loop u → goes (.injection die stop)) ∧ (∀ d st, leg = .cross d st → goes (.link die stop)) ∧
      (leg = .here → p.forSlice = true → goes (.slice die stop)) ∧
      (leg = .here → p.forSlice = false → p.body = .other → Completes s .packetEject (s.dropPacket p.id)) ∧
      (∀ i e, leg = .here → p.forSlice = false → p.body = .control i e →
        Completes s .packetEject ((s.dropPacket p.id).event i e))) ∧
    (let fifo := s.net.packets.filter fun x => x.place == .link a b
     ∀ nd ns, (fifo.find? fun x => isResponse x.cls).or fifo.head? = some p → next a b p = .cross nd ns → p.cls < 12 →
      let shut := s.betweenPartitions p && s.closedBoundary a nd
      (shut = true → ∃ t : State, Completes s .linkForward t ∧ t.packet p.id = none) ∧
      (shut = false → ∃ (t : State) (r : Packet), Completes s .linkForward t ∧ t.packet p.id = some r ∧
        r.place = .ejected nd ns 24 ∧ r.inPort = 24 ∧ r.body = p.body)) ∧
    Completes s .linkCrcError s ∧
    (isHop a b c = false → Completes s .hopCrcError s ∧ Completes s .hopSpare s) ∧
    (isHop a b c = true → (a, b, c) ∉ s.net.spares →
      ∃ t : State, Completes s .hopCrcError t ∧ t.hopCount a b c = fails + 1) ∧
    (isHop a b c = true → (a, b, c) ∈ s.net.spares →
      ∃ t : State, Completes s .hopCrcError t ∧ t.sys.flash.stop = 4#8 ∧ t.sys.stopped = true ∧
        s.ownerOf (stopQuarter a c) ∈ t.sys.halted ∧ t.field (lopReg a 0x08) 2 2 = 1) ∧
    (isHop a b c = true → (a, b, c) ∉ s.net.spares → 16 ≤ fails →
      ∃ t : State, Completes s .hopSpare t ∧ (a, b, c) ∈ t.net.spares ∧ t.hopCount a b c = 0 ∧
        t.field (lopReg a 0x08) 1 1 = 1) ∧
    (s.packet a = some p → p.place = .ejected die stop port → p.isFetch = true → s.field (lopReg die 0x28) 0 0 = 0 →
      ∃ (t : State) (r : Packet), Completes s .fetchOpArrival t ∧ t.packet a = some r ∧ r.place = queueFor p die stop port ∧
        t.net.waits = s.net.waits) ∧
    (∀ x y n aop w o sc nc cmb idx, s.packet a = some p → p.place = .ejected die stop port → p.isFetch = true → q.id ≠ p.id →
      s.field (lopReg die 0x28) 0 0 = 1 → queueFor p die stop port = .slice die stop →
      (s.net.packets.filter fun x => x.place == .slice die stop && matchesRequest x p).getLast? = some q →
      (∀ x ∈ ((s.net.packets.filter fun x => x.place == .slice die stop).dropWhile fun x => x.id ≠ q.id).drop 1,
        x.isFetch = true → x.pa / 8 = p.pa / 8 → x.strms.any p.strms.contains = false) →
      q.body = .fetchOp x y n aop w o sc nc cmb → freeEntry s.net.waits (.stop die stop) 64 = some idx →
      ∃ t : State, Completes s .fetchOpArrival t ∧ t.packet p.id = none ∧ t.packet q.id = some (combined q p die stop idx) ∧
        t.net.waits = s.net.waits ++ [⟨.stop die stop, idx, x, aop, w, returnOf q, returnOf p, false, 0, q.pa⟩]) ∧
    (∀ x z n aop w o sc nc cmb, s.arbitrate a (s.net.packets.filter fun r => r.place == .slice a b && slicePos r.pa == c) =
        some (p, false) → p.body = .fetchOp x z n aop w o sc nc cmb → s.readHeld p.pa = false →
      let v := (s.leaveQueue p a b).dropPacket p.id
      let size := if w then 8 else 4
      ((10 < aop ∨ (aop = 8 ∧ w = true) ∨ p.rsv ≠ 0) → ∃ t : State, Completes s .fetchOpPerform t ∧ t.mm = s.mm ∧
        t.field (lopReg a 0x08) 0 0 = 1) ∧
      (aop ≤ 10 → (aop ≠ 8 ∨ w = false) → p.rsv = 0 → p.pa % size = 0 → s.poisonedLine (p.pa / 128) = false →
        s.uncommittedAt p.pa = false →
        let y := v.settleAtomics p.pa size none
        y.poisonedLine (p.pa / 128) = false → y.uncommittedAt p.pa = false →
        let old := BitVec.ofNat 64 (y.sliceNat p.pa size)
        ∃ m : State, performAtomic v p.pa aop w x z p.gtag p.cmp = (0, old, m) ∧
          Completes s .fetchOpPerform (m.sendReply a b (16 + slicePos p.pa) (returnOf p) 0 old) ∧
          sliceRead m p.pa size = leBytes size (aopNew aop w old x z).toNat)) ∧
    (∀ w st v, s.packet a = some p → p.place = .ejected p.dstDie p.dstStop port → p.body = .fetchReply st v true → p.via = none →
      s.net.waits.find? (fun w => w.point == .stop p.dstDie p.dstStop && w.idx == p.txn) = some w → w.sent = true →
      let u := (s.dropPacket p.id).modNet fun n =>
        { n with waits := n.waits.filter fun x => !(x.point == .stop p.dstDie p.dstStop && x.idx == p.txn) }
      Completes s .waitBufferReply ((u.sendReply p.dstDie p.dstStop 16 w.first st v).sendReply p.dstDie p.dstStop 16 w.second st
        (if st = 0 then aopApply w.aop w.w v w.e else v))) ∧
    (∀ src dst n link data (j : Job) (i : InPort), s.packet a = some p → p.place = .ejected die stop port →
      p.body = .queueData src dst n link data → s.job dst = some j → j.inPort n = some i → i.link = link → i.ended = false →
      i.sender.map (fun x => x.1) = some src →
      ∃ (t : State) (k : Job), Completes s .qlinkData t ∧ t.packet a = none ∧ t.job dst = some k ∧
        k.inPort n = some { i with entries := i.entries ++ [data] }) ∧
    (∀ dst n link m (j : Job) (o : OutPort), s.packet a = some p → p.place = .ejected die stop port →
      p.body = .queueCredit dst n link m → s.job dst = some j → j.outPort n = some o → o.link = link →
      ∃ (t : State) (k : Job), Completes s .qlinkCredit t ∧ t.packet a = none ∧ t.job dst = some k ∧
        k.outPort n = some { o with credits := o.credits + m }) ∧
    (let y := s.dropCarrier
     ∀ x : Txn, s.net.txns.find? (fun t => t.id == a) = some x →
      (∀ d n sx, x.kind = .load d n sx → b = 0 →
        let v := extendBytes (replyBytes x s.arg.bytes n) sx
        let u := y.endTxn x (some (.s d.toNat))
        Completes s .loadReply (((u.modStream x.strm fun st => st.setS d v).acquireFor x).giveOf x)) ∧
      (∀ d w, x.kind = .atomic d w → b = 0 →
        let v := if w then s.arg.v else s.arg.v &&& 0xFFFFFFFF#64
        let u := (y.endTxn x (some (.s d.toNat))).dropReplied x
        Completes s .atomicReply (((u.modStream x.strm fun st => st.setS d v).acquireFor x).giveOf x)) ∧
      (∀ group, x.kind = .store group →
        let u := y.endTxn x none
        let last : Prop := (∀ z ∈ u.net.txns, txnGroup z ≠ some group) ∧ u.groupBack group = []
        (b = 0 → last → Completes s .writeAcknowledgement (u.giveOf x)) ∧
        (b = 0 → (∃ z ∈ u.net.txns, txnGroup z = some group) → Completes s .writeAcknowledgement u) ∧
        (∀ st, b ≠ 0 → u.stream x.strm = some st → st.ended = false → (u.selectTxn x).myJob.hardStop = false →
          x.give = none →
          ∃ (t : State) (r : PendingRecord), Completes s .writeAcknowledgement t ∧ r ∈ t.sch.records ∧
            r.record.cause = (if b = 2 then causeDataLost else causePermission) ∧ r.record.addr = x.va)))

/-- R87 to R94, R98: the fabric ports. A bad flit is answered with the last good one's acknowledgement, one out of sequence is
discarded, one in sequence delivers the messages that end in it and is answered; a request that comes in goes from its
port's stop to its slice, or waits in the port's ingress queue; a message that is sent stays in the replay buffer, and a
port that goes down is down, with both lanes failed too. -/
def Obligations.FabricEvents : Prop :=
  ∀ (s : State) (g : Packet),
    let no := s.arg.a
    let f := s.arg.flit
    let p := s.port no
    let status := fabReg (0x1800 + 8 * no)
    ((flitBytes (sealFlit f)).length = 256 ∧ goodFlit (sealFlit f) = true ∧
      ((flitBytes (sealFlit f)).drop 244).take 4 = leBytes 4 (crc32 ((flitBytes (sealFlit f)).take 244)).toNat) ∧
    (p.up = true → goodFlit f = false → Completes s .flitReceive
      (s.setPort { p with wire := p.wire ++ [sealFlit ⟨p.txSeq, p.rxSeq - 1#12, 0#2, 0#6, 0#32, []⟩] })) ∧
    (p.up = true → goodFlit f = true → f.slots ≠ [] → f.seq ≠ p.rxSeq → Completes s .flitReceive s) ∧
    (p.up = true → goodFlit f = true → f.slots ≠ [] → f.seq = p.rxSeq →
      let r := readSlots 32 (p.rx ++ f.slots.take 15)
      ∃ (q : Port) (fs : List Flit), Completes s .flitReceive (r.1.foldl (fun s m => deliver s no m) (s.setPort q)) ∧
        q.rxSeq = p.rxSeq + 1#12 ∧ q.rx = r.2 ∧ q.replay = (p.acked f.ack).replay ∧ q.queue = p.queue ∧
        q.wire = p.wire ++ fs ∧ fs ≠ [] ∧ ∀ x ∈ fs, x.ack = p.rxSeq ∧ x.slots = []) ∧
    (let left := (p.acked f.ack).replay
     p.up = true → goodFlit f = true → f.slots = [] →
      ((p.replay = [] ∨ left ≠ p.replay) →
        ∃ t : State, Completes s .flitReceive t ∧ (t.port no).replay = left ∧ (t.port no).replays = 0 ∧
          (t.port no).credits = p.credits.set f.cvc.toNat (p.credits.getD f.cvc.toNat 0 + 4 * f.crn.toNat)) ∧
      (p.replay ≠ [] → left = p.replay →
        ∃ t : State, Completes s .flitReceive t ∧ (t.port no).wire = p.wire ++ p.replay ∧ (t.port no).replays = p.replays + 1 ∧
          (16 ≤ p.replays + 1 → .event .portDown { a := no } ∈ t.agenda))) ∧
    (∀ m : FabricMessage, malformed m = false →
      (s.ingressStatus m true = 0 →
        (m.fclass = 0#4 → deliver s no m = toSlice s no 0 m) ∧ (m.fclass = 2#4 → deliver s no m = toSlice s no 2 m)) ∧
      (s.ingressStatus m true ≠ 0 → (m.fclass = 0#4 ∨ m.fclass = 2#4 ∨ m.fclass = 4#4) →
        (deliver s no m).mm = s.mm ∧ (deliver s no m).field (fabReg 0x018) 1 1 = 1) ∧
      (∀ x, m.fclass = 4#4 → s.ingressStatus m true = 0 → fetchFields m = some x → s.field (fabReg 0x028) 1 1 = 0 →
        ∃ r ∈ (deliver s no m).net.packets, r.id = s.ticket ∧ r.place = .ingress no ∧ r.pa = m.pa.toNat ∧
          r.body = .fetchOp x.x x.x2 x.nmem x.aop x.w x.order 7 x.nc false) ∧
      (m.fclass = 6#4 → s.groupAccepts m = false → deliver s no m = s.raise (fabReg 0x018) 3)) ∧
    (∀ m : FabricMessage, malformed m = true → deliver s no m = s.raise (fabReg 0x018) 2) ∧
    (∀ from_ m, s.arbitrate no (s.net.packets.filter fun r => r.place == .slice no s.arg.b && slicePos r.pa == s.arg.c) =
        some (g, false) → g.body = .fabricIn from_ m → g.cls = 2 → m.fclass = 2#4 → s.hostHolds g.pa = false →
      Completes s .fetchOpPerform
        (answer (maskedWrite (s.dropPacket g.id) m) (no, s.arg.b) (16 + slicePos m.pa.toNat) m 3 0 0 [])) ∧
    (p.up = true → ∃ t : State, Completes s .portDown t ∧ (t.port no).up = false ∧ (t.port no).lanes = p.lanes ∧
      t.field status 0 0 = 0 ∧ t.field (fabReg 0x018) 0 0 = 1) ∧
    (let left := p.lanes &&& ~~~ BitVec.ofNat 2 (2 ^ (s.arg.b % 2))
     (left ≠ 0#2 → ∃ t : State, Completes s .laneTrainingFail t ∧ (t.port no).lanes = left ∧ (t.port no).up = p.up ∧
       t.field status 1 1 = natOfBool p.up) ∧
     (left = 0#2 → ∃ t : State, Completes s .laneTrainingFail t ∧ (t.port no).up = false ∧ (t.port no).lanes = 0#2)) ∧
    (no < 144 → s.field (fabReg (0x1000 + 8 * no)) 8 8 = 1 → p.lanes ≠ 0#2 → p.up = false →
      ∃ t : State, Completes s .fabricPortUp t ∧ (t.port no).up = true ∧ t.field status 0 0 = 1 ∧
        t.field status 1 1 = natOfBool (p.lanes ≠ 3#2)) ∧
    (∀ m, s.arg.c = 0 → s.arg.flag = false → p.up = true → p.replay.length < 256 → p.tx = [] → nextMessage p = some m →
      ∃ (t : State) (x : Flit), Completes s .fabricMessageSend t ∧ x.seq = p.txSeq ∧ x.ack = p.rxSeq - 1#12 ∧
        x.slots.head? = some (messageHeader m) ∧ (t.port no).txSeq = p.txSeq + 1#12 ∧ (t.port no).replay = p.replay ++ [x] ∧
        (t.port no).wire = p.wire ++ [x] ∧ (∃ y ∈ (t.port no).sent, y.2 = m) ∧
        m.len.toNat + 1 ≤ p.credits.getD (channelOf m.fclass.toNat) 0) ∧
    (∀ die stop port via m, s.arg.c = 0 → s.arg.flag = true → s.packet s.arg.b = some g → g.place = .ejected die stop via →
      g.body = .fabricOut port m → g.dstDie = die → g.dstStop = stop →
      let at_ := s.routeAt m.dstMod.toNat
      (s.readHeld at_ = true → Completes s .fabricMessageSend (s.askLine at_ 0 1 false)) ∧
      (s.readHeld at_ = false →
        (port = noPort ∨ ∀ x ∈ s.net.packets, ∀ n y, x.id < g.id → x.body = .fabricOut n y → y.dstMod = m.dstMod →
          y.pa.toNat / 128 ≠ m.pa.toNat / 128) →
        (s.routePort m.dstMod.toNat m.pa.toNat = some port →
          Completes s .fabricMessageSend (enqueue (s.dropPacket g.id) port m)) ∧
        (∀ n, s.routePort m.dstMod.toNat m.pa.toNat = some n → n ≠ port → g.cls < 12 →
          ∃ (t : State) (r : Packet), Completes s .fabricMessageSend t ∧ t.packet g.id = some r ∧ r.body = .fabricOut n m ∧
            (r.dstDie, r.dstStop) = portStop n ∧ r.place = .ejected die stop 16) ∧
        (s.routePort m.dstMod.toNat m.pa.toNat = none →
          Completes s .fabricMessageSend (refuseMessage (s.dropPacket g.id) (die, stop) 16 m)))) ∧
    (∀ h data, s.arg.c = 2 → f.slots = h :: data → (messageOf h data).fclass = 6#4 → malformed (messageOf h data) = false →
      Completes s .fabricMessageSend (sendMessage s hostStop 16 0 [] 0 (messageOf h data)))

/-- R131, R142, R143, R148 to R153, R158 to R163, R168 to R170, R261, R310: launches, the scheduler's decisions, admission, migration,
pre-emption, the watchdog, the quiesce handshake, the fault queue, and sleepers. -/
def Obligations.SchedulingEvents : Prop :=
  ∀ (s v : State) (l : Launch) (j k : Job) (core : Nat),
    let a := s.arg.a
    let id := s.arg.job
    let u := s.rest
    let at_ (t : State) (i : JobId) (p : Job → Prop) : Prop := ∃ x : Job, t.job i = some x ∧ p x
    (s.launch a s.arg.b = some l → ∃ t : State, Completes s .launchStartTime t ∧ t.launch a s.arg.b =
      some { l with released := l.released || decide (l.start.toNat ≤ (s.dtb l.part).toNat) }) ∧
    (∀ bs, s.launch a s.arg.b = some l → l.patch = .unchecked →
      readVia s l.via (l.kimage + BitVec.ofNat 64 l.header.patchOff) (8 * l.header.npatch) = (.ok bs, v) →
      let t := patchStructure v l (parsePatches l.header.npatch bs) fun t => patchValues t l (parsePatches l.header.npatch bs) []
      let open_ := (t.launch l.part l.acc).any fun x => x.patch == .unchecked
      (l.header.npatch = 0 → Completes s .launchPatchCheck
        ((v.modLaunch l.part l.acc fun l => { l with patch := .passed, patches := [] }).answered l.via.strm l.via.op)) ∧
      Completes s .launchPatchCheck (if open_ then t else t.answered l.via.strm l.via.op)) ∧
    (∀ q, s.arg.c = 0 → oldestQuery (s.sch.queries.filter fun q => q.job.part == a && s.runsOn q.job) = some q →
      s.launch q.job.part q.job.acc = some l → s.job q.job = some j →
      let y : State := { s with sch := { s.sch with queries := s.sch.queries.erase q } }
      let z := if l.cursor < l.cellCount then y.modLaunch l.part l.acc fun l => { l with cursor := l.cursor + 1 } else y
      Completes s .chuteQuery (z.sendControl (z.controlStop q.job.part q.job.part) (coreStop (j.core.getD 0)) .chuteQuery
        { job := q.job, a := q.offset, b := q.tok.toNat, c := 2, bytes := cellAnswer l })) ∧
    (s.arg.c = 1 → ∃ t : State, Completes s .chuteQuery t ∧
      t.sch.queries = s.sch.queries ++ [⟨id, a, BitVec.ofNat 3 s.arg.b, s.ticket⟩]) ∧
    (s.arg.c = 2 → s.job id = some j → j.hardStop = false → s.arg.bytes.length = 16 →
      ∃ t : State, Completes s .chuteQuery t ∧ t.poolRead id a 16 = s.arg.bytes ∧
        at_ t id fun x => x.queries = j.queries - 1 ∧ (j.token (s.arg.b % 8) < 16 → j.lateGives = [] →
          x.token (s.arg.b % 8) = j.token (s.arg.b % 8) + 1)) ∧
    (let d := dropRequests s a
     ∀ c rest, s.isLowest a = true → s.arg.flag = false → s.quiescing a = false → s.sys.halted.contains a = false →
      d.candidates a = c :: rest → d.placeFor a c = some core →
      ∃ t : State, Completes s .schedDispatch t ∧ t = distribute d c core ∧
        at_ t c.id fun x => x.state = .distributed ∧ x.core = some core ∧ x.die = coreDie core ∧ x.order = s.ticket) ∧
    (s.isLowest a = true → s.arg.flag = true → Completes s .schedDispatch (cancelTag s a s.arg.v)) ∧
    ((u.admissionOrder a).findSome? (fun x => (u.seatFor x).map fun c => (x, c)) = some (j, core) → u.job j.id = some j →
      u.launch j.id.part j.id.acc = some l →
      (u.streamsOf j.id = [] → Completes s .jobAdmit (admitFresh u l j.id core)) ∧
      (u.streamsOf j.id ≠ [] → (∀ w, zeroArea u j core (u.savedSlots j.id) w = w v) → v.job j.id = some k → k.killWanted = false →
        ∃ t : State, Completes s .jobAdmit t ∧ at_ t j.id fun x => x.state = .resident ∧ x.core = some core ∧ x.preempt = false)) ∧
    (u.job id = some j → u.jobFinished j = true → jobReleased (releaseJob u j) j = true → j.id = id →
      Completes s .jobDone (concludeJob (releaseJob u j) id false)) ∧
    (u.job id = none → Completes s .jobDone (completeLaunch u id.part id.acc)) ∧
    (s.arg.flag = true → ∃ t : State, Completes s .migrationAdvert t ∧
      tableGet (t.sched a).adverts (8 * s.arg.v.toNat + s.arg.b) 0 = s.arg.c) ∧
    (s.arg.flag = false → s.field (schReg a 0x038) 8 8 = 1 → s.isLowest a = true →
      s.arg.b ∈ s.diesOf a (decide (4 ≤ s.arg.b)) →
      let told := ((s.diesOf a false ++ s.diesOf a true).filter fun d => d != s.arg.b).foldl (fun y d =>
        y.sendControl (y.controlStop a s.arg.b) (y.controlStop a d) .migrationAdvert
          { a := a, b := s.arg.b, c := s.freeSlots a s.arg.b (decide (4 ≤ s.arg.b)), flag := true, v := BitVec.ofNat 64 d }) s
      (told.overdue a s.arg.b = [] → Completes s .migrationAdvert told) ∧
      (∀ n m, told.overdue a s.arg.b = [j] → told.field (schReg a 0x038) 7 0 ≤ 1 → told.bestAdvert a s.arg.b = some (n, m) → 0 < m →
        told.boundTo j.id n = false → Completes s .migrationAdvert (packJob told j n))) ∧
    (s.job id = some j → j.migrating = true → ∃ t : State, Completes s .migrationReceive t ∧
      at_ t id fun x => x = { j with migrating := false, leaving := [], order := s.ticket, since := s.time.ticks }) ∧
    (∀ n, s.job id = some j → j.softMark = some n → j.state = .resident → 0 < n → n ≤ s.time.ticks → j.hardStop = false →
      ∃ t : State, Completes s .softPreemptTimeout t ∧ at_ t id fun x => x = { j with preempt := true }) ∧
    (u.job id = some j → j.id = id → j.state = .resident → j.preempt = true → j.hardStop = false → j.savePark = none →
      u.settled j = true → releasedAt (recallAll u j) (j.core.getD 0) 5 = true → (recallAll u j).raysParking id = false →
      ((recallAll u j).modJob id saveInbound).job id = some k → k.id = id →
      savePieces ((recallAll u j).modJob id saveInbound) k (blockPieces k ++ splitPieces ((recallAll u j).modJob id saveInbound) k ++
        registerPieces ((recallAll u j).modJob id saveInbound) k ++ granulePieces k) = .done v → v.job id = some k →
      ∃ t : State, Completes s .hardPreemptDone t ∧ t.mm = v.mm ∧
        at_ t id fun x => x.state = .suspended ∧ x.preempt = false ∧ x.resident = []) ∧
    (u.job id = some j → j.id = id → j.expired = true → j.savePark = none →
      (∀ c ∈ j.copies, c.parked = none) →
      let y := u.modJob id fun j => { j with preempt := true, copies := j.copies.filter fun c => c.parked.isNone }
      y.settled j = true → (recallAll y j).raysParking id = false → savePieces (recallAll y j) j (canaryPieces (recallAll y j) j) = .done v →
      v.job id = some k → v.field (snpReg 0x010) 13 13 = 0 →
      ∃ t : State, Completes s .canaryExpiry t ∧ t.field (schReg id.part 0x028) 2 2 = 1 ∧ t.mm = v.mm ∧
        at_ t id fun x => x.hardStop = true) ∧
    (s.field (prtReg 0x010) 63 63 = 0 → a < 16 →
      (s.maskOk a = true → ∃ t : State, Completes s .prtQuiesce t ∧ t.reg (prtReg 0x010) = 0x8000000000000000#64 ∧
        t.sys.quiesce = some ⟨BitVec.ofNat 4 a, s.time.ticks, none⟩ ∧ ∀ p, p < 4 → t.quiescing p = a.testBit p) ∧
      (s.maskOk a = false → Completes s .prtQuiesce (s.setReg (prtReg 0x010) 0x3000000000000000#64))) ∧
    (∀ q, s.sys.quiesce = some q →
      (q.captured = none → s.firstBusy q.mask = none → ∃ (t : State) (x : Table (BitVec 64)), Completes s .quiesceReached t ∧
        t.reg (prtReg 0x010) = 0x8800000000000000#64 ∧ t.sys.quiesce = some { q with captured := some x } ∧
        ∀ o ∈ capturedOffsets, tableGet x o 0#64 = s.reg o) ∧
      (∀ b, q.captured = none → s.firstBusy q.mask = some b →
        q.since + Config.ticksPerMicrosecond * s.field (prtReg 0x018) 31 0 ≤ s.time.ticks →
        ∃ t : State, Completes s .quiesceTimeout t ∧ t.field (prtReg 0x010) 63 60 = 1 ∧ t.field (prtReg 0x010) 1 0 = b % 4 ∧
          t.sys.quiesce = none) ∧
      (∀ old, q.captured = some old → a = q.mask.toNat →
        (s.releaseOk q.mask old = true → ∃ t : State, Completes s .prtRelease t ∧ t.reg (prtReg 0x010) = 0#64 ∧
          t.sys.quiesce = none ∧ ∀ o ∈ capturedOffsets, t.reg o = s.reg o) ∧
        (s.releaseOk q.mask old = false → ∃ t : State, Completes s .prtRelease t ∧
          t.reg (prtReg 0x010) = 0x2000000000000000#64 ∧ t.sys.quiesce = none ∧
          ∀ o ∈ capturedOffsets, t.reg o = tableGet old o 0#64))) ∧
    (∀ r, s.sch.records.find? (fun r => r.part == a) = some r → a < 4 →
      let base := s.field (schReg a 0x018) 51 12 * 4096
      let size := s.faultSlots a
      let put := s.sliceNat base 8
      let slot := base + 0x100 + 128 * (put % size)
      let full : Prop := size = 0 ∨ (put + 2 ^ 64 - s.sliceNat (base + 0x80) 8) % 2 ^ 64 = size
      (full → s.readHeld base = false → s.readHeld (base + 0x80) = false →
        Completes s .faultRecordPost (s.raise (schReg a 0x028) 1)) ∧
      let w := (endRelease s r).2
      (¬ full → s.readHeld base = false → s.readHeld (base + 0x80) = false → s.hostHolds slot = false → (endRelease s r).1 = true →
        w.poisonedLine (slot / 128) = false → w.poisonedLine (base / 128) = false → w.uncommittedAt slot = false →
        w.uncommittedAt base = false →
        ∃ m : State, Completes s .faultRecordPost (afterPost (stampItem m r.item (w.dtb a)) r) ∧
          cellsGet m.mm.mem slot 128 = recordBytes { r.record with time := w.dtb a } ∧
          cellsGet m.mm.mem base 8 = leBytes 8 (put + 1) ∧ m.sch.records = s.sch.records.erase r)) ∧
    (∀ (st : Stream) (t : Word) (d : SReg), s.stream s.arg.strm = some st →
      let y := s.select s.arg.strm a
      y.me.frag.wait = .sleep t d → y.me.frag.id = a → y.ownerIssues y.me.id.owner = true → y.me.fired = false → t ≠ BitVec.allOnes 64 →
      t.toNat ≤ (y.dtb (coreDie y.core)).toNat → Completes s .sleepDeadline ((y.setS d 0#64).advance))

/-- R167, R172 to R174, R179, R185, R198, R203, R212, R382, R391, R392, R398, R399, R404, R418: what engines and the guide half do of
themselves. Registers are filled and spilled, operations start in order and end when their last unit is done, a command that
meets a fault is stopped and recorded, and passes, sends and rays go on. -/
def Obligations.EngineEvents : Prop :=
  ∀ (s v : State) (j : Job) (bs : List Byte),
    let a := s.arg.a
    let id := s.arg.job
    let f := s.select s.arg.strm s.arg.b
    let works (strm : Nat) (u : State) : Prop :=
      s.job id = some j ∧ j.state = .resident ∧ j.hardStop = false ∧ u = s.select ⟨.job id, strm⟩ 0
    let via := f.myJob.via 1 f.me.id.strm f.fragOp
    (s.arg.flag = true → Completes s .registerFillDone (if f.myJob.works = true ∧ f.me.frag.ready = true then startFill f else f)) ∧
    (s.arg.flag = false → f.myJob.state = .resident → f.myJob.holds f.me.id.strm a = false →
      f.myJob.resident.length < f.myJob.physical →
      readVia f via (f.myJob.slotOf f.me.id.strm a) 512 = (.ok bs, v) →
      ∃ t : State, Completes s .registerFillDone t ∧ t.me = v.me.setVAfter a (BitVec.ofNat 4096 (leNat bs)) ∧
        t.myJob = v.myJob.touch f.me.id.strm a false ∧ t.mm = v.mm) ∧
    (∀ st, f.stream ⟨f.me.id.owner, s.arg.c⟩ = some st → f.myJob.holds s.arg.c a = true → f.myJob.state = .resident →
      writeVia f via (f.myJob.slotOf s.arg.c a) (leBytes 512 (st.vregAfter a).toNat) = (.ok (), v) →
      ∃ t : State, Completes s .registerSpillDone t ∧ t.myJob = v.myJob.drop s.arg.c a ∧ t.mm = v.mm) ∧
    (∀ n, f.myJob.state = .resident → s.arg.flag = false → f.me.slotOfEntry a = none →
      firstBelow 240 (fun k => !f.me.slotsTaken.contains k) = some n →
      let r := f.freeBytes 32
      writeVia r.2 via (f.myJob.splitSlot f.me.id.strm n) r.1 = (.ok (), v) →
      let w := v.answered v.me.id v.fragOp
      Completes s .splitTableSpillFill { w with me := w.me.setSlot a (some n) }) ∧
    (∀ n w, f.myJob.state = .resident → s.arg.flag = true → f.me.slotOfEntry a = some n →
      readVia f via (f.myJob.splitSlot f.me.id.strm n) 32 = (.ok bs, v) →
      writeVia v (v.myJob.via 1 v.me.id.strm v.fragOp) (v.myJob.splitSlot v.me.id.strm n) (List.replicate 32 0#8) = (.ok (), w) →
      let x := w.answered w.me.id w.fragOp
      Completes s .splitTableSpillFill { x with me := (x.me.setSlot a none).settle }) ∧
    (∀ u c, works copyStrm u → u.myJob.nextCopy = some c → c.id = u.arg.a → u.myJob.preempt = false →
      Completes s .copyStart (u.setJob fun j => j.modCopy c.id fun c => { c with started := true })) ∧
    (∀ u c, works copyStrm u → u.myJob.copyOp u.arg.a = some c → c.started = true → c.parked = none → c.moveDone u.myJob = true →
      (∀ x y, c.op ≠ .sem x y) → releasedAt (releaseAt u u.core c.scope) (releaseAt u u.core c.scope).core c.scope = true →
      Completes s .copyComplete (finishCopy (releaseAt u u.core c.scope) c)) ∧
    (∀ c, s.job id = some j → j.copyOp a = some c → j.id = id → j.hardStop = false → c.parked = none →
      s.field (snpReg 0x010) s.arg.b s.arg.b = 0 →
      ∃ (t : State) (k : Job) (r : PendingRecord), Completes s .copyTransferFault t ∧ t.job id = some k ∧
        t.sch.records = s.sch.records ++ [r] ∧ r.record.cause = s.arg.b ∧ r.record.engine = 3 ∧ r.record.kind = 6 ∧
        (dispOf s.arg.b = 2 → k.hardStop = true ∧ r.record.disp = 2 ∧ r.ends = some id) ∧
        (dispOf s.arg.b ≠ 2 → k.copyOp a = some { c with parked := some ⟨0, s.time.ns, 6, false, s.ticket⟩ } ∧ r.record.disp = 0)) ∧
    (∀ u c, works matrixStrm u → u.myJob.mcmd u.arg.a = some c → u.myJob.mayStart c = true →
      Completes s .matrixCommandStart (u.setJob fun j => j.begin c)) ∧
    (∀ u c, works matrixStrm u → u.myJob.mcmd u.arg.a = some c → c.started = true → c.units ≤ c.steps →
      c.shared = false → c.writes = false → Completes s .matrixCommandDone (finishCommand u c)) ∧
    (∀ q o c, s.job id = some j → j.coopAsk = some q → q.answer = none → s.job q.origin = some o → o.away = false →
      o.coopOrigin q = some c → sameDescriptor q c = false →
      ∃ (t : State) (k : Job), Completes s .coopDescriptor t ∧ t.job id = some k ∧
        k.coopAsk = some { q with answer := some none }) ∧
    (∀ q o c, s.job id = some j → j.coopAsk = some q → q.answer = none → s.job q.origin = some o → o.away = false →
      o.coopOrigin q = some c → sameDescriptor q c = true →
      ∃ (t : State) (k m : Job), Completes s .coopDescriptor t ∧ t.job id = some k ∧
        k.coopAsk = some { q with answer := some (some c.id) } ∧ t.job q.origin = some m ∧
        ∃ x ∈ m.mcmds, x.id = c.id ∧ x.accepted = c.accepted ++ [q.part]) ∧
    (∀ u c, works matrixStrm u → u.myJob.mcmd u.arg.a = some c → c.finished = none → Completes s .coopCombine u) ∧
    (∀ u c d, works matrixStrm u → u.myJob.mcmd u.arg.a = some c → c.finished = some d → c.shared = true → c.part = 0 →
      let others := (List.range (coopParts c.a - 1)).filterMap fun p => u.coopMember u.myJob.id c.id (p + 1)
      others.length = coopParts c.a - 1 →
      ∃ x : State, Completes s .coopCombine (others.foldl (fun s o => onEngine s o.1.id matrixStrm fun s => finishCommand s o.2)
        (finishCommand ((others.foldl (fun s o => onEngine s o.1.id matrixStrm fun s => s.sendPanels u.myJob.id c.shapePanels) x).select
          ⟨.job u.myJob.id, matrixStrm⟩ 0) c)) ∧ x = u.setJob fun j => (List.range (shapeRows c.shape * shapeCols c.shape)).foldl
          (fun (y : Job) n => y.mapPanel (c.md + n) fun i k => combine ((d, j.panel (c.md + n) i k) ::
            others.map fun o => (o.2.finished.getD 0, o.1.panel (o.2.md + n) i k))) j) ∧
    (∀ u c, works matrixStrm u → u.myJob.mcmd u.arg.a = some c → u.mayMigrate u.myJob c u.arg.b = true →
      Completes s .commandMigrate ((u.setJob fun j => j.begin c).setJob fun j =>
        j.modMcmd c.id fun x => { x with helper := some u.arg.b })) ∧
    (∀ c, s.job id = some j → j.mcmd a = some c → c.helper ≠ none →
      ∃ (t : State) (k : Job), Completes s .commandRecall t ∧ t.job id = some k ∧ k.mcmd a = some { c with helper := none } ∧
        k.mcmds.head? = some { c with helper := none }) ∧
    (∀ c, s.job id = some j → j.mcmd a = some c → j.id = id → j.hardStop = false → j.expired = false →
      s.field (snpReg 0x010) s.arg.b s.arg.b = 0 →
      ∃ (t : State) (r : PendingRecord), Completes s .matrixOperandFault t ∧ r ∈ t.sch.records ∧ r.record.cause = s.arg.b ∧
        r.record.engine = 2 ∧ r.record.addr = s.arg.v ∧ r.record.pc = c.pc ∧ r.ends = some id ∧
        r.record.disp = if s.arg.b ≠ causeDataLost ∧ s.mayRelaunch j = true then 3 else 2) ∧
    (let y := s.untold.foldl tellStatus s
     ∀ q rest p, y.guide.arrivals = q :: rest → y.openPass q.part = some p →
      let u : State := { y with guide := { y.guide with arrivals := rest } }
      (q.ends = true → Completes s .primitiveArrival (endForm u p)) ∧
      (q.ends = false → Completes s .primitiveArrival (recordPrimitive u p q) ∧ (recordPrimitive u p q).guide.arrivals = rest)) ∧
    (∀ p r k, s.guide.passes.find? (fun p => p.part == a && s.mayResolve p) = some p →
      s.freeStore p = some (r, k) →
      ∃ t : State, Completes s .binResolve t ∧
        t.guide.stores = s.guide.stores ++ [⟨p.gd, r, k, p.id, p.nextBin, resolveBin p s.draw p.nextBin⟩] ∧
        ∃ q ∈ t.guide.passes, q.id = p.id ∧ q.nextBin = p.nextBin + 1) ∧
    (∀ r c, s.guide.sends.find? (fun r => r.id == a) = some r → s.job r.dst = some c → c.away = false → s.sendsBefore r = false →
      r.fullOff + 4 ≤ r.ringOff → r.ringOff + 16384 * (r.slot + 1) ≤ r.tagOff → r.dst ≠ r.src →
      ∃ t : State, Completes s .guideBinLanded t ∧
        t.poolRead r.dst (r.ringOff + 16384 * r.slot) 16384 = s.poolRead r.src r.srcOff 16384 ∧
        t.poolRead r.dst (r.tagOff + 8 * r.slot) 8 = leBytes 8 r.tag.toNat ∧
        t.poolNat r.dst r.fullOff 4 = satAdd32 (s.poolNat r.dst r.fullOff 4) 1 ∧ ∀ x ∈ t.guide.sends, x.id ≠ r.id) ∧
    (∀ r, s.guide.rays.find? (fun r => r.id == a) = some r → r.phase = .traversing →
      s.job r.job = some j → j.state = .resident → j.hardStop = false →
      Completes s .rayTraversalStop (match traverse 64 s r with
        | .at_ r s => s.modRay r.id fun _ => r
        | .complete r s => completeRay (s.modRay r.id fun _ => r) r
        | .fault r c a s => rayFault (s.modRay r.id fun _ => r) r c a)) ∧
    (∀ r w, s.guide.rays.find? (fun r => r.id == a) = some r → r.phase ≠ .parked →
      let best := bestBytes s r
      rayWrite best.2 r 0x30 (stateBytes best.1 r) = (.ok (), v) → rayWrite v r 0x2C (leBytes 4 1) = (.ok (), w) →
      Completes s .rayPark
        ((w.answered ⟨.job r.job, r.strm⟩ (2 * r.id + 1)).modRay r.id fun r => { r with phase := .parked }))
end

