-- ==== Sys2Proof/Laws/Tables.lean ====
section
/-!
SUPPORT. What tables and memories give back: reads after writes, what a write leaves alone, and that every operation on a
memory keeps its canonical form.
-/

namespace Sys2Proof.Machine

/-! ### Tables -/

@[simp] theorem tableFind_erase_self {α : Type} (t : Table α) (k : Nat) : tableFind (tableErase t k) k = none := by
  induction t with
  | nil => rfl
  | cons e rest ih =>
    obtain ⟨j, w⟩ := e
    by_cases h : k = j <;> simp [tableErase, tableFind, h] at ih ⊢ <;> assumption

theorem tableFind_erase_ne {α : Type} (t : Table α) (k n : Nat) (hn : n ≠ k) :
    tableFind (tableErase t k) n = tableFind t n := by
  induction t with
  | nil => rfl
  | cons e rest ih =>
    obtain ⟨j, w⟩ := e
    by_cases h : k = j
    · subst h; simp [tableErase, tableFind, hn, ih]
    · by_cases h' : n = j <;> simp [tableErase, tableFind, h, h', ih]

@[simp] theorem tableFind_put_self {α : Type} (t : Table α) (k : Nat) (v : α) : tableFind (tablePut t k v) k = some v := by
  induction t with
  | nil => simp [tablePut, tableFind]
  | cons e rest ih =>
    obtain ⟨j, w⟩ := e
    by_cases h : k < j
    · simp [tablePut, tableFind, h]
    · by_cases h' : k = j <;> simp [tablePut, tableFind, h, h', ih]

theorem tableFind_put_ne {α : Type} (t : Table α) (k n : Nat) (v : α) (hn : n ≠ k) :
    tableFind (tablePut t k v) n = tableFind t n := by
  induction t with
  | nil => simp [tablePut, tableFind, hn]
  | cons e rest ih =>
    obtain ⟨j, w⟩ := e
    by_cases h : k < j
    · simp [tablePut, tableFind, h, hn]
    · by_cases h' : k = j
      · subst h'; simp [tablePut, tableFind, hn]
      · by_cases h'' : n = j <;> simp [tablePut, tableFind, h, h', h'', ih]

/-- A key that has been set reads its value. -/
@[simp] theorem tableGet_set_self {α : Type} [DecidableEq α] (t : Table α) (k : Nat) (v d : α) :
    tableGet (tableSet t k v d) k d = v := by
  by_cases h : v = d <;> simp [tableGet, tableSet, h]

/-- Another key reads as before. -/
theorem tableGet_set_ne {α : Type} [DecidableEq α] (t : Table α) (k n : Nat) (v d e : α) (hn : n ≠ k) :
    tableGet (tableSet t k v d) n e = tableGet t n e := by
  by_cases h : v = d <;> simp [tableGet, tableSet, h, tableFind_erase_ne _ _ _ hn, tableFind_put_ne _ _ _ _ hn]

theorem tableGet_set {α : Type} [DecidableEq α] (t : Table α) (k n : Nat) (v d : α) :
    tableGet (tableSet t k v d) n d = if n = k then v else tableGet t n d := by
  by_cases h : n = k
  · subst h; simp
  · simp [h, tableGet_set_ne _ _ _ _ _ _ h]

/-! ### Canonical form -/

theorem tableFormFrom_mono {α : Type} [DecidableEq α] {t : Table α} {low low' : Nat} {d : α} (hl : low' ≤ low)
    (h : tableFormFrom t low d = true) : tableFormFrom t low' d = true := by
  cases t with
  | nil => rfl
  | cons e rest =>
    obtain ⟨j, w⟩ := e
    simp only [tableFormFrom, Bool.and_eq_true, decide_eq_true_eq] at h ⊢
    exact ⟨⟨Nat.le_trans hl h.1.1, h.1.2⟩, h.2⟩

theorem tableFormFrom_erase {α : Type} [DecidableEq α] {t : Table α} {low k : Nat} {d : α}
    (h : tableFormFrom t low d = true) : tableFormFrom (tableErase t k) low d = true := by
  induction t generalizing low with
  | nil => rfl
  | cons e rest ih =>
    obtain ⟨j, w⟩ := e
    simp only [tableFormFrom, Bool.and_eq_true, decide_eq_true_eq] at h
    by_cases hk : k = j
    · subst hk
      simp only [tableErase, if_true]
      exact tableFormFrom_mono (Nat.le_succ_of_le h.1.1) (ih h.2)
    · simp only [tableErase, hk, if_false, tableFormFrom, Bool.and_eq_true, decide_eq_true_eq]
      exact ⟨h.1, ih h.2⟩

theorem tableFormFrom_put {α : Type} [DecidableEq α] {t : Table α} {low k : Nat} {v d : α} (hk : low ≤ k) (hv : v ≠ d)
    (h : tableFormFrom t low d = true) : tableFormFrom (tablePut t k v) low d = true := by
  induction t generalizing low with
  | nil => simp [tablePut, tableFormFrom, hk, hv]
  | cons e rest ih =>
    obtain ⟨j, w⟩ := e
    simp only [tableFormFrom, Bool.and_eq_true, decide_eq_true_eq] at h
    by_cases h1 : k < j
    · simp only [tablePut, h1, if_true, tableFormFrom, Bool.and_eq_true, decide_eq_true_eq]
      exact ⟨⟨hk, by simp [hv]⟩, ⟨⟨by omega, h.1.2⟩, h.2⟩⟩
    · by_cases h2 : k = j
      · subst h2
        simp only [tablePut, h1, if_true, if_false, tableFormFrom, Bool.and_eq_true, decide_eq_true_eq]
        exact ⟨⟨hk, by simp [hv]⟩, h.2⟩
      · simp only [tablePut, h1, h2, if_false, tableFormFrom, Bool.and_eq_true, decide_eq_true_eq]
        exact ⟨h.1, ih (by omega) h.2⟩

/-- Setting a key keeps the canonical form. -/
theorem tableForm_set {α : Type} [DecidableEq α] {t : Table α} {d : α} (k : Nat) (v : α) (h : tableForm t d = true) :
    tableForm (tableSet t k v d) d = true := by
  by_cases hv : v = d
  · simp only [tableSet, hv, if_true]; exact tableFormFrom_erase h
  · simp only [tableSet, hv, if_false]; exact tableFormFrom_put (Nat.zero_le _) hv h

theorem tableFormFrom_filter {α : Type} [DecidableEq α] {t : Table α} {low : Nat} {d : α} (p : Nat × α → Bool)
    (h : tableFormFrom t low d = true) : tableFormFrom (t.filter p) low d = true := by
  induction t generalizing low with
  | nil => rfl
  | cons e rest ih =>
    obtain ⟨j, w⟩ := e
    simp only [tableFormFrom, Bool.and_eq_true, decide_eq_true_eq] at h
    by_cases hp : p (j, w) = true
    · simp only [List.filter_cons, hp, if_true, tableFormFrom, Bool.and_eq_true, decide_eq_true_eq]
      exact ⟨h.1, ih h.2⟩
    · simp only [List.filter_cons, hp]
      exact tableFormFrom_mono (by omega) (ih h.2)

/-! ### Memories -/

@[simp] theorem cellGet_nil (a : Nat) : cellGet [] a = 0#8 := rfl

@[simp] theorem cellGet_set_self (m : List Host.Cell) (a : Nat) (b : Byte) : cellGet (cellSet m a b) a = b :=
  tableGet_set_self m a b blankByte

theorem cellGet_set_ne (m : List Host.Cell) (a n : Nat) (b : Byte) (h : n ≠ a) : cellGet (cellSet m a b) n = cellGet m n :=
  tableGet_set_ne m a n b blankByte blankByte h

/-- Every byte outside the bytes written reads as before. -/
theorem cellGet_cellsSet_outside (bs : List Byte) (m : List Host.Cell) (a n : Nat) (h : n < a ∨ a + bs.length ≤ n) :
    cellGet (cellsSet m a bs) n = cellGet m n := by
  induction bs generalizing m a with
  | nil => rfl
  | cons b rest ih =>
    simp only [List.length_cons] at h
    rw [cellsSet, ih _ _ (by omega), cellGet_set_ne _ _ _ _ (by omega)]

/-- Every byte written reads back. -/
theorem cellGet_cellsSet_inside (bs : List Byte) (m : List Host.Cell) (a k : Nat) (h : k < bs.length) :
    cellGet (cellsSet m a bs) (a + k) = bs[k] := by
  induction bs generalizing m a k with
  | nil => simp at h
  | cons b rest ih =>
    cases k with
    | zero =>
      rw [cellsSet, cellGet_cellsSet_outside _ _ _ _ (by omega)]
      simp
    | succ k =>
      simp only [List.length_cons] at h
      have := ih (cellSet m a b) (a + 1) k (by omega)
      rw [cellsSet, show a + (k + 1) = a + 1 + k by omega, this]
      rfl

@[simp] theorem length_cellsGet (m : List Host.Cell) (a n : Nat) : (cellsGet m a n).length = n := by
  induction n generalizing a with
  | zero => rfl
  | succ n ih => simp [cellsGet, ih]

theorem cellsGet_congr {m m' : List Host.Cell} (n a : Nat) (h : ∀ k, a ≤ k → k < a + n → cellGet m k = cellGet m' k) :
    cellsGet m a n = cellsGet m' a n := by
  induction n generalizing a with
  | zero => rfl
  | succ n ih =>
    simp only [cellsGet]
    rw [h a (by omega) (by omega), ih (a + 1) fun k h1 h2 => h k (by omega) (by omega)]

/-- A read after a write to the same place gives what was written. -/
@[simp] theorem cellsGet_cellsSet_self (bs : List Byte) (m : List Host.Cell) (a : Nat) :
    cellsGet (cellsSet m a bs) a bs.length = bs := by
  induction bs generalizing m a with
  | nil => rfl
  | cons b rest ih =>
    simp only [List.length_cons, cellsGet, cellsSet, ih]
    rw [cellGet_cellsSet_outside _ _ _ _ (by omega)]
    simp

/-- A read of other bytes gives what it gave before. -/
theorem cellsGet_cellsSet_outside (bs : List Byte) (m : List Host.Cell) (a k n : Nat)
    (h : k + n ≤ a ∨ a + bs.length ≤ k) : cellsGet (cellsSet m a bs) k n = cellsGet m k n :=
  cellsGet_congr n k fun j h1 h2 => cellGet_cellsSet_outside bs m a j (by omega)

theorem cellsGet_append (m : List Host.Cell) (a n k : Nat) : cellsGet m a (n + k) = cellsGet m a n ++ cellsGet m (a + n) k := by
  induction n generalizing a with
  | zero => simp [cellsGet]
  | succ n ih =>
    rw [show n + 1 + k = n + k + 1 by omega]
    simp only [cellsGet, List.cons_append]
    rw [ih, show a + 1 + n = a + (n + 1) by omega]

theorem cellsGet_nil (a n : Nat) : cellsGet [] a n = List.replicate n 0#8 := by
  induction n generalizing a with
  | zero => rfl
  | succ n ih => simp [cellsGet, ih, List.replicate_succ]

/-! ### The canonical form of a memory -/

@[simp] theorem memory_wf_nil : Memory.wf [] = true := rfl

/-- A byte written keeps the canonical form. -/
theorem memory_wf_cellSet {m : List Host.Cell} (a : Nat) (b : Byte) (h : Memory.wf m = true) :
    Memory.wf (cellSet m a b) = true := tableForm_set a b h

/-- Bytes written keep the canonical form. -/
theorem memory_wf_cellsSet {m : List Host.Cell} (a : Nat) (bs : List Byte) (h : Memory.wf m = true) :
    Memory.wf (cellsSet m a bs) = true := by
  induction bs generalizing m a with
  | nil => exact h
  | cons b rest ih => exact ih _ (memory_wf_cellSet a b h)

/-- Bytes cleared keep the canonical form. -/
theorem memory_wf_cellsClear {m : List Host.Cell} (a n : Nat) (h : Memory.wf m = true) :
    Memory.wf (cellsClear m a n) = true := tableFormFrom_filter _ h

theorem tableFind_filter_key {α : Type} (t : Table α) (p : Nat → Bool) (k : Nat) :
    tableFind (t.filter fun e => p e.1) k = if p k then tableFind t k else none := by
  induction t with
  | nil => cases p k <;> rfl
  | cons e rest ih =>
    obtain ⟨j, w⟩ := e
    by_cases hp : p j = true
    · by_cases hk : k = j
      · subst hk; simp [tableFind, hp]
      · simp [tableFind, hp, hk, ih]
    · by_cases hk : k = j
      · subst hk; simp [hp, ih]
      · simp [tableFind, hp, hk, ih]

/-- Bytes cleared read zero, and every other byte as before. -/
theorem cellGet_cellsClear (m : List Host.Cell) (a n k : Nat) :
    cellGet (cellsClear m a n) k = if a ≤ k ∧ k < a + n then 0#8 else cellGet m k := by
  have h := tableFind_filter_key m (fun j => decide (j < a) || decide (a + n ≤ j)) k
  simp only [cellGet, tableGet, cellsClear, h]
  by_cases h1 : a ≤ k ∧ k < a + n
  · simp [h1, show ¬ k < a by omega, show ¬ a + n ≤ k by omega, blankByte]
  · have : k < a ∨ a + n ≤ k := by omega
    simp [h1, this]

/-! ### Bytes and numbers -/

@[simp] theorem length_leBytes (n v : Nat) : (leBytes n v).length = n := by
  induction n generalizing v with
  | zero => rfl
  | succ n ih => simp [leBytes, ih]

/-- Bytes of a number give it back, modulo their width. -/
theorem leNat_leBytes (n v : Nat) : leNat (leBytes n v) = v % 2 ^ (8 * n) := by
  induction n generalizing v with
  | zero => simp [leBytes, leNat, Nat.mod_one]
  | succ n ih =>
    simp only [leBytes, leNat, ih, BitVec.toNat_ofNat]
    have h : 2 ^ (8 * (n + 1)) = 256 * 2 ^ (8 * n) := by rw [show 8 * (n + 1) = 8 + 8 * n by omega, Nat.pow_add]
    rw [h, Nat.mod_mul]

/-- Bytes are those of the number that they make. -/
theorem leBytes_leNat (bs : List Byte) : leBytes bs.length (leNat bs) = bs := by
  induction bs with
  | nil => rfl
  | cons b rest ih =>
    have hb := b.isLt
    have h1 : (b.toNat + 256 * leNat rest) / 256 = leNat rest := by omega
    have h2 : BitVec.ofNat 8 (b.toNat + 256 * leNat rest) = b := by
      apply BitVec.eq_of_toNat_eq; simp; omega
    simp [leBytes, leNat, h1, h2, ih]

theorem leNat_lt (bs : List Byte) : leNat bs < 2 ^ (8 * bs.length) := by
  induction bs with
  | nil => simp [leNat]
  | cons b rest ih =>
    have hb := b.isLt
    have h : 2 ^ (8 * (rest.length + 1)) = 256 * 2 ^ (8 * rest.length) := by
      rw [show 8 * (rest.length + 1) = 8 + 8 * rest.length by omega, Nat.pow_add]
    simp only [leNat, List.length_cons, h]
    omega

end Sys2Proof.Machine
end

