-- ==== Sys2Proof/Laws/State.lean ====
section
/-!
SUPPORT. What each update of the state does to each of its fields, and the reads of registers after writes, so that no proof
unfolds a record update.
-/

set_option Elab.async false

namespace Sys2Proof.Machine

/-! ### One lemma for each field and update -/

@[simp] theorem State.setS_agenda (s : State) (n : SReg) (v : Word) : (s.setS n v).agenda = s.agenda := rfl
@[simp] theorem State.setS_arg (s : State) (n : SReg) (v : Word) : (s.setS n v).arg = s.arg := rfl
@[simp] theorem State.setS_draw (s : State) (n : SReg) (v : Word) : (s.setS n v).draw = s.draw := rfl
@[simp] theorem State.setS_ticket (s : State) (n : SReg) (v : Word) : (s.setS n v).ticket = s.ticket := rfl
@[simp] theorem State.setS_me (s : State) (n : SReg) (v : Word) : (s.setS n v).me = s.me.setS n v := rfl
@[simp] theorem State.setS_myJob (s : State) (n : SReg) (v : Word) : (s.setS n v).myJob = s.myJob := rfl
@[simp] theorem State.setS_streams (s : State) (n : SReg) (v : Word) : (s.setS n v).streams = s.streams := rfl
@[simp] theorem State.setS_jobs (s : State) (n : SReg) (v : Word) : (s.setS n v).jobs = s.jobs := rfl
@[simp] theorem State.setS_locks (s : State) (n : SReg) (v : Word) : (s.setS n v).locks = s.locks := rfl
@[simp] theorem State.setS_lastIssue (s : State) (n : SReg) (v : Word) : (s.setS n v).lastIssue = s.lastIssue := rfl
@[simp] theorem State.setS_time (s : State) (n : SReg) (v : Word) : (s.setS n v).time = s.time := rfl
@[simp] theorem State.setS_regs (s : State) (n : SReg) (v : Word) : (s.setS n v).regs = s.regs := rfl
@[simp] theorem State.setS_sch (s : State) (n : SReg) (v : Word) : (s.setS n v).sch = s.sch := rfl
@[simp] theorem State.setS_guide (s : State) (n : SReg) (v : Word) : (s.setS n v).guide = s.guide := rfl
@[simp] theorem State.setS_mm (s : State) (n : SReg) (v : Word) : (s.setS n v).mm = s.mm := rfl
@[simp] theorem State.setS_dram (s : State) (n : SReg) (v : Word) : (s.setS n v).dram = s.dram := rfl
@[simp] theorem State.setS_net (s : State) (n : SReg) (v : Word) : (s.setS n v).net = s.net := rfl
@[simp] theorem State.setS_sys (s : State) (n : SReg) (v : Word) : (s.setS n v).sys = s.sys := rfl

@[simp] theorem State.setV_agenda (s : State) (n : VNum) (v : VReg) : (s.setV n v).agenda = s.agenda := rfl
@[simp] theorem State.setV_arg (s : State) (n : VNum) (v : VReg) : (s.setV n v).arg = s.arg := rfl
@[simp] theorem State.setV_draw (s : State) (n : VNum) (v : VReg) : (s.setV n v).draw = s.draw := rfl
@[simp] theorem State.setV_ticket (s : State) (n : VNum) (v : VReg) : (s.setV n v).ticket = s.ticket := rfl
@[simp] theorem State.setV_me (s : State) (n : VNum) (v : VReg) : (s.setV n v).me = s.me.setV n.toNat v := rfl
@[simp] theorem State.setV_myJob (s : State) (n : VNum) (v : VReg) : (s.setV n v).myJob = s.myJob := rfl
@[simp] theorem State.setV_streams (s : State) (n : VNum) (v : VReg) : (s.setV n v).streams = s.streams := rfl
@[simp] theorem State.setV_jobs (s : State) (n : VNum) (v : VReg) : (s.setV n v).jobs = s.jobs := rfl
@[simp] theorem State.setV_locks (s : State) (n : VNum) (v : VReg) : (s.setV n v).locks = s.locks := rfl
@[simp] theorem State.setV_lastIssue (s : State) (n : VNum) (v : VReg) : (s.setV n v).lastIssue = s.lastIssue := rfl
@[simp] theorem State.setV_time (s : State) (n : VNum) (v : VReg) : (s.setV n v).time = s.time := rfl
@[simp] theorem State.setV_regs (s : State) (n : VNum) (v : VReg) : (s.setV n v).regs = s.regs := rfl
@[simp] theorem State.setV_sch (s : State) (n : VNum) (v : VReg) : (s.setV n v).sch = s.sch := rfl
@[simp] theorem State.setV_guide (s : State) (n : VNum) (v : VReg) : (s.setV n v).guide = s.guide := rfl
@[simp] theorem State.setV_mm (s : State) (n : VNum) (v : VReg) : (s.setV n v).mm = s.mm := rfl
@[simp] theorem State.setV_dram (s : State) (n : VNum) (v : VReg) : (s.setV n v).dram = s.dram := rfl
@[simp] theorem State.setV_net (s : State) (n : VNum) (v : VReg) : (s.setV n v).net = s.net := rfl
@[simp] theorem State.setV_sys (s : State) (n : VNum) (v : VReg) : (s.setV n v).sys = s.sys := rfl

@[simp] theorem State.setVAt_agenda (s : State) (n : VNum) (j : Nat) (v : VReg) : (s.setVAt n j v).agenda = s.agenda := rfl
@[simp] theorem State.setVAt_arg (s : State) (n : VNum) (j : Nat) (v : VReg) : (s.setVAt n j v).arg = s.arg := rfl
@[simp] theorem State.setVAt_draw (s : State) (n : VNum) (j : Nat) (v : VReg) : (s.setVAt n j v).draw = s.draw := rfl
@[simp] theorem State.setVAt_ticket (s : State) (n : VNum) (j : Nat) (v : VReg) : (s.setVAt n j v).ticket = s.ticket := rfl
@[simp] theorem State.setVAt_me (s : State) (n : VNum) (j : Nat) (v : VReg) : (s.setVAt n j v).me = s.me.setV (n.toNat + j) v := rfl
@[simp] theorem State.setVAt_myJob (s : State) (n : VNum) (j : Nat) (v : VReg) : (s.setVAt n j v).myJob = s.myJob := rfl
@[simp] theorem State.setVAt_streams (s : State) (n : VNum) (j : Nat) (v : VReg) : (s.setVAt n j v).streams = s.streams := rfl
@[simp] theorem State.setVAt_jobs (s : State) (n : VNum) (j : Nat) (v : VReg) : (s.setVAt n j v).jobs = s.jobs := rfl
@[simp] theorem State.setVAt_locks (s : State) (n : VNum) (j : Nat) (v : VReg) : (s.setVAt n j v).locks = s.locks := rfl
@[simp] theorem State.setVAt_lastIssue (s : State) (n : VNum) (j : Nat) (v : VReg) : (s.setVAt n j v).lastIssue = s.lastIssue := rfl
@[simp] theorem State.setVAt_time (s : State) (n : VNum) (j : Nat) (v : VReg) : (s.setVAt n j v).time = s.time := rfl
@[simp] theorem State.setVAt_regs (s : State) (n : VNum) (j : Nat) (v : VReg) : (s.setVAt n j v).regs = s.regs := rfl
@[simp] theorem State.setVAt_sch (s : State) (n : VNum) (j : Nat) (v : VReg) : (s.setVAt n j v).sch = s.sch := rfl
@[simp] theorem State.setVAt_guide (s : State) (n : VNum) (j : Nat) (v : VReg) : (s.setVAt n j v).guide = s.guide := rfl
@[simp] theorem State.setVAt_mm (s : State) (n : VNum) (j : Nat) (v : VReg) : (s.setVAt n j v).mm = s.mm := rfl
@[simp] theorem State.setVAt_dram (s : State) (n : VNum) (j : Nat) (v : VReg) : (s.setVAt n j v).dram = s.dram := rfl
@[simp] theorem State.setVAt_net (s : State) (n : VNum) (j : Nat) (v : VReg) : (s.setVAt n j v).net = s.net := rfl
@[simp] theorem State.setVAt_sys (s : State) (n : VNum) (j : Nat) (v : VReg) : (s.setVAt n j v).sys = s.sys := rfl

@[simp] theorem State.advance_agenda (s : State) : s.advance.agenda = s.agenda := rfl
@[simp] theorem State.advance_arg (s : State) : s.advance.arg = s.arg := rfl
@[simp] theorem State.advance_draw (s : State) : s.advance.draw = s.draw := rfl
@[simp] theorem State.advance_ticket (s : State) : s.advance.ticket = s.ticket := rfl
@[simp] theorem State.advance_me (s : State) : s.advance.me = s.me.finish := rfl
@[simp] theorem State.advance_myJob (s : State) : s.advance.myJob = s.myJob := rfl
@[simp] theorem State.advance_streams (s : State) : s.advance.streams = s.streams := rfl
@[simp] theorem State.advance_jobs (s : State) : s.advance.jobs = s.jobs := rfl
@[simp] theorem State.advance_locks (s : State) : s.advance.locks = s.locks := rfl
@[simp] theorem State.advance_lastIssue (s : State) : s.advance.lastIssue = s.lastIssue := rfl
@[simp] theorem State.advance_time (s : State) : s.advance.time = s.time := rfl
@[simp] theorem State.advance_regs (s : State) : s.advance.regs = s.regs := rfl
@[simp] theorem State.advance_sch (s : State) : s.advance.sch = s.sch := rfl
@[simp] theorem State.advance_guide (s : State) : s.advance.guide = s.guide := rfl
@[simp] theorem State.advance_mm (s : State) : s.advance.mm = s.mm := rfl
@[simp] theorem State.advance_dram (s : State) : s.advance.dram = s.dram := rfl
@[simp] theorem State.advance_net (s : State) : s.advance.net = s.net := rfl
@[simp] theorem State.advance_sys (s : State) : s.advance.sys = s.sys := rfl

@[simp] theorem State.goto_agenda (s : State) (a : Word) : (s.goto a).agenda = s.agenda := rfl
@[simp] theorem State.goto_arg (s : State) (a : Word) : (s.goto a).arg = s.arg := rfl
@[simp] theorem State.goto_draw (s : State) (a : Word) : (s.goto a).draw = s.draw := rfl
@[simp] theorem State.goto_ticket (s : State) (a : Word) : (s.goto a).ticket = s.ticket := rfl
@[simp] theorem State.goto_me (s : State) (a : Word) : (s.goto a).me = s.me.jump a := rfl
@[simp] theorem State.goto_myJob (s : State) (a : Word) : (s.goto a).myJob = s.myJob := rfl
@[simp] theorem State.goto_streams (s : State) (a : Word) : (s.goto a).streams = s.streams := rfl
@[simp] theorem State.goto_jobs (s : State) (a : Word) : (s.goto a).jobs = s.jobs := rfl
@[simp] theorem State.goto_locks (s : State) (a : Word) : (s.goto a).locks = s.locks := rfl
@[simp] theorem State.goto_lastIssue (s : State) (a : Word) : (s.goto a).lastIssue = s.lastIssue := rfl
@[simp] theorem State.goto_time (s : State) (a : Word) : (s.goto a).time = s.time := rfl
@[simp] theorem State.goto_regs (s : State) (a : Word) : (s.goto a).regs = s.regs := rfl
@[simp] theorem State.goto_sch (s : State) (a : Word) : (s.goto a).sch = s.sch := rfl
@[simp] theorem State.goto_guide (s : State) (a : Word) : (s.goto a).guide = s.guide := rfl
@[simp] theorem State.goto_mm (s : State) (a : Word) : (s.goto a).mm = s.mm := rfl
@[simp] theorem State.goto_dram (s : State) (a : Word) : (s.goto a).dram = s.dram := rfl
@[simp] theorem State.goto_net (s : State) (a : Word) : (s.goto a).net = s.net := rfl
@[simp] theorem State.goto_sys (s : State) (a : Word) : (s.goto a).sys = s.sys := rfl

@[simp] theorem State.waitFor_agenda (s : State) (w : Wait) : (s.waitFor w).agenda = s.agenda := rfl
@[simp] theorem State.waitFor_arg (s : State) (w : Wait) : (s.waitFor w).arg = s.arg := rfl
@[simp] theorem State.waitFor_draw (s : State) (w : Wait) : (s.waitFor w).draw = s.draw := rfl
@[simp] theorem State.waitFor_ticket (s : State) (w : Wait) : (s.waitFor w).ticket = s.ticket := rfl
@[simp] theorem State.waitFor_me (s : State) (w : Wait) : (s.waitFor w).me = { s.me with frag := { s.me.frag with wait := w, run := 64 } } := rfl
@[simp] theorem State.waitFor_myJob (s : State) (w : Wait) : (s.waitFor w).myJob = s.myJob := rfl
@[simp] theorem State.waitFor_streams (s : State) (w : Wait) : (s.waitFor w).streams = s.streams := rfl
@[simp] theorem State.waitFor_jobs (s : State) (w : Wait) : (s.waitFor w).jobs = s.jobs := rfl
@[simp] theorem State.waitFor_locks (s : State) (w : Wait) : (s.waitFor w).locks = s.locks := rfl
@[simp] theorem State.waitFor_lastIssue (s : State) (w : Wait) : (s.waitFor w).lastIssue = s.lastIssue := rfl
@[simp] theorem State.waitFor_time (s : State) (w : Wait) : (s.waitFor w).time = s.time := rfl
@[simp] theorem State.waitFor_regs (s : State) (w : Wait) : (s.waitFor w).regs = s.regs := rfl
@[simp] theorem State.waitFor_sch (s : State) (w : Wait) : (s.waitFor w).sch = s.sch := rfl
@[simp] theorem State.waitFor_guide (s : State) (w : Wait) : (s.waitFor w).guide = s.guide := rfl
@[simp] theorem State.waitFor_mm (s : State) (w : Wait) : (s.waitFor w).mm = s.mm := rfl
@[simp] theorem State.waitFor_dram (s : State) (w : Wait) : (s.waitFor w).dram = s.dram := rfl
@[simp] theorem State.waitFor_net (s : State) (w : Wait) : (s.waitFor w).net = s.net := rfl
@[simp] theorem State.waitFor_sys (s : State) (w : Wait) : (s.waitFor w).sys = s.sys := rfl

@[simp] theorem State.nextTicket_agenda (s : State) : s.nextTicket.agenda = s.agenda := rfl
@[simp] theorem State.nextTicket_arg (s : State) : s.nextTicket.arg = s.arg := rfl
@[simp] theorem State.nextTicket_draw (s : State) : s.nextTicket.draw = s.draw := rfl
@[simp] theorem State.nextTicket_ticket (s : State) : s.nextTicket.ticket = s.ticket + 1 := rfl
@[simp] theorem State.nextTicket_me (s : State) : s.nextTicket.me = s.me := rfl
@[simp] theorem State.nextTicket_myJob (s : State) : s.nextTicket.myJob = s.myJob := rfl
@[simp] theorem State.nextTicket_streams (s : State) : s.nextTicket.streams = s.streams := rfl
@[simp] theorem State.nextTicket_jobs (s : State) : s.nextTicket.jobs = s.jobs := rfl
@[simp] theorem State.nextTicket_locks (s : State) : s.nextTicket.locks = s.locks := rfl
@[simp] theorem State.nextTicket_lastIssue (s : State) : s.nextTicket.lastIssue = s.lastIssue := rfl
@[simp] theorem State.nextTicket_time (s : State) : s.nextTicket.time = s.time := rfl
@[simp] theorem State.nextTicket_regs (s : State) : s.nextTicket.regs = s.regs := rfl
@[simp] theorem State.nextTicket_sch (s : State) : s.nextTicket.sch = s.sch := rfl
@[simp] theorem State.nextTicket_guide (s : State) : s.nextTicket.guide = s.guide := rfl
@[simp] theorem State.nextTicket_mm (s : State) : s.nextTicket.mm = s.mm := rfl
@[simp] theorem State.nextTicket_dram (s : State) : s.nextTicket.dram = s.dram := rfl
@[simp] theorem State.nextTicket_net (s : State) : s.nextTicket.net = s.net := rfl
@[simp] theorem State.nextTicket_sys (s : State) : s.nextTicket.sys = s.sys := rfl

@[simp] theorem State.later_agenda (s : State) (t : Turn) : (s.later t).agenda = s.agenda ++ [t] := rfl
@[simp] theorem State.later_arg (s : State) (t : Turn) : (s.later t).arg = s.arg := rfl
@[simp] theorem State.later_draw (s : State) (t : Turn) : (s.later t).draw = s.draw := rfl
@[simp] theorem State.later_ticket (s : State) (t : Turn) : (s.later t).ticket = s.ticket := rfl
@[simp] theorem State.later_me (s : State) (t : Turn) : (s.later t).me = s.me := rfl
@[simp] theorem State.later_myJob (s : State) (t : Turn) : (s.later t).myJob = s.myJob := rfl
@[simp] theorem State.later_streams (s : State) (t : Turn) : (s.later t).streams = s.streams := rfl
@[simp] theorem State.later_jobs (s : State) (t : Turn) : (s.later t).jobs = s.jobs := rfl
@[simp] theorem State.later_locks (s : State) (t : Turn) : (s.later t).locks = s.locks := rfl
@[simp] theorem State.later_lastIssue (s : State) (t : Turn) : (s.later t).lastIssue = s.lastIssue := rfl
@[simp] theorem State.later_time (s : State) (t : Turn) : (s.later t).time = s.time := rfl
@[simp] theorem State.later_regs (s : State) (t : Turn) : (s.later t).regs = s.regs := rfl
@[simp] theorem State.later_sch (s : State) (t : Turn) : (s.later t).sch = s.sch := rfl
@[simp] theorem State.later_guide (s : State) (t : Turn) : (s.later t).guide = s.guide := rfl
@[simp] theorem State.later_mm (s : State) (t : Turn) : (s.later t).mm = s.mm := rfl
@[simp] theorem State.later_dram (s : State) (t : Turn) : (s.later t).dram = s.dram := rfl
@[simp] theorem State.later_net (s : State) (t : Turn) : (s.later t).net = s.net := rfl
@[simp] theorem State.later_sys (s : State) (t : Turn) : (s.later t).sys = s.sys := rfl

@[simp] theorem State.event_agenda (s : State) (i : Instr) (a : EventArg) : (s.event i a).agenda = s.agenda ++ [.event i a] := rfl
@[simp] theorem State.event_arg (s : State) (i : Instr) (a : EventArg) : (s.event i a).arg = s.arg := rfl
@[simp] theorem State.event_draw (s : State) (i : Instr) (a : EventArg) : (s.event i a).draw = s.draw := rfl
@[simp] theorem State.event_ticket (s : State) (i : Instr) (a : EventArg) : (s.event i a).ticket = s.ticket := rfl
@[simp] theorem State.event_me (s : State) (i : Instr) (a : EventArg) : (s.event i a).me = s.me := rfl
@[simp] theorem State.event_myJob (s : State) (i : Instr) (a : EventArg) : (s.event i a).myJob = s.myJob := rfl
@[simp] theorem State.event_streams (s : State) (i : Instr) (a : EventArg) : (s.event i a).streams = s.streams := rfl
@[simp] theorem State.event_jobs (s : State) (i : Instr) (a : EventArg) : (s.event i a).jobs = s.jobs := rfl
@[simp] theorem State.event_locks (s : State) (i : Instr) (a : EventArg) : (s.event i a).locks = s.locks := rfl
@[simp] theorem State.event_lastIssue (s : State) (i : Instr) (a : EventArg) : (s.event i a).lastIssue = s.lastIssue := rfl
@[simp] theorem State.event_time (s : State) (i : Instr) (a : EventArg) : (s.event i a).time = s.time := rfl
@[simp] theorem State.event_regs (s : State) (i : Instr) (a : EventArg) : (s.event i a).regs = s.regs := rfl
@[simp] theorem State.event_sch (s : State) (i : Instr) (a : EventArg) : (s.event i a).sch = s.sch := rfl
@[simp] theorem State.event_guide (s : State) (i : Instr) (a : EventArg) : (s.event i a).guide = s.guide := rfl
@[simp] theorem State.event_mm (s : State) (i : Instr) (a : EventArg) : (s.event i a).mm = s.mm := rfl
@[simp] theorem State.event_dram (s : State) (i : Instr) (a : EventArg) : (s.event i a).dram = s.dram := rfl
@[simp] theorem State.event_net (s : State) (i : Instr) (a : EventArg) : (s.event i a).net = s.net := rfl
@[simp] theorem State.event_sys (s : State) (i : Instr) (a : EventArg) : (s.event i a).sys = s.sys := rfl

@[simp] theorem State.sooner_agenda (s : State) (i : Instr) (a : EventArg) : (s.sooner i a).agenda = .event i a :: s.agenda := rfl
@[simp] theorem State.sooner_arg (s : State) (i : Instr) (a : EventArg) : (s.sooner i a).arg = s.arg := rfl
@[simp] theorem State.sooner_draw (s : State) (i : Instr) (a : EventArg) : (s.sooner i a).draw = s.draw := rfl
@[simp] theorem State.sooner_ticket (s : State) (i : Instr) (a : EventArg) : (s.sooner i a).ticket = s.ticket := rfl
@[simp] theorem State.sooner_me (s : State) (i : Instr) (a : EventArg) : (s.sooner i a).me = s.me := rfl
@[simp] theorem State.sooner_myJob (s : State) (i : Instr) (a : EventArg) : (s.sooner i a).myJob = s.myJob := rfl
@[simp] theorem State.sooner_streams (s : State) (i : Instr) (a : EventArg) : (s.sooner i a).streams = s.streams := rfl
@[simp] theorem State.sooner_jobs (s : State) (i : Instr) (a : EventArg) : (s.sooner i a).jobs = s.jobs := rfl
@[simp] theorem State.sooner_locks (s : State) (i : Instr) (a : EventArg) : (s.sooner i a).locks = s.locks := rfl
@[simp] theorem State.sooner_lastIssue (s : State) (i : Instr) (a : EventArg) : (s.sooner i a).lastIssue = s.lastIssue := rfl
@[simp] theorem State.sooner_time (s : State) (i : Instr) (a : EventArg) : (s.sooner i a).time = s.time := rfl
@[simp] theorem State.sooner_regs (s : State) (i : Instr) (a : EventArg) : (s.sooner i a).regs = s.regs := rfl
@[simp] theorem State.sooner_sch (s : State) (i : Instr) (a : EventArg) : (s.sooner i a).sch = s.sch := rfl
@[simp] theorem State.sooner_guide (s : State) (i : Instr) (a : EventArg) : (s.sooner i a).guide = s.guide := rfl
@[simp] theorem State.sooner_mm (s : State) (i : Instr) (a : EventArg) : (s.sooner i a).mm = s.mm := rfl
@[simp] theorem State.sooner_dram (s : State) (i : Instr) (a : EventArg) : (s.sooner i a).dram = s.dram := rfl
@[simp] theorem State.sooner_net (s : State) (i : Instr) (a : EventArg) : (s.sooner i a).net = s.net := rfl
@[simp] theorem State.sooner_sys (s : State) (i : Instr) (a : EventArg) : (s.sooner i a).sys = s.sys := rfl

@[simp] theorem State.setJob_agenda (s : State) (f : Job → Job) : (s.setJob f).agenda = s.agenda := rfl
@[simp] theorem State.setJob_arg (s : State) (f : Job → Job) : (s.setJob f).arg = s.arg := rfl
@[simp] theorem State.setJob_draw (s : State) (f : Job → Job) : (s.setJob f).draw = s.draw := rfl
@[simp] theorem State.setJob_ticket (s : State) (f : Job → Job) : (s.setJob f).ticket = s.ticket := rfl
@[simp] theorem State.setJob_me (s : State) (f : Job → Job) : (s.setJob f).me = s.me := rfl
@[simp] theorem State.setJob_myJob (s : State) (f : Job → Job) : (s.setJob f).myJob = f s.myJob := rfl
@[simp] theorem State.setJob_streams (s : State) (f : Job → Job) : (s.setJob f).streams = s.streams := rfl
@[simp] theorem State.setJob_jobs (s : State) (f : Job → Job) : (s.setJob f).jobs = s.jobs := rfl
@[simp] theorem State.setJob_locks (s : State) (f : Job → Job) : (s.setJob f).locks = s.locks := rfl
@[simp] theorem State.setJob_lastIssue (s : State) (f : Job → Job) : (s.setJob f).lastIssue = s.lastIssue := rfl
@[simp] theorem State.setJob_time (s : State) (f : Job → Job) : (s.setJob f).time = s.time := rfl
@[simp] theorem State.setJob_regs (s : State) (f : Job → Job) : (s.setJob f).regs = s.regs := rfl
@[simp] theorem State.setJob_sch (s : State) (f : Job → Job) : (s.setJob f).sch = s.sch := rfl
@[simp] theorem State.setJob_guide (s : State) (f : Job → Job) : (s.setJob f).guide = s.guide := rfl
@[simp] theorem State.setJob_mm (s : State) (f : Job → Job) : (s.setJob f).mm = s.mm := rfl
@[simp] theorem State.setJob_dram (s : State) (f : Job → Job) : (s.setJob f).dram = s.dram := rfl
@[simp] theorem State.setJob_net (s : State) (f : Job → Job) : (s.setJob f).net = s.net := rfl
@[simp] theorem State.setJob_sys (s : State) (f : Job → Job) : (s.setJob f).sys = s.sys := rfl

@[simp] theorem State.setJobs_agenda (s : State) (js : List Job) : (s.setJobs js).agenda = s.agenda := rfl
@[simp] theorem State.setJobs_arg (s : State) (js : List Job) : (s.setJobs js).arg = s.arg := rfl
@[simp] theorem State.setJobs_draw (s : State) (js : List Job) : (s.setJobs js).draw = s.draw := rfl
@[simp] theorem State.setJobs_ticket (s : State) (js : List Job) : (s.setJobs js).ticket = s.ticket := rfl
@[simp] theorem State.setJobs_me (s : State) (js : List Job) : (s.setJobs js).me = s.me := rfl
@[simp] theorem State.setJobs_myJob (s : State) (js : List Job) : (s.setJobs js).myJob = s.myJob := rfl
@[simp] theorem State.setJobs_streams (s : State) (js : List Job) : (s.setJobs js).streams = s.streams := rfl
@[simp] theorem State.setJobs_jobs (s : State) (js : List Job) : (s.setJobs js).jobs = js := rfl
@[simp] theorem State.setJobs_locks (s : State) (js : List Job) : (s.setJobs js).locks = s.locks := rfl
@[simp] theorem State.setJobs_lastIssue (s : State) (js : List Job) : (s.setJobs js).lastIssue = s.lastIssue := rfl
@[simp] theorem State.setJobs_time (s : State) (js : List Job) : (s.setJobs js).time = s.time := rfl
@[simp] theorem State.setJobs_regs (s : State) (js : List Job) : (s.setJobs js).regs = s.regs := rfl
@[simp] theorem State.setJobs_sch (s : State) (js : List Job) : (s.setJobs js).sch = s.sch := rfl
@[simp] theorem State.setJobs_guide (s : State) (js : List Job) : (s.setJobs js).guide = s.guide := rfl
@[simp] theorem State.setJobs_mm (s : State) (js : List Job) : (s.setJobs js).mm = s.mm := rfl
@[simp] theorem State.setJobs_dram (s : State) (js : List Job) : (s.setJobs js).dram = s.dram := rfl
@[simp] theorem State.setJobs_net (s : State) (js : List Job) : (s.setJobs js).net = s.net := rfl
@[simp] theorem State.setJobs_sys (s : State) (js : List Job) : (s.setJobs js).sys = s.sys := rfl

@[simp] theorem State.modLaunch_agenda (s : State) (p n : Nat) (f : Launch → Launch) : (s.modLaunch p n f).agenda = s.agenda := rfl
@[simp] theorem State.modLaunch_arg (s : State) (p n : Nat) (f : Launch → Launch) : (s.modLaunch p n f).arg = s.arg := rfl
@[simp] theorem State.modLaunch_draw (s : State) (p n : Nat) (f : Launch → Launch) : (s.modLaunch p n f).draw = s.draw := rfl
@[simp] theorem State.modLaunch_ticket (s : State) (p n : Nat) (f : Launch → Launch) : (s.modLaunch p n f).ticket = s.ticket := rfl
@[simp] theorem State.modLaunch_me (s : State) (p n : Nat) (f : Launch → Launch) : (s.modLaunch p n f).me = s.me := rfl
@[simp] theorem State.modLaunch_myJob (s : State) (p n : Nat) (f : Launch → Launch) : (s.modLaunch p n f).myJob = s.myJob := rfl
@[simp] theorem State.modLaunch_streams (s : State) (p n : Nat) (f : Launch → Launch) : (s.modLaunch p n f).streams = s.streams := rfl
@[simp] theorem State.modLaunch_jobs (s : State) (p n : Nat) (f : Launch → Launch) : (s.modLaunch p n f).jobs = s.jobs := rfl
@[simp] theorem State.modLaunch_locks (s : State) (p n : Nat) (f : Launch → Launch) : (s.modLaunch p n f).locks = s.locks := rfl
@[simp] theorem State.modLaunch_lastIssue (s : State) (p n : Nat) (f : Launch → Launch) : (s.modLaunch p n f).lastIssue = s.lastIssue := rfl
@[simp] theorem State.modLaunch_time (s : State) (p n : Nat) (f : Launch → Launch) : (s.modLaunch p n f).time = s.time := rfl
@[simp] theorem State.modLaunch_regs (s : State) (p n : Nat) (f : Launch → Launch) : (s.modLaunch p n f).regs = s.regs := rfl
@[simp] theorem State.modLaunch_guide (s : State) (p n : Nat) (f : Launch → Launch) : (s.modLaunch p n f).guide = s.guide := rfl
@[simp] theorem State.modLaunch_mm (s : State) (p n : Nat) (f : Launch → Launch) : (s.modLaunch p n f).mm = s.mm := rfl
@[simp] theorem State.modLaunch_dram (s : State) (p n : Nat) (f : Launch → Launch) : (s.modLaunch p n f).dram = s.dram := rfl
@[simp] theorem State.modLaunch_net (s : State) (p n : Nat) (f : Launch → Launch) : (s.modLaunch p n f).net = s.net := rfl
@[simp] theorem State.modLaunch_sys (s : State) (p n : Nat) (f : Launch → Launch) : (s.modLaunch p n f).sys = s.sys := rfl

@[simp] theorem State.setReg_agenda (s : State) (o : Nat) (v : BitVec 64) : (s.setReg o v).agenda = s.agenda := rfl
@[simp] theorem State.setReg_arg (s : State) (o : Nat) (v : BitVec 64) : (s.setReg o v).arg = s.arg := rfl
@[simp] theorem State.setReg_draw (s : State) (o : Nat) (v : BitVec 64) : (s.setReg o v).draw = s.draw := rfl
@[simp] theorem State.setReg_ticket (s : State) (o : Nat) (v : BitVec 64) : (s.setReg o v).ticket = s.ticket := rfl
@[simp] theorem State.setReg_me (s : State) (o : Nat) (v : BitVec 64) : (s.setReg o v).me = s.me := rfl
@[simp] theorem State.setReg_myJob (s : State) (o : Nat) (v : BitVec 64) : (s.setReg o v).myJob = s.myJob := rfl
@[simp] theorem State.setReg_streams (s : State) (o : Nat) (v : BitVec 64) : (s.setReg o v).streams = s.streams := rfl
@[simp] theorem State.setReg_jobs (s : State) (o : Nat) (v : BitVec 64) : (s.setReg o v).jobs = s.jobs := rfl
@[simp] theorem State.setReg_locks (s : State) (o : Nat) (v : BitVec 64) : (s.setReg o v).locks = s.locks := rfl
@[simp] theorem State.setReg_lastIssue (s : State) (o : Nat) (v : BitVec 64) : (s.setReg o v).lastIssue = s.lastIssue := rfl
@[simp] theorem State.setReg_time (s : State) (o : Nat) (v : BitVec 64) : (s.setReg o v).time = s.time := rfl
@[simp] theorem State.setReg_regs (s : State) (o : Nat) (v : BitVec 64) : (s.setReg o v).regs = tableSet s.regs o v (regReset o) := rfl
@[simp] theorem State.setReg_sch (s : State) (o : Nat) (v : BitVec 64) : (s.setReg o v).sch = s.sch := rfl
@[simp] theorem State.setReg_guide (s : State) (o : Nat) (v : BitVec 64) : (s.setReg o v).guide = s.guide := rfl
@[simp] theorem State.setReg_mm (s : State) (o : Nat) (v : BitVec 64) : (s.setReg o v).mm = s.mm := rfl
@[simp] theorem State.setReg_dram (s : State) (o : Nat) (v : BitVec 64) : (s.setReg o v).dram = s.dram := rfl
@[simp] theorem State.setReg_net (s : State) (o : Nat) (v : BitVec 64) : (s.setReg o v).net = s.net := rfl
@[simp] theorem State.setReg_sys (s : State) (o : Nat) (v : BitVec 64) : (s.setReg o v).sys = s.sys := rfl

@[simp] theorem State.setField_agenda (s : State) (o hi lo x : Nat) : (s.setField o hi lo x).agenda = s.agenda := rfl
@[simp] theorem State.setField_arg (s : State) (o hi lo x : Nat) : (s.setField o hi lo x).arg = s.arg := rfl
@[simp] theorem State.setField_draw (s : State) (o hi lo x : Nat) : (s.setField o hi lo x).draw = s.draw := rfl
@[simp] theorem State.setField_ticket (s : State) (o hi lo x : Nat) : (s.setField o hi lo x).ticket = s.ticket := rfl
@[simp] theorem State.setField_me (s : State) (o hi lo x : Nat) : (s.setField o hi lo x).me = s.me := rfl
@[simp] theorem State.setField_myJob (s : State) (o hi lo x : Nat) : (s.setField o hi lo x).myJob = s.myJob := rfl
@[simp] theorem State.setField_streams (s : State) (o hi lo x : Nat) : (s.setField o hi lo x).streams = s.streams := rfl
@[simp] theorem State.setField_jobs (s : State) (o hi lo x : Nat) : (s.setField o hi lo x).jobs = s.jobs := rfl
@[simp] theorem State.setField_locks (s : State) (o hi lo x : Nat) : (s.setField o hi lo x).locks = s.locks := rfl
@[simp] theorem State.setField_lastIssue (s : State) (o hi lo x : Nat) : (s.setField o hi lo x).lastIssue = s.lastIssue := rfl
@[simp] theorem State.setField_time (s : State) (o hi lo x : Nat) : (s.setField o hi lo x).time = s.time := rfl
@[simp] theorem State.setField_sch (s : State) (o hi lo x : Nat) : (s.setField o hi lo x).sch = s.sch := rfl
@[simp] theorem State.setField_guide (s : State) (o hi lo x : Nat) : (s.setField o hi lo x).guide = s.guide := rfl
@[simp] theorem State.setField_mm (s : State) (o hi lo x : Nat) : (s.setField o hi lo x).mm = s.mm := rfl
@[simp] theorem State.setField_dram (s : State) (o hi lo x : Nat) : (s.setField o hi lo x).dram = s.dram := rfl
@[simp] theorem State.setField_net (s : State) (o hi lo x : Nat) : (s.setField o hi lo x).net = s.net := rfl
@[simp] theorem State.setField_sys (s : State) (o hi lo x : Nat) : (s.setField o hi lo x).sys = s.sys := rfl

@[simp] theorem State.raise_agenda (s : State) (o n : Nat) : (s.raise o n).agenda = s.agenda := rfl
@[simp] theorem State.raise_arg (s : State) (o n : Nat) : (s.raise o n).arg = s.arg := rfl
@[simp] theorem State.raise_draw (s : State) (o n : Nat) : (s.raise o n).draw = s.draw := rfl
@[simp] theorem State.raise_ticket (s : State) (o n : Nat) : (s.raise o n).ticket = s.ticket := rfl
@[simp] theorem State.raise_me (s : State) (o n : Nat) : (s.raise o n).me = s.me := rfl
@[simp] theorem State.raise_myJob (s : State) (o n : Nat) : (s.raise o n).myJob = s.myJob := rfl
@[simp] theorem State.raise_streams (s : State) (o n : Nat) : (s.raise o n).streams = s.streams := rfl
@[simp] theorem State.raise_jobs (s : State) (o n : Nat) : (s.raise o n).jobs = s.jobs := rfl
@[simp] theorem State.raise_locks (s : State) (o n : Nat) : (s.raise o n).locks = s.locks := rfl
@[simp] theorem State.raise_lastIssue (s : State) (o n : Nat) : (s.raise o n).lastIssue = s.lastIssue := rfl
@[simp] theorem State.raise_time (s : State) (o n : Nat) : (s.raise o n).time = s.time := rfl
@[simp] theorem State.raise_sch (s : State) (o n : Nat) : (s.raise o n).sch = s.sch := rfl
@[simp] theorem State.raise_guide (s : State) (o n : Nat) : (s.raise o n).guide = s.guide := rfl
@[simp] theorem State.raise_mm (s : State) (o n : Nat) : (s.raise o n).mm = s.mm := rfl
@[simp] theorem State.raise_dram (s : State) (o n : Nat) : (s.raise o n).dram = s.dram := rfl
@[simp] theorem State.raise_net (s : State) (o n : Nat) : (s.raise o n).net = s.net := rfl
@[simp] theorem State.raise_sys (s : State) (o n : Nat) : (s.raise o n).sys = s.sys := rfl

@[simp] theorem State.count_agenda (s : State) (o w n : Nat) : (s.count o w n).agenda = s.agenda := rfl
@[simp] theorem State.count_arg (s : State) (o w n : Nat) : (s.count o w n).arg = s.arg := rfl
@[simp] theorem State.count_draw (s : State) (o w n : Nat) : (s.count o w n).draw = s.draw := rfl
@[simp] theorem State.count_ticket (s : State) (o w n : Nat) : (s.count o w n).ticket = s.ticket := rfl
@[simp] theorem State.count_me (s : State) (o w n : Nat) : (s.count o w n).me = s.me := rfl
@[simp] theorem State.count_myJob (s : State) (o w n : Nat) : (s.count o w n).myJob = s.myJob := rfl
@[simp] theorem State.count_streams (s : State) (o w n : Nat) : (s.count o w n).streams = s.streams := rfl
@[simp] theorem State.count_jobs (s : State) (o w n : Nat) : (s.count o w n).jobs = s.jobs := rfl
@[simp] theorem State.count_locks (s : State) (o w n : Nat) : (s.count o w n).locks = s.locks := rfl
@[simp] theorem State.count_lastIssue (s : State) (o w n : Nat) : (s.count o w n).lastIssue = s.lastIssue := rfl
@[simp] theorem State.count_time (s : State) (o w n : Nat) : (s.count o w n).time = s.time := rfl
@[simp] theorem State.count_sch (s : State) (o w n : Nat) : (s.count o w n).sch = s.sch := rfl
@[simp] theorem State.count_guide (s : State) (o w n : Nat) : (s.count o w n).guide = s.guide := rfl
@[simp] theorem State.count_mm (s : State) (o w n : Nat) : (s.count o w n).mm = s.mm := rfl
@[simp] theorem State.count_dram (s : State) (o w n : Nat) : (s.count o w n).dram = s.dram := rfl
@[simp] theorem State.count_net (s : State) (o w n : Nat) : (s.count o w n).net = s.net := rfl
@[simp] theorem State.count_sys (s : State) (o w n : Nat) : (s.count o w n).sys = s.sys := rfl

@[simp] theorem State.modNet_agenda (s : State) (f : Net → Net) : (s.modNet f).agenda = s.agenda := rfl
@[simp] theorem State.modNet_arg (s : State) (f : Net → Net) : (s.modNet f).arg = s.arg := rfl
@[simp] theorem State.modNet_draw (s : State) (f : Net → Net) : (s.modNet f).draw = s.draw := rfl
@[simp] theorem State.modNet_ticket (s : State) (f : Net → Net) : (s.modNet f).ticket = s.ticket := rfl
@[simp] theorem State.modNet_me (s : State) (f : Net → Net) : (s.modNet f).me = s.me := rfl
@[simp] theorem State.modNet_myJob (s : State) (f : Net → Net) : (s.modNet f).myJob = s.myJob := rfl
@[simp] theorem State.modNet_streams (s : State) (f : Net → Net) : (s.modNet f).streams = s.streams := rfl
@[simp] theorem State.modNet_jobs (s : State) (f : Net → Net) : (s.modNet f).jobs = s.jobs := rfl
@[simp] theorem State.modNet_locks (s : State) (f : Net → Net) : (s.modNet f).locks = s.locks := rfl
@[simp] theorem State.modNet_lastIssue (s : State) (f : Net → Net) : (s.modNet f).lastIssue = s.lastIssue := rfl
@[simp] theorem State.modNet_time (s : State) (f : Net → Net) : (s.modNet f).time = s.time := rfl
@[simp] theorem State.modNet_regs (s : State) (f : Net → Net) : (s.modNet f).regs = s.regs := rfl
@[simp] theorem State.modNet_sch (s : State) (f : Net → Net) : (s.modNet f).sch = s.sch := rfl
@[simp] theorem State.modNet_guide (s : State) (f : Net → Net) : (s.modNet f).guide = s.guide := rfl
@[simp] theorem State.modNet_mm (s : State) (f : Net → Net) : (s.modNet f).mm = s.mm := rfl
@[simp] theorem State.modNet_dram (s : State) (f : Net → Net) : (s.modNet f).dram = s.dram := rfl
@[simp] theorem State.modNet_net (s : State) (f : Net → Net) : (s.modNet f).net = f s.net := rfl
@[simp] theorem State.modNet_sys (s : State) (f : Net → Net) : (s.modNet f).sys = s.sys := rfl

@[simp] theorem State.dropPacket_agenda (s : State) (n : Nat) : (s.dropPacket n).agenda = s.agenda := rfl
@[simp] theorem State.dropPacket_arg (s : State) (n : Nat) : (s.dropPacket n).arg = s.arg := rfl
@[simp] theorem State.dropPacket_draw (s : State) (n : Nat) : (s.dropPacket n).draw = s.draw := rfl
@[simp] theorem State.dropPacket_ticket (s : State) (n : Nat) : (s.dropPacket n).ticket = s.ticket := rfl
@[simp] theorem State.dropPacket_me (s : State) (n : Nat) : (s.dropPacket n).me = s.me := rfl
@[simp] theorem State.dropPacket_myJob (s : State) (n : Nat) : (s.dropPacket n).myJob = s.myJob := rfl
@[simp] theorem State.dropPacket_streams (s : State) (n : Nat) : (s.dropPacket n).streams = s.streams := rfl
@[simp] theorem State.dropPacket_jobs (s : State) (n : Nat) : (s.dropPacket n).jobs = s.jobs := rfl
@[simp] theorem State.dropPacket_locks (s : State) (n : Nat) : (s.dropPacket n).locks = s.locks := rfl
@[simp] theorem State.dropPacket_lastIssue (s : State) (n : Nat) : (s.dropPacket n).lastIssue = s.lastIssue := rfl
@[simp] theorem State.dropPacket_time (s : State) (n : Nat) : (s.dropPacket n).time = s.time := rfl
@[simp] theorem State.dropPacket_regs (s : State) (n : Nat) : (s.dropPacket n).regs = s.regs := rfl
@[simp] theorem State.dropPacket_sch (s : State) (n : Nat) : (s.dropPacket n).sch = s.sch := rfl
@[simp] theorem State.dropPacket_guide (s : State) (n : Nat) : (s.dropPacket n).guide = s.guide := rfl
@[simp] theorem State.dropPacket_mm (s : State) (n : Nat) : (s.dropPacket n).mm = s.mm := rfl
@[simp] theorem State.dropPacket_dram (s : State) (n : Nat) : (s.dropPacket n).dram = s.dram := rfl
@[simp] theorem State.dropPacket_sys (s : State) (n : Nat) : (s.dropPacket n).sys = s.sys := rfl

@[simp] theorem State.parcel_agenda (s : State) (p : Parcel) : (s.parcel p).agenda = s.agenda := rfl
@[simp] theorem State.parcel_arg (s : State) (p : Parcel) : (s.parcel p).arg = s.arg := rfl
@[simp] theorem State.parcel_draw (s : State) (p : Parcel) : (s.parcel p).draw = s.draw := rfl
@[simp] theorem State.parcel_ticket (s : State) (p : Parcel) : (s.parcel p).ticket = s.ticket := rfl
@[simp] theorem State.parcel_me (s : State) (p : Parcel) : (s.parcel p).me = s.me := rfl
@[simp] theorem State.parcel_myJob (s : State) (p : Parcel) : (s.parcel p).myJob = s.myJob := rfl
@[simp] theorem State.parcel_streams (s : State) (p : Parcel) : (s.parcel p).streams = s.streams := rfl
@[simp] theorem State.parcel_jobs (s : State) (p : Parcel) : (s.parcel p).jobs = s.jobs := rfl
@[simp] theorem State.parcel_locks (s : State) (p : Parcel) : (s.parcel p).locks = s.locks := rfl
@[simp] theorem State.parcel_lastIssue (s : State) (p : Parcel) : (s.parcel p).lastIssue = s.lastIssue := rfl
@[simp] theorem State.parcel_time (s : State) (p : Parcel) : (s.parcel p).time = s.time := rfl
@[simp] theorem State.parcel_regs (s : State) (p : Parcel) : (s.parcel p).regs = s.regs := rfl
@[simp] theorem State.parcel_sch (s : State) (p : Parcel) : (s.parcel p).sch = s.sch := rfl
@[simp] theorem State.parcel_guide (s : State) (p : Parcel) : (s.parcel p).guide = s.guide := rfl
@[simp] theorem State.parcel_mm (s : State) (p : Parcel) : (s.parcel p).mm = s.mm := rfl
@[simp] theorem State.parcel_dram (s : State) (p : Parcel) : (s.parcel p).dram = s.dram := rfl
@[simp] theorem State.parcel_net (s : State) (p : Parcel) : (s.parcel p).net = { s.net with outbox := s.net.outbox ++ [p] } := rfl
@[simp] theorem State.parcel_sys (s : State) (p : Parcel) : (s.parcel p).sys = s.sys := rfl

@[simp] theorem State.answered_agenda (s : State) (id : StreamId) (n : Nat) : (s.answered id n).agenda = s.agenda := rfl
@[simp] theorem State.answered_arg (s : State) (id : StreamId) (n : Nat) : (s.answered id n).arg = s.arg := rfl
@[simp] theorem State.answered_draw (s : State) (id : StreamId) (n : Nat) : (s.answered id n).draw = s.draw := rfl
@[simp] theorem State.answered_ticket (s : State) (id : StreamId) (n : Nat) : (s.answered id n).ticket = s.ticket := rfl
@[simp] theorem State.answered_me (s : State) (id : StreamId) (n : Nat) : (s.answered id n).me = s.me := rfl
@[simp] theorem State.answered_myJob (s : State) (id : StreamId) (n : Nat) : (s.answered id n).myJob = s.myJob := rfl
@[simp] theorem State.answered_streams (s : State) (id : StreamId) (n : Nat) : (s.answered id n).streams = s.streams := rfl
@[simp] theorem State.answered_jobs (s : State) (id : StreamId) (n : Nat) : (s.answered id n).jobs = s.jobs := rfl
@[simp] theorem State.answered_locks (s : State) (id : StreamId) (n : Nat) : (s.answered id n).locks = s.locks := rfl
@[simp] theorem State.answered_lastIssue (s : State) (id : StreamId) (n : Nat) : (s.answered id n).lastIssue = s.lastIssue := rfl
@[simp] theorem State.answered_time (s : State) (id : StreamId) (n : Nat) : (s.answered id n).time = s.time := rfl
@[simp] theorem State.answered_regs (s : State) (id : StreamId) (n : Nat) : (s.answered id n).regs = s.regs := rfl
@[simp] theorem State.answered_sch (s : State) (id : StreamId) (n : Nat) : (s.answered id n).sch = s.sch := rfl
@[simp] theorem State.answered_guide (s : State) (id : StreamId) (n : Nat) : (s.answered id n).guide = s.guide := rfl
@[simp] theorem State.answered_mm (s : State) (id : StreamId) (n : Nat) : (s.answered id n).mm = s.mm := rfl
@[simp] theorem State.answered_dram (s : State) (id : StreamId) (n : Nat) : (s.answered id n).dram = s.dram := rfl
@[simp] theorem State.answered_sys (s : State) (id : StreamId) (n : Nat) : (s.answered id n).sys = s.sys := rfl

@[simp] theorem State.park_agenda (s : State) (d k : Nat) : (s.park d k).agenda = s.agenda := rfl
@[simp] theorem State.park_arg (s : State) (d k : Nat) : (s.park d k).arg = s.arg := rfl
@[simp] theorem State.park_draw (s : State) (d k : Nat) : (s.park d k).draw = s.draw := rfl
@[simp] theorem State.park_ticket (s : State) (d k : Nat) : (s.park d k).ticket = s.ticket + 1 := rfl
@[simp] theorem State.park_myJob (s : State) (d k : Nat) : (s.park d k).myJob = s.myJob := rfl
@[simp] theorem State.park_streams (s : State) (d k : Nat) : (s.park d k).streams = s.streams := rfl
@[simp] theorem State.park_jobs (s : State) (d k : Nat) : (s.park d k).jobs = s.jobs := rfl
@[simp] theorem State.park_locks (s : State) (d k : Nat) : (s.park d k).locks = s.locks := rfl
@[simp] theorem State.park_lastIssue (s : State) (d k : Nat) : (s.park d k).lastIssue = s.lastIssue := rfl
@[simp] theorem State.park_time (s : State) (d k : Nat) : (s.park d k).time = s.time := rfl
@[simp] theorem State.park_regs (s : State) (d k : Nat) : (s.park d k).regs = s.regs := rfl
@[simp] theorem State.park_sch (s : State) (d k : Nat) : (s.park d k).sch = s.sch := rfl
@[simp] theorem State.park_guide (s : State) (d k : Nat) : (s.park d k).guide = s.guide := rfl
@[simp] theorem State.park_mm (s : State) (d k : Nat) : (s.park d k).mm = s.mm := rfl
@[simp] theorem State.park_dram (s : State) (d k : Nat) : (s.park d k).dram = s.dram := rfl
@[simp] theorem State.park_net (s : State) (d k : Nat) : (s.park d k).net = s.net := rfl
@[simp] theorem State.park_sys (s : State) (d k : Nat) : (s.park d k).sys = s.sys := rfl

@[simp] theorem State.parkAgain_agenda (s : State) (d k : Nat) : (s.parkAgain d k).agenda = s.agenda := rfl
@[simp] theorem State.parkAgain_arg (s : State) (d k : Nat) : (s.parkAgain d k).arg = s.arg := rfl
@[simp] theorem State.parkAgain_draw (s : State) (d k : Nat) : (s.parkAgain d k).draw = s.draw := rfl
@[simp] theorem State.parkAgain_ticket (s : State) (d k : Nat) : (s.parkAgain d k).ticket = s.ticket + 1 := rfl
@[simp] theorem State.parkAgain_myJob (s : State) (d k : Nat) : (s.parkAgain d k).myJob = s.myJob := rfl
@[simp] theorem State.parkAgain_streams (s : State) (d k : Nat) : (s.parkAgain d k).streams = s.streams := rfl
@[simp] theorem State.parkAgain_jobs (s : State) (d k : Nat) : (s.parkAgain d k).jobs = s.jobs := rfl
@[simp] theorem State.parkAgain_locks (s : State) (d k : Nat) : (s.parkAgain d k).locks = s.locks := rfl
@[simp] theorem State.parkAgain_lastIssue (s : State) (d k : Nat) : (s.parkAgain d k).lastIssue = s.lastIssue := rfl
@[simp] theorem State.parkAgain_time (s : State) (d k : Nat) : (s.parkAgain d k).time = s.time := rfl
@[simp] theorem State.parkAgain_regs (s : State) (d k : Nat) : (s.parkAgain d k).regs = s.regs := rfl
@[simp] theorem State.parkAgain_sch (s : State) (d k : Nat) : (s.parkAgain d k).sch = s.sch := rfl
@[simp] theorem State.parkAgain_guide (s : State) (d k : Nat) : (s.parkAgain d k).guide = s.guide := rfl
@[simp] theorem State.parkAgain_mm (s : State) (d k : Nat) : (s.parkAgain d k).mm = s.mm := rfl
@[simp] theorem State.parkAgain_dram (s : State) (d k : Nat) : (s.parkAgain d k).dram = s.dram := rfl
@[simp] theorem State.parkAgain_net (s : State) (d k : Nat) : (s.parkAgain d k).net = s.net := rfl
@[simp] theorem State.parkAgain_sys (s : State) (d k : Nat) : (s.parkAgain d k).sys = s.sys := rfl

@[simp] theorem State.noteUncommitted_agenda (s : State) (b : Nat) : (s.noteUncommitted b).agenda = s.agenda := rfl
@[simp] theorem State.noteUncommitted_arg (s : State) (b : Nat) : (s.noteUncommitted b).arg = s.arg := rfl
@[simp] theorem State.noteUncommitted_draw (s : State) (b : Nat) : (s.noteUncommitted b).draw = s.draw := rfl
@[simp] theorem State.noteUncommitted_ticket (s : State) (b : Nat) : (s.noteUncommitted b).ticket = s.ticket := rfl
@[simp] theorem State.noteUncommitted_me (s : State) (b : Nat) : (s.noteUncommitted b).me = s.me := rfl
@[simp] theorem State.noteUncommitted_myJob (s : State) (b : Nat) : (s.noteUncommitted b).myJob = s.myJob := rfl
@[simp] theorem State.noteUncommitted_streams (s : State) (b : Nat) : (s.noteUncommitted b).streams = s.streams := rfl
@[simp] theorem State.noteUncommitted_jobs (s : State) (b : Nat) : (s.noteUncommitted b).jobs = s.jobs := rfl
@[simp] theorem State.noteUncommitted_locks (s : State) (b : Nat) : (s.noteUncommitted b).locks = s.locks := rfl
@[simp] theorem State.noteUncommitted_lastIssue (s : State) (b : Nat) : (s.noteUncommitted b).lastIssue = s.lastIssue := rfl
@[simp] theorem State.noteUncommitted_time (s : State) (b : Nat) : (s.noteUncommitted b).time = s.time := rfl
@[simp] theorem State.noteUncommitted_sch (s : State) (b : Nat) : (s.noteUncommitted b).sch = s.sch := rfl
@[simp] theorem State.noteUncommitted_guide (s : State) (b : Nat) : (s.noteUncommitted b).guide = s.guide := rfl
@[simp] theorem State.noteUncommitted_mm (s : State) (b : Nat) : (s.noteUncommitted b).mm = s.mm := rfl
@[simp] theorem State.noteUncommitted_dram (s : State) (b : Nat) : (s.noteUncommitted b).dram = s.dram := rfl
@[simp] theorem State.noteUncommitted_net (s : State) (b : Nat) : (s.noteUncommitted b).net = s.net := rfl
@[simp] theorem State.noteUncommitted_sys (s : State) (b : Nat) : (s.noteUncommitted b).sys = s.sys := rfl

@[simp] theorem State.setBank_agenda (s : State) (b : Bank) : (s.setBank b).agenda = s.agenda := rfl
@[simp] theorem State.setBank_arg (s : State) (b : Bank) : (s.setBank b).arg = s.arg := rfl
@[simp] theorem State.setBank_draw (s : State) (b : Bank) : (s.setBank b).draw = s.draw := rfl
@[simp] theorem State.setBank_ticket (s : State) (b : Bank) : (s.setBank b).ticket = s.ticket := rfl
@[simp] theorem State.setBank_me (s : State) (b : Bank) : (s.setBank b).me = s.me := rfl
@[simp] theorem State.setBank_myJob (s : State) (b : Bank) : (s.setBank b).myJob = s.myJob := rfl
@[simp] theorem State.setBank_streams (s : State) (b : Bank) : (s.setBank b).streams = s.streams := rfl
@[simp] theorem State.setBank_jobs (s : State) (b : Bank) : (s.setBank b).jobs = s.jobs := rfl
@[simp] theorem State.setBank_locks (s : State) (b : Bank) : (s.setBank b).locks = s.locks := rfl
@[simp] theorem State.setBank_lastIssue (s : State) (b : Bank) : (s.setBank b).lastIssue = s.lastIssue := rfl
@[simp] theorem State.setBank_time (s : State) (b : Bank) : (s.setBank b).time = s.time := rfl
@[simp] theorem State.setBank_regs (s : State) (b : Bank) : (s.setBank b).regs = s.regs := rfl
@[simp] theorem State.setBank_sch (s : State) (b : Bank) : (s.setBank b).sch = s.sch := rfl
@[simp] theorem State.setBank_guide (s : State) (b : Bank) : (s.setBank b).guide = s.guide := rfl
@[simp] theorem State.setBank_mm (s : State) (b : Bank) : (s.setBank b).mm = s.mm := rfl
@[simp] theorem State.setBank_net (s : State) (b : Bank) : (s.setBank b).net = s.net := rfl
@[simp] theorem State.setBank_sys (s : State) (b : Bank) : (s.setBank b).sys = s.sys := rfl

@[simp] theorem State.setPort_agenda (s : State) (p : Port) : (s.setPort p).agenda = s.agenda := rfl
@[simp] theorem State.setPort_arg (s : State) (p : Port) : (s.setPort p).arg = s.arg := rfl
@[simp] theorem State.setPort_draw (s : State) (p : Port) : (s.setPort p).draw = s.draw := rfl
@[simp] theorem State.setPort_ticket (s : State) (p : Port) : (s.setPort p).ticket = s.ticket := rfl
@[simp] theorem State.setPort_me (s : State) (p : Port) : (s.setPort p).me = s.me := rfl
@[simp] theorem State.setPort_myJob (s : State) (p : Port) : (s.setPort p).myJob = s.myJob := rfl
@[simp] theorem State.setPort_streams (s : State) (p : Port) : (s.setPort p).streams = s.streams := rfl
@[simp] theorem State.setPort_jobs (s : State) (p : Port) : (s.setPort p).jobs = s.jobs := rfl
@[simp] theorem State.setPort_locks (s : State) (p : Port) : (s.setPort p).locks = s.locks := rfl
@[simp] theorem State.setPort_lastIssue (s : State) (p : Port) : (s.setPort p).lastIssue = s.lastIssue := rfl
@[simp] theorem State.setPort_time (s : State) (p : Port) : (s.setPort p).time = s.time := rfl
@[simp] theorem State.setPort_regs (s : State) (p : Port) : (s.setPort p).regs = s.regs := rfl
@[simp] theorem State.setPort_sch (s : State) (p : Port) : (s.setPort p).sch = s.sch := rfl
@[simp] theorem State.setPort_guide (s : State) (p : Port) : (s.setPort p).guide = s.guide := rfl
@[simp] theorem State.setPort_mm (s : State) (p : Port) : (s.setPort p).mm = s.mm := rfl
@[simp] theorem State.setPort_dram (s : State) (p : Port) : (s.setPort p).dram = s.dram := rfl
@[simp] theorem State.setPort_sys (s : State) (p : Port) : (s.setPort p).sys = s.sys := rfl

@[simp] theorem State.putPacket_agenda (s : State) (p : Packet) (x : PacketPlace) : (s.putPacket p x).agenda = s.agenda := rfl
@[simp] theorem State.putPacket_arg (s : State) (p : Packet) (x : PacketPlace) : (s.putPacket p x).arg = s.arg := rfl
@[simp] theorem State.putPacket_draw (s : State) (p : Packet) (x : PacketPlace) : (s.putPacket p x).draw = s.draw := rfl
@[simp] theorem State.putPacket_ticket (s : State) (p : Packet) (x : PacketPlace) : (s.putPacket p x).ticket = s.ticket := rfl
@[simp] theorem State.putPacket_me (s : State) (p : Packet) (x : PacketPlace) : (s.putPacket p x).me = s.me := rfl
@[simp] theorem State.putPacket_myJob (s : State) (p : Packet) (x : PacketPlace) : (s.putPacket p x).myJob = s.myJob := rfl
@[simp] theorem State.putPacket_streams (s : State) (p : Packet) (x : PacketPlace) : (s.putPacket p x).streams = s.streams := rfl
@[simp] theorem State.putPacket_jobs (s : State) (p : Packet) (x : PacketPlace) : (s.putPacket p x).jobs = s.jobs := rfl
@[simp] theorem State.putPacket_locks (s : State) (p : Packet) (x : PacketPlace) : (s.putPacket p x).locks = s.locks := rfl
@[simp] theorem State.putPacket_lastIssue (s : State) (p : Packet) (x : PacketPlace) : (s.putPacket p x).lastIssue = s.lastIssue := rfl
@[simp] theorem State.putPacket_time (s : State) (p : Packet) (x : PacketPlace) : (s.putPacket p x).time = s.time := rfl
@[simp] theorem State.putPacket_regs (s : State) (p : Packet) (x : PacketPlace) : (s.putPacket p x).regs = s.regs := rfl
@[simp] theorem State.putPacket_sch (s : State) (p : Packet) (x : PacketPlace) : (s.putPacket p x).sch = s.sch := rfl
@[simp] theorem State.putPacket_guide (s : State) (p : Packet) (x : PacketPlace) : (s.putPacket p x).guide = s.guide := rfl
@[simp] theorem State.putPacket_mm (s : State) (p : Packet) (x : PacketPlace) : (s.putPacket p x).mm = s.mm := rfl
@[simp] theorem State.putPacket_dram (s : State) (p : Packet) (x : PacketPlace) : (s.putPacket p x).dram = s.dram := rfl
@[simp] theorem State.putPacket_sys (s : State) (p : Packet) (x : PacketPlace) : (s.putPacket p x).sys = s.sys := rfl

@[simp] theorem State.modPower_agenda (s : State) (f : Power → Power) : (s.modPower f).agenda = s.agenda := rfl
@[simp] theorem State.modPower_arg (s : State) (f : Power → Power) : (s.modPower f).arg = s.arg := rfl
@[simp] theorem State.modPower_draw (s : State) (f : Power → Power) : (s.modPower f).draw = s.draw := rfl
@[simp] theorem State.modPower_ticket (s : State) (f : Power → Power) : (s.modPower f).ticket = s.ticket := rfl
@[simp] theorem State.modPower_me (s : State) (f : Power → Power) : (s.modPower f).me = s.me := rfl
@[simp] theorem State.modPower_myJob (s : State) (f : Power → Power) : (s.modPower f).myJob = s.myJob := rfl
@[simp] theorem State.modPower_streams (s : State) (f : Power → Power) : (s.modPower f).streams = s.streams := rfl
@[simp] theorem State.modPower_jobs (s : State) (f : Power → Power) : (s.modPower f).jobs = s.jobs := rfl
@[simp] theorem State.modPower_locks (s : State) (f : Power → Power) : (s.modPower f).locks = s.locks := rfl
@[simp] theorem State.modPower_lastIssue (s : State) (f : Power → Power) : (s.modPower f).lastIssue = s.lastIssue := rfl
@[simp] theorem State.modPower_time (s : State) (f : Power → Power) : (s.modPower f).time = s.time := rfl
@[simp] theorem State.modPower_regs (s : State) (f : Power → Power) : (s.modPower f).regs = s.regs := rfl
@[simp] theorem State.modPower_sch (s : State) (f : Power → Power) : (s.modPower f).sch = s.sch := rfl
@[simp] theorem State.modPower_guide (s : State) (f : Power → Power) : (s.modPower f).guide = s.guide := rfl
@[simp] theorem State.modPower_mm (s : State) (f : Power → Power) : (s.modPower f).mm = s.mm := rfl
@[simp] theorem State.modPower_dram (s : State) (f : Power → Power) : (s.modPower f).dram = s.dram := rfl
@[simp] theorem State.modPower_net (s : State) (f : Power → Power) : (s.modPower f).net = s.net := rfl
@[simp] theorem State.modPower_sys (s : State) (f : Power → Power) : (s.modPower f).sys = { s.sys with power := f s.sys.power } := rfl

@[simp] theorem State.mapStreams_agenda (s : State) (p : Stream → Bool) (f : Stream → Stream) : (s.mapStreams p f).agenda = s.agenda := rfl
@[simp] theorem State.mapStreams_arg (s : State) (p : Stream → Bool) (f : Stream → Stream) : (s.mapStreams p f).arg = s.arg := rfl
@[simp] theorem State.mapStreams_draw (s : State) (p : Stream → Bool) (f : Stream → Stream) : (s.mapStreams p f).draw = s.draw := rfl
@[simp] theorem State.mapStreams_ticket (s : State) (p : Stream → Bool) (f : Stream → Stream) : (s.mapStreams p f).ticket = s.ticket := rfl
@[simp] theorem State.mapStreams_me (s : State) (p : Stream → Bool) (f : Stream → Stream) : (s.mapStreams p f).me = if p s.me then f s.me else s.me := rfl
@[simp] theorem State.mapStreams_myJob (s : State) (p : Stream → Bool) (f : Stream → Stream) : (s.mapStreams p f).myJob = s.myJob := rfl
@[simp] theorem State.mapStreams_streams (s : State) (p : Stream → Bool) (f : Stream → Stream) : (s.mapStreams p f).streams = s.streams.map fun st => if p st then f st else st := rfl
@[simp] theorem State.mapStreams_jobs (s : State) (p : Stream → Bool) (f : Stream → Stream) : (s.mapStreams p f).jobs = s.jobs := rfl
@[simp] theorem State.mapStreams_locks (s : State) (p : Stream → Bool) (f : Stream → Stream) : (s.mapStreams p f).locks = s.locks := rfl
@[simp] theorem State.mapStreams_lastIssue (s : State) (p : Stream → Bool) (f : Stream → Stream) : (s.mapStreams p f).lastIssue = s.lastIssue := rfl
@[simp] theorem State.mapStreams_time (s : State) (p : Stream → Bool) (f : Stream → Stream) : (s.mapStreams p f).time = s.time := rfl
@[simp] theorem State.mapStreams_regs (s : State) (p : Stream → Bool) (f : Stream → Stream) : (s.mapStreams p f).regs = s.regs := rfl
@[simp] theorem State.mapStreams_sch (s : State) (p : Stream → Bool) (f : Stream → Stream) : (s.mapStreams p f).sch = s.sch := rfl
@[simp] theorem State.mapStreams_guide (s : State) (p : Stream → Bool) (f : Stream → Stream) : (s.mapStreams p f).guide = s.guide := rfl
@[simp] theorem State.mapStreams_mm (s : State) (p : Stream → Bool) (f : Stream → Stream) : (s.mapStreams p f).mm = s.mm := rfl
@[simp] theorem State.mapStreams_dram (s : State) (p : Stream → Bool) (f : Stream → Stream) : (s.mapStreams p f).dram = s.dram := rfl
@[simp] theorem State.mapStreams_net (s : State) (p : Stream → Bool) (f : Stream → Stream) : (s.mapStreams p f).net = s.net := rfl
@[simp] theorem State.mapStreams_sys (s : State) (p : Stream → Bool) (f : Stream → Stream) : (s.mapStreams p f).sys = s.sys := rfl

@[simp] theorem State.fireLine_agenda (s : State) (n : Nat) : (s.fireLine n).agenda = s.agenda := rfl
@[simp] theorem State.fireLine_arg (s : State) (n : Nat) : (s.fireLine n).arg = s.arg := rfl
@[simp] theorem State.fireLine_draw (s : State) (n : Nat) : (s.fireLine n).draw = s.draw := rfl
@[simp] theorem State.fireLine_ticket (s : State) (n : Nat) : (s.fireLine n).ticket = s.ticket := rfl
@[simp] theorem State.fireLine_myJob (s : State) (n : Nat) : (s.fireLine n).myJob = s.myJob := rfl
@[simp] theorem State.fireLine_jobs (s : State) (n : Nat) : (s.fireLine n).jobs = s.jobs := rfl
@[simp] theorem State.fireLine_locks (s : State) (n : Nat) : (s.fireLine n).locks = s.locks := rfl
@[simp] theorem State.fireLine_lastIssue (s : State) (n : Nat) : (s.fireLine n).lastIssue = s.lastIssue := rfl
@[simp] theorem State.fireLine_time (s : State) (n : Nat) : (s.fireLine n).time = s.time := rfl
@[simp] theorem State.fireLine_regs (s : State) (n : Nat) : (s.fireLine n).regs = s.regs := rfl
@[simp] theorem State.fireLine_sch (s : State) (n : Nat) : (s.fireLine n).sch = s.sch := rfl
@[simp] theorem State.fireLine_guide (s : State) (n : Nat) : (s.fireLine n).guide = s.guide := rfl
@[simp] theorem State.fireLine_mm (s : State) (n : Nat) : (s.fireLine n).mm = s.mm := rfl
@[simp] theorem State.fireLine_dram (s : State) (n : Nat) : (s.fireLine n).dram = s.dram := rfl
@[simp] theorem State.fireLine_net (s : State) (n : Nat) : (s.fireLine n).net = s.net := rfl
@[simp] theorem State.fireLine_sys (s : State) (n : Nat) : (s.fireLine n).sys = s.sys := rfl

@[simp] theorem State.postLater_agenda (s : State) (p : PendingRecord) : (s.postLater p).agenda = s.agenda ++ [.event .faultRecordPost { a := p.part }] := rfl
@[simp] theorem State.postLater_arg (s : State) (p : PendingRecord) : (s.postLater p).arg = s.arg := rfl
@[simp] theorem State.postLater_draw (s : State) (p : PendingRecord) : (s.postLater p).draw = s.draw := rfl
@[simp] theorem State.postLater_ticket (s : State) (p : PendingRecord) : (s.postLater p).ticket = s.ticket := rfl
@[simp] theorem State.postLater_me (s : State) (p : PendingRecord) : (s.postLater p).me = s.me := rfl
@[simp] theorem State.postLater_myJob (s : State) (p : PendingRecord) : (s.postLater p).myJob = s.myJob := rfl
@[simp] theorem State.postLater_streams (s : State) (p : PendingRecord) : (s.postLater p).streams = s.streams := rfl
@[simp] theorem State.postLater_jobs (s : State) (p : PendingRecord) : (s.postLater p).jobs = s.jobs := rfl
@[simp] theorem State.postLater_locks (s : State) (p : PendingRecord) : (s.postLater p).locks = s.locks := rfl
@[simp] theorem State.postLater_lastIssue (s : State) (p : PendingRecord) : (s.postLater p).lastIssue = s.lastIssue := rfl
@[simp] theorem State.postLater_time (s : State) (p : PendingRecord) : (s.postLater p).time = s.time := rfl
@[simp] theorem State.postLater_regs (s : State) (p : PendingRecord) : (s.postLater p).regs = s.regs := rfl
@[simp] theorem State.postLater_sch (s : State) (p : PendingRecord) : (s.postLater p).sch = { s.sch with records := s.sch.records ++ [p] } := rfl
@[simp] theorem State.postLater_guide (s : State) (p : PendingRecord) : (s.postLater p).guide = s.guide := rfl
@[simp] theorem State.postLater_mm (s : State) (p : PendingRecord) : (s.postLater p).mm = s.mm := rfl
@[simp] theorem State.postLater_dram (s : State) (p : PendingRecord) : (s.postLater p).dram = s.dram := rfl
@[simp] theorem State.postLater_net (s : State) (p : PendingRecord) : (s.postLater p).net = s.net := rfl
@[simp] theorem State.postLater_sys (s : State) (p : PendingRecord) : (s.postLater p).sys = s.sys := rfl

/-! ### Updates with a case distinction -/

@[simp] theorem State.modStream_agenda (s : State) (id : StreamId) (f : Stream → Stream) : (s.modStream id f).agenda = s.agenda := by
  unfold State.modStream; split <;> (try split) <;> rfl
@[simp] theorem State.modStream_arg (s : State) (id : StreamId) (f : Stream → Stream) : (s.modStream id f).arg = s.arg := by
  unfold State.modStream; split <;> (try split) <;> rfl
@[simp] theorem State.modStream_draw (s : State) (id : StreamId) (f : Stream → Stream) : (s.modStream id f).draw = s.draw := by
  unfold State.modStream; split <;> (try split) <;> rfl
@[simp] theorem State.modStream_ticket (s : State) (id : StreamId) (f : Stream → Stream) : (s.modStream id f).ticket = s.ticket := by
  unfold State.modStream; split <;> (try split) <;> rfl
@[simp] theorem State.modStream_myJob (s : State) (id : StreamId) (f : Stream → Stream) : (s.modStream id f).myJob = s.myJob := by
  unfold State.modStream; split <;> (try split) <;> rfl
@[simp] theorem State.modStream_jobs (s : State) (id : StreamId) (f : Stream → Stream) : (s.modStream id f).jobs = s.jobs := by
  unfold State.modStream; split <;> (try split) <;> rfl
@[simp] theorem State.modStream_locks (s : State) (id : StreamId) (f : Stream → Stream) : (s.modStream id f).locks = s.locks := by
  unfold State.modStream; split <;> (try split) <;> rfl
@[simp] theorem State.modStream_lastIssue (s : State) (id : StreamId) (f : Stream → Stream) : (s.modStream id f).lastIssue = s.lastIssue := by
  unfold State.modStream; split <;> (try split) <;> rfl
@[simp] theorem State.modStream_time (s : State) (id : StreamId) (f : Stream → Stream) : (s.modStream id f).time = s.time := by
  unfold State.modStream; split <;> (try split) <;> rfl
@[simp] theorem State.modStream_regs (s : State) (id : StreamId) (f : Stream → Stream) : (s.modStream id f).regs = s.regs := by
  unfold State.modStream; split <;> (try split) <;> rfl
@[simp] theorem State.modStream_sch (s : State) (id : StreamId) (f : Stream → Stream) : (s.modStream id f).sch = s.sch := by
  unfold State.modStream; split <;> (try split) <;> rfl
@[simp] theorem State.modStream_guide (s : State) (id : StreamId) (f : Stream → Stream) : (s.modStream id f).guide = s.guide := by
  unfold State.modStream; split <;> (try split) <;> rfl
@[simp] theorem State.modStream_mm (s : State) (id : StreamId) (f : Stream → Stream) : (s.modStream id f).mm = s.mm := by
  unfold State.modStream; split <;> (try split) <;> rfl
@[simp] theorem State.modStream_dram (s : State) (id : StreamId) (f : Stream → Stream) : (s.modStream id f).dram = s.dram := by
  unfold State.modStream; split <;> (try split) <;> rfl
@[simp] theorem State.modStream_net (s : State) (id : StreamId) (f : Stream → Stream) : (s.modStream id f).net = s.net := by
  unfold State.modStream; split <;> (try split) <;> rfl
@[simp] theorem State.modStream_sys (s : State) (id : StreamId) (f : Stream → Stream) : (s.modStream id f).sys = s.sys := by
  unfold State.modStream; split <;> (try split) <;> rfl

@[simp] theorem State.modJob_agenda (s : State) (j : JobId) (f : Job → Job) : (s.modJob j f).agenda = s.agenda := by
  unfold State.modJob; split <;> (try split) <;> rfl
@[simp] theorem State.modJob_arg (s : State) (j : JobId) (f : Job → Job) : (s.modJob j f).arg = s.arg := by
  unfold State.modJob; split <;> (try split) <;> rfl
@[simp] theorem State.modJob_draw (s : State) (j : JobId) (f : Job → Job) : (s.modJob j f).draw = s.draw := by
  unfold State.modJob; split <;> (try split) <;> rfl
@[simp] theorem State.modJob_ticket (s : State) (j : JobId) (f : Job → Job) : (s.modJob j f).ticket = s.ticket := by
  unfold State.modJob; split <;> (try split) <;> rfl
@[simp] theorem State.modJob_me (s : State) (j : JobId) (f : Job → Job) : (s.modJob j f).me = s.me := by
  unfold State.modJob; split <;> (try split) <;> rfl
@[simp] theorem State.modJob_streams (s : State) (j : JobId) (f : Job → Job) : (s.modJob j f).streams = s.streams := by
  unfold State.modJob; split <;> (try split) <;> rfl
@[simp] theorem State.modJob_locks (s : State) (j : JobId) (f : Job → Job) : (s.modJob j f).locks = s.locks := by
  unfold State.modJob; split <;> (try split) <;> rfl
@[simp] theorem State.modJob_lastIssue (s : State) (j : JobId) (f : Job → Job) : (s.modJob j f).lastIssue = s.lastIssue := by
  unfold State.modJob; split <;> (try split) <;> rfl
@[simp] theorem State.modJob_time (s : State) (j : JobId) (f : Job → Job) : (s.modJob j f).time = s.time := by
  unfold State.modJob; split <;> (try split) <;> rfl
@[simp] theorem State.modJob_regs (s : State) (j : JobId) (f : Job → Job) : (s.modJob j f).regs = s.regs := by
  unfold State.modJob; split <;> (try split) <;> rfl
@[simp] theorem State.modJob_sch (s : State) (j : JobId) (f : Job → Job) : (s.modJob j f).sch = s.sch := by
  unfold State.modJob; split <;> (try split) <;> rfl
@[simp] theorem State.modJob_guide (s : State) (j : JobId) (f : Job → Job) : (s.modJob j f).guide = s.guide := by
  unfold State.modJob; split <;> (try split) <;> rfl
@[simp] theorem State.modJob_mm (s : State) (j : JobId) (f : Job → Job) : (s.modJob j f).mm = s.mm := by
  unfold State.modJob; split <;> (try split) <;> rfl
@[simp] theorem State.modJob_dram (s : State) (j : JobId) (f : Job → Job) : (s.modJob j f).dram = s.dram := by
  unfold State.modJob; split <;> (try split) <;> rfl
@[simp] theorem State.modJob_net (s : State) (j : JobId) (f : Job → Job) : (s.modJob j f).net = s.net := by
  unfold State.modJob; split <;> (try split) <;> rfl
@[simp] theorem State.modJob_sys (s : State) (j : JobId) (f : Job → Job) : (s.modJob j f).sys = s.sys := by
  unfold State.modJob; split <;> (try split) <;> rfl

@[simp] theorem State.stall_agenda (s : State) : s.stall.agenda = s.agenda := by
  unfold State.stall; split <;> (try split) <;> rfl
@[simp] theorem State.stall_arg (s : State) : s.stall.arg = s.arg := by
  unfold State.stall; split <;> (try split) <;> rfl
@[simp] theorem State.stall_draw (s : State) : s.stall.draw = s.draw := by
  unfold State.stall; split <;> (try split) <;> rfl
@[simp] theorem State.stall_myJob (s : State) : s.stall.myJob = s.myJob := by
  unfold State.stall; split <;> (try split) <;> rfl
@[simp] theorem State.stall_streams (s : State) : s.stall.streams = s.streams := by
  unfold State.stall; split <;> (try split) <;> rfl
@[simp] theorem State.stall_jobs (s : State) : s.stall.jobs = s.jobs := by
  unfold State.stall; split <;> (try split) <;> rfl
@[simp] theorem State.stall_locks (s : State) : s.stall.locks = s.locks := by
  unfold State.stall; split <;> (try split) <;> rfl
@[simp] theorem State.stall_lastIssue (s : State) : s.stall.lastIssue = s.lastIssue := by
  unfold State.stall; split <;> (try split) <;> rfl
@[simp] theorem State.stall_time (s : State) : s.stall.time = s.time := by
  unfold State.stall; split <;> (try split) <;> rfl
@[simp] theorem State.stall_regs (s : State) : s.stall.regs = s.regs := by
  unfold State.stall; split <;> (try split) <;> rfl
@[simp] theorem State.stall_sch (s : State) : s.stall.sch = s.sch := by
  unfold State.stall; split <;> (try split) <;> rfl
@[simp] theorem State.stall_guide (s : State) : s.stall.guide = s.guide := by
  unfold State.stall; split <;> (try split) <;> rfl
@[simp] theorem State.stall_mm (s : State) : s.stall.mm = s.mm := by
  unfold State.stall; split <;> (try split) <;> rfl
@[simp] theorem State.stall_dram (s : State) : s.stall.dram = s.dram := by
  unfold State.stall; split <;> (try split) <;> rfl
@[simp] theorem State.stall_net (s : State) : s.stall.net = s.net := by
  unfold State.stall; split <;> (try split) <;> rfl
@[simp] theorem State.stall_sys (s : State) : s.stall.sys = s.sys := by
  unfold State.stall; split <;> (try split) <;> rfl

@[simp] theorem State.markDirty_agenda (s : State) (n : Nat) : (s.markDirty n).agenda = s.agenda := by
  unfold State.markDirty; split <;> (try split) <;> rfl
@[simp] theorem State.markDirty_arg (s : State) (n : Nat) : (s.markDirty n).arg = s.arg := by
  unfold State.markDirty; split <;> (try split) <;> rfl
@[simp] theorem State.markDirty_draw (s : State) (n : Nat) : (s.markDirty n).draw = s.draw := by
  unfold State.markDirty; split <;> (try split) <;> rfl
@[simp] theorem State.markDirty_ticket (s : State) (n : Nat) : (s.markDirty n).ticket = s.ticket := by
  unfold State.markDirty; split <;> (try split) <;> rfl
@[simp] theorem State.markDirty_me (s : State) (n : Nat) : (s.markDirty n).me = s.me := by
  unfold State.markDirty; split <;> (try split) <;> rfl
@[simp] theorem State.markDirty_myJob (s : State) (n : Nat) : (s.markDirty n).myJob = s.myJob := by
  unfold State.markDirty; split <;> (try split) <;> rfl
@[simp] theorem State.markDirty_streams (s : State) (n : Nat) : (s.markDirty n).streams = s.streams := by
  unfold State.markDirty; split <;> (try split) <;> rfl
@[simp] theorem State.markDirty_jobs (s : State) (n : Nat) : (s.markDirty n).jobs = s.jobs := by
  unfold State.markDirty; split <;> (try split) <;> rfl
@[simp] theorem State.markDirty_locks (s : State) (n : Nat) : (s.markDirty n).locks = s.locks := by
  unfold State.markDirty; split <;> (try split) <;> rfl
@[simp] theorem State.markDirty_lastIssue (s : State) (n : Nat) : (s.markDirty n).lastIssue = s.lastIssue := by
  unfold State.markDirty; split <;> (try split) <;> rfl
@[simp] theorem State.markDirty_time (s : State) (n : Nat) : (s.markDirty n).time = s.time := by
  unfold State.markDirty; split <;> (try split) <;> rfl
@[simp] theorem State.markDirty_regs (s : State) (n : Nat) : (s.markDirty n).regs = s.regs := by
  unfold State.markDirty; split <;> (try split) <;> rfl
@[simp] theorem State.markDirty_sch (s : State) (n : Nat) : (s.markDirty n).sch = s.sch := by
  unfold State.markDirty; split <;> (try split) <;> rfl
@[simp] theorem State.markDirty_guide (s : State) (n : Nat) : (s.markDirty n).guide = s.guide := by
  unfold State.markDirty; split <;> (try split) <;> rfl
@[simp] theorem State.markDirty_dram (s : State) (n : Nat) : (s.markDirty n).dram = s.dram := by
  unfold State.markDirty; split <;> (try split) <;> rfl
@[simp] theorem State.markDirty_net (s : State) (n : Nat) : (s.markDirty n).net = s.net := by
  unfold State.markDirty; split <;> (try split) <;> rfl
@[simp] theorem State.markDirty_sys (s : State) (n : Nat) : (s.markDirty n).sys = s.sys := by
  unfold State.markDirty; split <;> (try split) <;> rfl

@[simp] theorem State.modFrag_agenda (s : State) (id : StreamId) (n : Nat) (f : Frag → Frag) : (s.modFrag id n f).agenda = s.agenda := by simp [State.modFrag]
@[simp] theorem State.modFrag_arg (s : State) (id : StreamId) (n : Nat) (f : Frag → Frag) : (s.modFrag id n f).arg = s.arg := by simp [State.modFrag]
@[simp] theorem State.modFrag_draw (s : State) (id : StreamId) (n : Nat) (f : Frag → Frag) : (s.modFrag id n f).draw = s.draw := by simp [State.modFrag]
@[simp] theorem State.modFrag_ticket (s : State) (id : StreamId) (n : Nat) (f : Frag → Frag) : (s.modFrag id n f).ticket = s.ticket := by simp [State.modFrag]
@[simp] theorem State.modFrag_myJob (s : State) (id : StreamId) (n : Nat) (f : Frag → Frag) : (s.modFrag id n f).myJob = s.myJob := by simp [State.modFrag]
@[simp] theorem State.modFrag_jobs (s : State) (id : StreamId) (n : Nat) (f : Frag → Frag) : (s.modFrag id n f).jobs = s.jobs := by simp [State.modFrag]
@[simp] theorem State.modFrag_locks (s : State) (id : StreamId) (n : Nat) (f : Frag → Frag) : (s.modFrag id n f).locks = s.locks := by simp [State.modFrag]
@[simp] theorem State.modFrag_lastIssue (s : State) (id : StreamId) (n : Nat) (f : Frag → Frag) : (s.modFrag id n f).lastIssue = s.lastIssue := by simp [State.modFrag]
@[simp] theorem State.modFrag_time (s : State) (id : StreamId) (n : Nat) (f : Frag → Frag) : (s.modFrag id n f).time = s.time := by simp [State.modFrag]
@[simp] theorem State.modFrag_regs (s : State) (id : StreamId) (n : Nat) (f : Frag → Frag) : (s.modFrag id n f).regs = s.regs := by simp [State.modFrag]
@[simp] theorem State.modFrag_sch (s : State) (id : StreamId) (n : Nat) (f : Frag → Frag) : (s.modFrag id n f).sch = s.sch := by simp [State.modFrag]
@[simp] theorem State.modFrag_guide (s : State) (id : StreamId) (n : Nat) (f : Frag → Frag) : (s.modFrag id n f).guide = s.guide := by simp [State.modFrag]
@[simp] theorem State.modFrag_mm (s : State) (id : StreamId) (n : Nat) (f : Frag → Frag) : (s.modFrag id n f).mm = s.mm := by simp [State.modFrag]
@[simp] theorem State.modFrag_dram (s : State) (id : StreamId) (n : Nat) (f : Frag → Frag) : (s.modFrag id n f).dram = s.dram := by simp [State.modFrag]
@[simp] theorem State.modFrag_net (s : State) (id : StreamId) (n : Nat) (f : Frag → Frag) : (s.modFrag id n f).net = s.net := by simp [State.modFrag]
@[simp] theorem State.modFrag_sys (s : State) (id : StreamId) (n : Nat) (f : Frag → Frag) : (s.modFrag id n f).sys = s.sys := by simp [State.modFrag]

@[simp] theorem State.raiseHif_agenda (s : State) (n : Nat) : (s.raiseHif n).agenda = s.agenda := by
  unfold State.raiseHif; simp only; split <;> rfl
@[simp] theorem State.raiseHif_arg (s : State) (n : Nat) : (s.raiseHif n).arg = s.arg := by
  unfold State.raiseHif; simp only; split <;> rfl
@[simp] theorem State.raiseHif_draw (s : State) (n : Nat) : (s.raiseHif n).draw = s.draw := by
  unfold State.raiseHif; simp only; split <;> rfl
@[simp] theorem State.raiseHif_ticket (s : State) (n : Nat) : (s.raiseHif n).ticket = s.ticket := by
  unfold State.raiseHif; simp only; split <;> rfl
@[simp] theorem State.raiseHif_me (s : State) (n : Nat) : (s.raiseHif n).me = s.me := by
  unfold State.raiseHif; simp only; split <;> rfl
@[simp] theorem State.raiseHif_myJob (s : State) (n : Nat) : (s.raiseHif n).myJob = s.myJob := by
  unfold State.raiseHif; simp only; split <;> rfl
@[simp] theorem State.raiseHif_streams (s : State) (n : Nat) : (s.raiseHif n).streams = s.streams := by
  unfold State.raiseHif; simp only; split <;> rfl
@[simp] theorem State.raiseHif_jobs (s : State) (n : Nat) : (s.raiseHif n).jobs = s.jobs := by
  unfold State.raiseHif; simp only; split <;> rfl
@[simp] theorem State.raiseHif_locks (s : State) (n : Nat) : (s.raiseHif n).locks = s.locks := by
  unfold State.raiseHif; simp only; split <;> rfl
@[simp] theorem State.raiseHif_lastIssue (s : State) (n : Nat) : (s.raiseHif n).lastIssue = s.lastIssue := by
  unfold State.raiseHif; simp only; split <;> rfl
@[simp] theorem State.raiseHif_time (s : State) (n : Nat) : (s.raiseHif n).time = s.time := by
  unfold State.raiseHif; simp only; split <;> rfl
@[simp] theorem State.raiseHif_sch (s : State) (n : Nat) : (s.raiseHif n).sch = s.sch := by
  unfold State.raiseHif; simp only; split <;> rfl
@[simp] theorem State.raiseHif_guide (s : State) (n : Nat) : (s.raiseHif n).guide = s.guide := by
  unfold State.raiseHif; simp only; split <;> rfl
@[simp] theorem State.raiseHif_mm (s : State) (n : Nat) : (s.raiseHif n).mm = s.mm := by
  unfold State.raiseHif; simp only; split <;> rfl
@[simp] theorem State.raiseHif_dram (s : State) (n : Nat) : (s.raiseHif n).dram = s.dram := by
  unfold State.raiseHif; simp only; split <;> rfl
@[simp] theorem State.raiseHif_net (s : State) (n : Nat) : (s.raiseHif n).net = s.net := by
  unfold State.raiseHif; simp only; split <;> rfl

@[simp] theorem State.snoopHost_arg (s : State) (a : Nat) (i : Bool) : (s.snoopHost a i).arg = s.arg := by
  unfold State.snoopHost; split <;> (try split) <;> rfl
@[simp] theorem State.snoopHost_draw (s : State) (a : Nat) (i : Bool) : (s.snoopHost a i).draw = s.draw := by
  unfold State.snoopHost; split <;> (try split) <;> rfl
@[simp] theorem State.snoopHost_ticket (s : State) (a : Nat) (i : Bool) : (s.snoopHost a i).ticket = s.ticket := by
  unfold State.snoopHost; split <;> (try split) <;> rfl
@[simp] theorem State.snoopHost_me (s : State) (a : Nat) (i : Bool) : (s.snoopHost a i).me = s.me := by
  unfold State.snoopHost; split <;> (try split) <;> rfl
@[simp] theorem State.snoopHost_myJob (s : State) (a : Nat) (i : Bool) : (s.snoopHost a i).myJob = s.myJob := by
  unfold State.snoopHost; split <;> (try split) <;> rfl
@[simp] theorem State.snoopHost_streams (s : State) (a : Nat) (i : Bool) : (s.snoopHost a i).streams = s.streams := by
  unfold State.snoopHost; split <;> (try split) <;> rfl
@[simp] theorem State.snoopHost_jobs (s : State) (a : Nat) (i : Bool) : (s.snoopHost a i).jobs = s.jobs := by
  unfold State.snoopHost; split <;> (try split) <;> rfl
@[simp] theorem State.snoopHost_locks (s : State) (a : Nat) (i : Bool) : (s.snoopHost a i).locks = s.locks := by
  unfold State.snoopHost; split <;> (try split) <;> rfl
@[simp] theorem State.snoopHost_lastIssue (s : State) (a : Nat) (i : Bool) : (s.snoopHost a i).lastIssue = s.lastIssue := by
  unfold State.snoopHost; split <;> (try split) <;> rfl
@[simp] theorem State.snoopHost_time (s : State) (a : Nat) (i : Bool) : (s.snoopHost a i).time = s.time := by
  unfold State.snoopHost; split <;> (try split) <;> rfl
@[simp] theorem State.snoopHost_regs (s : State) (a : Nat) (i : Bool) : (s.snoopHost a i).regs = s.regs := by
  unfold State.snoopHost; split <;> (try split) <;> rfl
@[simp] theorem State.snoopHost_sch (s : State) (a : Nat) (i : Bool) : (s.snoopHost a i).sch = s.sch := by
  unfold State.snoopHost; split <;> (try split) <;> rfl
@[simp] theorem State.snoopHost_guide (s : State) (a : Nat) (i : Bool) : (s.snoopHost a i).guide = s.guide := by
  unfold State.snoopHost; split <;> (try split) <;> rfl
@[simp] theorem State.snoopHost_mm (s : State) (a : Nat) (i : Bool) : (s.snoopHost a i).mm = s.mm := by
  unfold State.snoopHost; split <;> (try split) <;> rfl
@[simp] theorem State.snoopHost_dram (s : State) (a : Nat) (i : Bool) : (s.snoopHost a i).dram = s.dram := by
  unfold State.snoopHost; split <;> (try split) <;> rfl
@[simp] theorem State.snoopHost_net (s : State) (a : Nat) (i : Bool) : (s.snoopHost a i).net = s.net := by
  unfold State.snoopHost; split <;> (try split) <;> rfl

@[simp] theorem State.backInvalidate_arg (s : State) (a : Nat) : (s.backInvalidate a).arg = s.arg := s.snoopHost_arg a true
@[simp] theorem State.backInvalidate_draw (s : State) (a : Nat) : (s.backInvalidate a).draw = s.draw := s.snoopHost_draw a true
@[simp] theorem State.backInvalidate_ticket (s : State) (a : Nat) : (s.backInvalidate a).ticket = s.ticket := s.snoopHost_ticket a true
@[simp] theorem State.backInvalidate_me (s : State) (a : Nat) : (s.backInvalidate a).me = s.me := s.snoopHost_me a true
@[simp] theorem State.backInvalidate_myJob (s : State) (a : Nat) : (s.backInvalidate a).myJob = s.myJob := s.snoopHost_myJob a true
@[simp] theorem State.backInvalidate_streams (s : State) (a : Nat) : (s.backInvalidate a).streams = s.streams := s.snoopHost_streams a true
@[simp] theorem State.backInvalidate_jobs (s : State) (a : Nat) : (s.backInvalidate a).jobs = s.jobs := s.snoopHost_jobs a true
@[simp] theorem State.backInvalidate_locks (s : State) (a : Nat) : (s.backInvalidate a).locks = s.locks := s.snoopHost_locks a true
@[simp] theorem State.backInvalidate_lastIssue (s : State) (a : Nat) : (s.backInvalidate a).lastIssue = s.lastIssue := s.snoopHost_lastIssue a true
@[simp] theorem State.backInvalidate_time (s : State) (a : Nat) : (s.backInvalidate a).time = s.time := s.snoopHost_time a true
@[simp] theorem State.backInvalidate_regs (s : State) (a : Nat) : (s.backInvalidate a).regs = s.regs := s.snoopHost_regs a true
@[simp] theorem State.backInvalidate_sch (s : State) (a : Nat) : (s.backInvalidate a).sch = s.sch := s.snoopHost_sch a true
@[simp] theorem State.backInvalidate_guide (s : State) (a : Nat) : (s.backInvalidate a).guide = s.guide := s.snoopHost_guide a true
@[simp] theorem State.backInvalidate_mm (s : State) (a : Nat) : (s.backInvalidate a).mm = s.mm := s.snoopHost_mm a true
@[simp] theorem State.backInvalidate_dram (s : State) (a : Nat) : (s.backInvalidate a).dram = s.dram := s.snoopHost_dram a true
@[simp] theorem State.backInvalidate_net (s : State) (a : Nat) : (s.backInvalidate a).net = s.net := s.snoopHost_net a true

@[simp] theorem State.backRead_arg (s : State) (a : Nat) : (s.backRead a).arg = s.arg := s.snoopHost_arg a false
@[simp] theorem State.backRead_draw (s : State) (a : Nat) : (s.backRead a).draw = s.draw := s.snoopHost_draw a false
@[simp] theorem State.backRead_ticket (s : State) (a : Nat) : (s.backRead a).ticket = s.ticket := s.snoopHost_ticket a false
@[simp] theorem State.backRead_me (s : State) (a : Nat) : (s.backRead a).me = s.me := s.snoopHost_me a false
@[simp] theorem State.backRead_myJob (s : State) (a : Nat) : (s.backRead a).myJob = s.myJob := s.snoopHost_myJob a false
@[simp] theorem State.backRead_streams (s : State) (a : Nat) : (s.backRead a).streams = s.streams := s.snoopHost_streams a false
@[simp] theorem State.backRead_jobs (s : State) (a : Nat) : (s.backRead a).jobs = s.jobs := s.snoopHost_jobs a false
@[simp] theorem State.backRead_locks (s : State) (a : Nat) : (s.backRead a).locks = s.locks := s.snoopHost_locks a false
@[simp] theorem State.backRead_lastIssue (s : State) (a : Nat) : (s.backRead a).lastIssue = s.lastIssue := s.snoopHost_lastIssue a false
@[simp] theorem State.backRead_time (s : State) (a : Nat) : (s.backRead a).time = s.time := s.snoopHost_time a false
@[simp] theorem State.backRead_regs (s : State) (a : Nat) : (s.backRead a).regs = s.regs := s.snoopHost_regs a false
@[simp] theorem State.backRead_sch (s : State) (a : Nat) : (s.backRead a).sch = s.sch := s.snoopHost_sch a false
@[simp] theorem State.backRead_guide (s : State) (a : Nat) : (s.backRead a).guide = s.guide := s.snoopHost_guide a false
@[simp] theorem State.backRead_mm (s : State) (a : Nat) : (s.backRead a).mm = s.mm := s.snoopHost_mm a false
@[simp] theorem State.backRead_dram (s : State) (a : Nat) : (s.backRead a).dram = s.dram := s.snoopHost_dram a false
@[simp] theorem State.backRead_net (s : State) (a : Nat) : (s.backRead a).net = s.net := s.snoopHost_net a false

@[simp] theorem State.askLine_arg (s : State) (a t n : Nat) (i : Bool) : (s.askLine a t n i).arg = s.arg := by
  unfold State.askLine; split <;> simp
@[simp] theorem State.askLine_draw (s : State) (a t n : Nat) (i : Bool) : (s.askLine a t n i).draw = s.draw := by
  unfold State.askLine; split <;> simp
@[simp] theorem State.askLine_ticket (s : State) (a t n : Nat) (i : Bool) : (s.askLine a t n i).ticket = s.ticket := by
  unfold State.askLine; split <;> simp
@[simp] theorem State.askLine_me (s : State) (a t n : Nat) (i : Bool) : (s.askLine a t n i).me = s.me := by
  unfold State.askLine; split <;> simp
@[simp] theorem State.askLine_myJob (s : State) (a t n : Nat) (i : Bool) : (s.askLine a t n i).myJob = s.myJob := by
  unfold State.askLine; split <;> simp
@[simp] theorem State.askLine_streams (s : State) (a t n : Nat) (i : Bool) : (s.askLine a t n i).streams = s.streams := by
  unfold State.askLine; split <;> simp
@[simp] theorem State.askLine_jobs (s : State) (a t n : Nat) (i : Bool) : (s.askLine a t n i).jobs = s.jobs := by
  unfold State.askLine; split <;> simp
@[simp] theorem State.askLine_locks (s : State) (a t n : Nat) (i : Bool) : (s.askLine a t n i).locks = s.locks := by
  unfold State.askLine; split <;> simp
@[simp] theorem State.askLine_lastIssue (s : State) (a t n : Nat) (i : Bool) : (s.askLine a t n i).lastIssue = s.lastIssue := by
  unfold State.askLine; split <;> simp
@[simp] theorem State.askLine_time (s : State) (a t n : Nat) (i : Bool) : (s.askLine a t n i).time = s.time := by
  unfold State.askLine; split <;> simp
@[simp] theorem State.askLine_regs (s : State) (a t n : Nat) (i : Bool) : (s.askLine a t n i).regs = s.regs := by
  unfold State.askLine; split <;> simp
@[simp] theorem State.askLine_sch (s : State) (a t n : Nat) (i : Bool) : (s.askLine a t n i).sch = s.sch := by
  unfold State.askLine; split <;> simp
@[simp] theorem State.askLine_guide (s : State) (a t n : Nat) (i : Bool) : (s.askLine a t n i).guide = s.guide := by
  unfold State.askLine; split <;> simp
@[simp] theorem State.askLine_mm (s : State) (a t n : Nat) (i : Bool) : (s.askLine a t n i).mm = s.mm := by
  unfold State.askLine; split <;> simp
@[simp] theorem State.askLine_dram (s : State) (a t n : Nat) (i : Bool) : (s.askLine a t n i).dram = s.dram := by
  unfold State.askLine; split <;> simp
@[simp] theorem State.askLine_net (s : State) (a t n : Nat) (i : Bool) : (s.askLine a t n i).net = s.net := by
  unfold State.askLine; split <;> simp

@[simp] theorem State.readLine_arg (s : State) (t g n a : Nat) : (s.readLine t g n a).arg = s.arg := by
  unfold State.readLine; simp only; split <;> (try split) <;> first | rfl | simp
@[simp] theorem State.readLine_draw (s : State) (t g n a : Nat) : (s.readLine t g n a).draw = s.draw := by
  unfold State.readLine; simp only; split <;> (try split) <;> first | rfl | simp
@[simp] theorem State.readLine_ticket (s : State) (t g n a : Nat) : (s.readLine t g n a).ticket = s.ticket := by
  unfold State.readLine; simp only; split <;> (try split) <;> first | rfl | simp
@[simp] theorem State.readLine_me (s : State) (t g n a : Nat) : (s.readLine t g n a).me = s.me := by
  unfold State.readLine; simp only; split <;> (try split) <;> first | rfl | simp
@[simp] theorem State.readLine_myJob (s : State) (t g n a : Nat) : (s.readLine t g n a).myJob = s.myJob := by
  unfold State.readLine; simp only; split <;> (try split) <;> first | rfl | simp
@[simp] theorem State.readLine_streams (s : State) (t g n a : Nat) : (s.readLine t g n a).streams = s.streams := by
  unfold State.readLine; simp only; split <;> (try split) <;> first | rfl | simp
@[simp] theorem State.readLine_jobs (s : State) (t g n a : Nat) : (s.readLine t g n a).jobs = s.jobs := by
  unfold State.readLine; simp only; split <;> (try split) <;> first | rfl | simp
@[simp] theorem State.readLine_locks (s : State) (t g n a : Nat) : (s.readLine t g n a).locks = s.locks := by
  unfold State.readLine; simp only; split <;> (try split) <;> first | rfl | simp
@[simp] theorem State.readLine_lastIssue (s : State) (t g n a : Nat) : (s.readLine t g n a).lastIssue = s.lastIssue := by
  unfold State.readLine; simp only; split <;> (try split) <;> first | rfl | simp
@[simp] theorem State.readLine_time (s : State) (t g n a : Nat) : (s.readLine t g n a).time = s.time := by
  unfold State.readLine; simp only; split <;> (try split) <;> first | rfl | simp
@[simp] theorem State.readLine_sch (s : State) (t g n a : Nat) : (s.readLine t g n a).sch = s.sch := by
  unfold State.readLine; simp only; split <;> (try split) <;> first | rfl | simp
@[simp] theorem State.readLine_guide (s : State) (t g n a : Nat) : (s.readLine t g n a).guide = s.guide := by
  unfold State.readLine; simp only; split <;> (try split) <;> first | rfl | simp
@[simp] theorem State.readLine_dram (s : State) (t g n a : Nat) : (s.readLine t g n a).dram = s.dram := by
  unfold State.readLine; simp only; split <;> (try split) <;> first | rfl | simp
@[simp] theorem State.readLine_net (s : State) (t g n a : Nat) : (s.readLine t g n a).net = s.net := by
  unfold State.readLine; simp only; split <;> (try split) <;> first | rfl | simp
@[simp] theorem State.readLine_sys (s : State) (t g n a : Nat) : (s.readLine t g n a).sys = s.sys := by
  unfold State.readLine; simp only; split <;> (try split) <;> first | rfl | simp

@[simp] theorem State.noteRead_arg (s : State) (a n : Nat) : (s.noteRead a n).arg = s.arg := s.readLine_arg 0 n n a
@[simp] theorem State.noteRead_draw (s : State) (a n : Nat) : (s.noteRead a n).draw = s.draw := s.readLine_draw 0 n n a
@[simp] theorem State.noteRead_ticket (s : State) (a n : Nat) : (s.noteRead a n).ticket = s.ticket := s.readLine_ticket 0 n n a
@[simp] theorem State.noteRead_me (s : State) (a n : Nat) : (s.noteRead a n).me = s.me := s.readLine_me 0 n n a
@[simp] theorem State.noteRead_myJob (s : State) (a n : Nat) : (s.noteRead a n).myJob = s.myJob := s.readLine_myJob 0 n n a
@[simp] theorem State.noteRead_streams (s : State) (a n : Nat) : (s.noteRead a n).streams = s.streams := s.readLine_streams 0 n n a
@[simp] theorem State.noteRead_jobs (s : State) (a n : Nat) : (s.noteRead a n).jobs = s.jobs := s.readLine_jobs 0 n n a
@[simp] theorem State.noteRead_locks (s : State) (a n : Nat) : (s.noteRead a n).locks = s.locks := s.readLine_locks 0 n n a
@[simp] theorem State.noteRead_lastIssue (s : State) (a n : Nat) : (s.noteRead a n).lastIssue = s.lastIssue := s.readLine_lastIssue 0 n n a
@[simp] theorem State.noteRead_time (s : State) (a n : Nat) : (s.noteRead a n).time = s.time := s.readLine_time 0 n n a
@[simp] theorem State.noteRead_sch (s : State) (a n : Nat) : (s.noteRead a n).sch = s.sch := s.readLine_sch 0 n n a
@[simp] theorem State.noteRead_guide (s : State) (a n : Nat) : (s.noteRead a n).guide = s.guide := s.readLine_guide 0 n n a
@[simp] theorem State.noteRead_dram (s : State) (a n : Nat) : (s.noteRead a n).dram = s.dram := s.readLine_dram 0 n n a
@[simp] theorem State.noteRead_net (s : State) (a n : Nat) : (s.noteRead a n).net = s.net := s.readLine_net 0 n n a
@[simp] theorem State.noteRead_sys (s : State) (a n : Nat) : (s.noteRead a n).sys = s.sys := s.readLine_sys 0 n n a

@[simp] theorem State.noteCmp_agenda (s : State) (a : Nat) (b : Bool) : (s.noteCmp a b).agenda = s.agenda := by
  unfold State.noteCmp; simp only; split <;> (try split) <;> first | rfl | simp
@[simp] theorem State.noteCmp_arg (s : State) (a : Nat) (b : Bool) : (s.noteCmp a b).arg = s.arg := by
  unfold State.noteCmp; simp only; split <;> (try split) <;> first | rfl | simp
@[simp] theorem State.noteCmp_draw (s : State) (a : Nat) (b : Bool) : (s.noteCmp a b).draw = s.draw := by
  unfold State.noteCmp; simp only; split <;> (try split) <;> first | rfl | simp
@[simp] theorem State.noteCmp_ticket (s : State) (a : Nat) (b : Bool) : (s.noteCmp a b).ticket = s.ticket := by
  unfold State.noteCmp; simp only; split <;> (try split) <;> first | rfl | simp
@[simp] theorem State.noteCmp_me (s : State) (a : Nat) (b : Bool) : (s.noteCmp a b).me = s.me := by
  unfold State.noteCmp; simp only; split <;> (try split) <;> first | rfl | simp
@[simp] theorem State.noteCmp_myJob (s : State) (a : Nat) (b : Bool) : (s.noteCmp a b).myJob = s.myJob := by
  unfold State.noteCmp; simp only; split <;> (try split) <;> first | rfl | simp
@[simp] theorem State.noteCmp_streams (s : State) (a : Nat) (b : Bool) : (s.noteCmp a b).streams = s.streams := by
  unfold State.noteCmp; simp only; split <;> (try split) <;> first | rfl | simp
@[simp] theorem State.noteCmp_jobs (s : State) (a : Nat) (b : Bool) : (s.noteCmp a b).jobs = s.jobs := by
  unfold State.noteCmp; simp only; split <;> (try split) <;> first | rfl | simp
@[simp] theorem State.noteCmp_locks (s : State) (a : Nat) (b : Bool) : (s.noteCmp a b).locks = s.locks := by
  unfold State.noteCmp; simp only; split <;> (try split) <;> first | rfl | simp
@[simp] theorem State.noteCmp_lastIssue (s : State) (a : Nat) (b : Bool) : (s.noteCmp a b).lastIssue = s.lastIssue := by
  unfold State.noteCmp; simp only; split <;> (try split) <;> first | rfl | simp
@[simp] theorem State.noteCmp_time (s : State) (a : Nat) (b : Bool) : (s.noteCmp a b).time = s.time := by
  unfold State.noteCmp; simp only; split <;> (try split) <;> first | rfl | simp
@[simp] theorem State.noteCmp_regs (s : State) (a : Nat) (b : Bool) : (s.noteCmp a b).regs = s.regs := by
  unfold State.noteCmp; simp only; split <;> (try split) <;> first | rfl | simp
@[simp] theorem State.noteCmp_sch (s : State) (a : Nat) (b : Bool) : (s.noteCmp a b).sch = s.sch := by
  unfold State.noteCmp; simp only; split <;> (try split) <;> first | rfl | simp
@[simp] theorem State.noteCmp_guide (s : State) (a : Nat) (b : Bool) : (s.noteCmp a b).guide = s.guide := by
  unfold State.noteCmp; simp only; split <;> (try split) <;> first | rfl | simp
@[simp] theorem State.noteCmp_dram (s : State) (a : Nat) (b : Bool) : (s.noteCmp a b).dram = s.dram := by
  unfold State.noteCmp; simp only; split <;> (try split) <;> first | rfl | simp
@[simp] theorem State.noteCmp_net (s : State) (a : Nat) (b : Bool) : (s.noteCmp a b).net = s.net := by
  unfold State.noteCmp; simp only; split <;> (try split) <;> first | rfl | simp
@[simp] theorem State.noteCmp_sys (s : State) (a : Nat) (b : Bool) : (s.noteCmp a b).sys = s.sys := by
  unfold State.noteCmp; simp only; split <;> (try split) <;> first | rfl | simp

@[simp] theorem State.overtake_agenda (s : State) (a n : Nat) : (s.overtake a n).agenda = s.agenda := by
  unfold State.overtake; simp only; split <;> (try split) <;> first | rfl | simp
@[simp] theorem State.overtake_arg (s : State) (a n : Nat) : (s.overtake a n).arg = s.arg := by
  unfold State.overtake; simp only; split <;> (try split) <;> first | rfl | simp
@[simp] theorem State.overtake_draw (s : State) (a n : Nat) : (s.overtake a n).draw = s.draw := by
  unfold State.overtake; simp only; split <;> (try split) <;> first | rfl | simp
@[simp] theorem State.overtake_ticket (s : State) (a n : Nat) : (s.overtake a n).ticket = s.ticket := by
  unfold State.overtake; simp only; split <;> (try split) <;> first | rfl | simp
@[simp] theorem State.overtake_me (s : State) (a n : Nat) : (s.overtake a n).me = s.me := by
  unfold State.overtake; simp only; split <;> (try split) <;> first | rfl | simp
@[simp] theorem State.overtake_myJob (s : State) (a n : Nat) : (s.overtake a n).myJob = s.myJob := by
  unfold State.overtake; simp only; split <;> (try split) <;> first | rfl | simp
@[simp] theorem State.overtake_streams (s : State) (a n : Nat) : (s.overtake a n).streams = s.streams := by
  unfold State.overtake; simp only; split <;> (try split) <;> first | rfl | simp
@[simp] theorem State.overtake_jobs (s : State) (a n : Nat) : (s.overtake a n).jobs = s.jobs := by
  unfold State.overtake; simp only; split <;> (try split) <;> first | rfl | simp
@[simp] theorem State.overtake_locks (s : State) (a n : Nat) : (s.overtake a n).locks = s.locks := by
  unfold State.overtake; simp only; split <;> (try split) <;> first | rfl | simp
@[simp] theorem State.overtake_lastIssue (s : State) (a n : Nat) : (s.overtake a n).lastIssue = s.lastIssue := by
  unfold State.overtake; simp only; split <;> (try split) <;> first | rfl | simp
@[simp] theorem State.overtake_time (s : State) (a n : Nat) : (s.overtake a n).time = s.time := by
  unfold State.overtake; simp only; split <;> (try split) <;> first | rfl | simp
@[simp] theorem State.overtake_regs (s : State) (a n : Nat) : (s.overtake a n).regs = s.regs := by
  unfold State.overtake; simp only; split <;> (try split) <;> first | rfl | simp
@[simp] theorem State.overtake_sch (s : State) (a n : Nat) : (s.overtake a n).sch = s.sch := by
  unfold State.overtake; simp only; split <;> (try split) <;> first | rfl | simp
@[simp] theorem State.overtake_guide (s : State) (a n : Nat) : (s.overtake a n).guide = s.guide := by
  unfold State.overtake; simp only; split <;> (try split) <;> first | rfl | simp
@[simp] theorem State.overtake_dram (s : State) (a n : Nat) : (s.overtake a n).dram = s.dram := by
  unfold State.overtake; simp only; split <;> (try split) <;> first | rfl | simp
@[simp] theorem State.overtake_net (s : State) (a n : Nat) : (s.overtake a n).net = s.net := by
  unfold State.overtake; simp only; split <;> (try split) <;> first | rfl | simp
@[simp] theorem State.overtake_sys (s : State) (a n : Nat) : (s.overtake a n).sys = s.sys := by
  unfold State.overtake; simp only; split <;> (try split) <;> first | rfl | simp

@[simp] theorem State.countLost_agenda (s : State) (n : Nat) : (s.countLost n).agenda = s.agenda := by
  unfold State.countLost; split <;> (try split) <;> rfl
@[simp] theorem State.countLost_arg (s : State) (n : Nat) : (s.countLost n).arg = s.arg := by
  unfold State.countLost; split <;> (try split) <;> rfl
@[simp] theorem State.countLost_draw (s : State) (n : Nat) : (s.countLost n).draw = s.draw := by
  unfold State.countLost; split <;> (try split) <;> rfl
@[simp] theorem State.countLost_ticket (s : State) (n : Nat) : (s.countLost n).ticket = s.ticket := by
  unfold State.countLost; split <;> (try split) <;> rfl
@[simp] theorem State.countLost_me (s : State) (n : Nat) : (s.countLost n).me = s.me := by
  unfold State.countLost; split <;> (try split) <;> rfl
@[simp] theorem State.countLost_myJob (s : State) (n : Nat) : (s.countLost n).myJob = s.myJob := by
  unfold State.countLost; split <;> (try split) <;> rfl
@[simp] theorem State.countLost_streams (s : State) (n : Nat) : (s.countLost n).streams = s.streams := by
  unfold State.countLost; split <;> (try split) <;> rfl
@[simp] theorem State.countLost_jobs (s : State) (n : Nat) : (s.countLost n).jobs = s.jobs := by
  unfold State.countLost; split <;> (try split) <;> rfl
@[simp] theorem State.countLost_locks (s : State) (n : Nat) : (s.countLost n).locks = s.locks := by
  unfold State.countLost; split <;> (try split) <;> rfl
@[simp] theorem State.countLost_lastIssue (s : State) (n : Nat) : (s.countLost n).lastIssue = s.lastIssue := by
  unfold State.countLost; split <;> (try split) <;> rfl
@[simp] theorem State.countLost_time (s : State) (n : Nat) : (s.countLost n).time = s.time := by
  unfold State.countLost; split <;> (try split) <;> rfl
@[simp] theorem State.countLost_sch (s : State) (n : Nat) : (s.countLost n).sch = s.sch := by
  unfold State.countLost; split <;> (try split) <;> rfl
@[simp] theorem State.countLost_guide (s : State) (n : Nat) : (s.countLost n).guide = s.guide := by
  unfold State.countLost; split <;> (try split) <;> rfl
@[simp] theorem State.countLost_mm (s : State) (n : Nat) : (s.countLost n).mm = s.mm := by
  unfold State.countLost; split <;> (try split) <;> rfl
@[simp] theorem State.countLost_dram (s : State) (n : Nat) : (s.countLost n).dram = s.dram := by
  unfold State.countLost; split <;> (try split) <;> rfl
@[simp] theorem State.countLost_net (s : State) (n : Nat) : (s.countLost n).net = s.net := by
  unfold State.countLost; split <;> (try split) <;> rfl
@[simp] theorem State.countLost_sys (s : State) (n : Nat) : (s.countLost n).sys = s.sys := by
  unfold State.countLost; split <;> (try split) <;> rfl

@[simp] theorem State.swapStream_agenda (s : State) (id : StreamId) : (s.swapStream id).agenda = s.agenda := by
  unfold State.swapStream; split <;> (try split) <;> rfl
@[simp] theorem State.swapStream_arg (s : State) (id : StreamId) : (s.swapStream id).arg = s.arg := by
  unfold State.swapStream; split <;> (try split) <;> rfl
@[simp] theorem State.swapStream_draw (s : State) (id : StreamId) : (s.swapStream id).draw = s.draw := by
  unfold State.swapStream; split <;> (try split) <;> rfl
@[simp] theorem State.swapStream_ticket (s : State) (id : StreamId) : (s.swapStream id).ticket = s.ticket := by
  unfold State.swapStream; split <;> (try split) <;> rfl
@[simp] theorem State.swapStream_myJob (s : State) (id : StreamId) : (s.swapStream id).myJob = s.myJob := by
  unfold State.swapStream; split <;> (try split) <;> rfl
@[simp] theorem State.swapStream_jobs (s : State) (id : StreamId) : (s.swapStream id).jobs = s.jobs := by
  unfold State.swapStream; split <;> (try split) <;> rfl
@[simp] theorem State.swapStream_locks (s : State) (id : StreamId) : (s.swapStream id).locks = s.locks := by
  unfold State.swapStream; split <;> (try split) <;> rfl
@[simp] theorem State.swapStream_lastIssue (s : State) (id : StreamId) : (s.swapStream id).lastIssue = s.lastIssue := by
  unfold State.swapStream; split <;> (try split) <;> rfl
@[simp] theorem State.swapStream_time (s : State) (id : StreamId) : (s.swapStream id).time = s.time := by
  unfold State.swapStream; split <;> (try split) <;> rfl
@[simp] theorem State.swapStream_regs (s : State) (id : StreamId) : (s.swapStream id).regs = s.regs := by
  unfold State.swapStream; split <;> (try split) <;> rfl
@[simp] theorem State.swapStream_sch (s : State) (id : StreamId) : (s.swapStream id).sch = s.sch := by
  unfold State.swapStream; split <;> (try split) <;> rfl
@[simp] theorem State.swapStream_guide (s : State) (id : StreamId) : (s.swapStream id).guide = s.guide := by
  unfold State.swapStream; split <;> (try split) <;> rfl
@[simp] theorem State.swapStream_mm (s : State) (id : StreamId) : (s.swapStream id).mm = s.mm := by
  unfold State.swapStream; split <;> (try split) <;> rfl
@[simp] theorem State.swapStream_dram (s : State) (id : StreamId) : (s.swapStream id).dram = s.dram := by
  unfold State.swapStream; split <;> (try split) <;> rfl
@[simp] theorem State.swapStream_net (s : State) (id : StreamId) : (s.swapStream id).net = s.net := by
  unfold State.swapStream; split <;> (try split) <;> rfl
@[simp] theorem State.swapStream_sys (s : State) (id : StreamId) : (s.swapStream id).sys = s.sys := by
  unfold State.swapStream; split <;> (try split) <;> rfl

@[simp] theorem State.swapJob_agenda (s : State) (o : Owner) : (s.swapJob o).agenda = s.agenda := by
  unfold State.swapJob; simp only; split <;> (try split) <;> (try split) <;> rfl
@[simp] theorem State.swapJob_arg (s : State) (o : Owner) : (s.swapJob o).arg = s.arg := by
  unfold State.swapJob; simp only; split <;> (try split) <;> (try split) <;> rfl
@[simp] theorem State.swapJob_draw (s : State) (o : Owner) : (s.swapJob o).draw = s.draw := by
  unfold State.swapJob; simp only; split <;> (try split) <;> (try split) <;> rfl
@[simp] theorem State.swapJob_ticket (s : State) (o : Owner) : (s.swapJob o).ticket = s.ticket := by
  unfold State.swapJob; simp only; split <;> (try split) <;> (try split) <;> rfl
@[simp] theorem State.swapJob_me (s : State) (o : Owner) : (s.swapJob o).me = s.me := by
  unfold State.swapJob; simp only; split <;> (try split) <;> (try split) <;> rfl
@[simp] theorem State.swapJob_streams (s : State) (o : Owner) : (s.swapJob o).streams = s.streams := by
  unfold State.swapJob; simp only; split <;> (try split) <;> (try split) <;> rfl
@[simp] theorem State.swapJob_locks (s : State) (o : Owner) : (s.swapJob o).locks = s.locks := by
  unfold State.swapJob; simp only; split <;> (try split) <;> (try split) <;> rfl
@[simp] theorem State.swapJob_lastIssue (s : State) (o : Owner) : (s.swapJob o).lastIssue = s.lastIssue := by
  unfold State.swapJob; simp only; split <;> (try split) <;> (try split) <;> rfl
@[simp] theorem State.swapJob_time (s : State) (o : Owner) : (s.swapJob o).time = s.time := by
  unfold State.swapJob; simp only; split <;> (try split) <;> (try split) <;> rfl
@[simp] theorem State.swapJob_regs (s : State) (o : Owner) : (s.swapJob o).regs = s.regs := by
  unfold State.swapJob; simp only; split <;> (try split) <;> (try split) <;> rfl
@[simp] theorem State.swapJob_sch (s : State) (o : Owner) : (s.swapJob o).sch = s.sch := by
  unfold State.swapJob; simp only; split <;> (try split) <;> (try split) <;> rfl
@[simp] theorem State.swapJob_guide (s : State) (o : Owner) : (s.swapJob o).guide = s.guide := by
  unfold State.swapJob; simp only; split <;> (try split) <;> (try split) <;> rfl
@[simp] theorem State.swapJob_mm (s : State) (o : Owner) : (s.swapJob o).mm = s.mm := by
  unfold State.swapJob; simp only; split <;> (try split) <;> (try split) <;> rfl
@[simp] theorem State.swapJob_dram (s : State) (o : Owner) : (s.swapJob o).dram = s.dram := by
  unfold State.swapJob; simp only; split <;> (try split) <;> (try split) <;> rfl
@[simp] theorem State.swapJob_net (s : State) (o : Owner) : (s.swapJob o).net = s.net := by
  unfold State.swapJob; simp only; split <;> (try split) <;> (try split) <;> rfl
@[simp] theorem State.swapJob_sys (s : State) (o : Owner) : (s.swapJob o).sys = s.sys := by
  unfold State.swapJob; simp only; split <;> (try split) <;> (try split) <;> rfl

@[simp] theorem State.select_agenda (s : State) (id : StreamId) (n : Nat) : (s.select id n).agenda = s.agenda := by simp [State.select]
@[simp] theorem State.select_arg (s : State) (id : StreamId) (n : Nat) : (s.select id n).arg = s.arg := by simp [State.select]
@[simp] theorem State.select_draw (s : State) (id : StreamId) (n : Nat) : (s.select id n).draw = s.draw := by simp [State.select]
@[simp] theorem State.select_ticket (s : State) (id : StreamId) (n : Nat) : (s.select id n).ticket = s.ticket := by simp [State.select]
@[simp] theorem State.select_locks (s : State) (id : StreamId) (n : Nat) : (s.select id n).locks = s.locks := by simp [State.select]
@[simp] theorem State.select_lastIssue (s : State) (id : StreamId) (n : Nat) : (s.select id n).lastIssue = s.lastIssue := by simp [State.select]
@[simp] theorem State.select_time (s : State) (id : StreamId) (n : Nat) : (s.select id n).time = s.time := by simp [State.select]
@[simp] theorem State.select_regs (s : State) (id : StreamId) (n : Nat) : (s.select id n).regs = s.regs := by simp [State.select]
@[simp] theorem State.select_sch (s : State) (id : StreamId) (n : Nat) : (s.select id n).sch = s.sch := by simp [State.select]
@[simp] theorem State.select_guide (s : State) (id : StreamId) (n : Nat) : (s.select id n).guide = s.guide := by simp [State.select]
@[simp] theorem State.select_mm (s : State) (id : StreamId) (n : Nat) : (s.select id n).mm = s.mm := by simp [State.select]
@[simp] theorem State.select_dram (s : State) (id : StreamId) (n : Nat) : (s.select id n).dram = s.dram := by simp [State.select]
@[simp] theorem State.select_net (s : State) (id : StreamId) (n : Nat) : (s.select id n).net = s.net := by simp [State.select]
@[simp] theorem State.select_sys (s : State) (id : StreamId) (n : Nat) : (s.select id n).sys = s.sys := by simp [State.select]

@[simp] theorem State.resumeFrag_agenda (s : State) (id : StreamId) (n d : Nat) : (s.resumeFrag id n d).agenda = s.agenda := by simp [State.resumeFrag]
@[simp] theorem State.resumeFrag_arg (s : State) (id : StreamId) (n d : Nat) : (s.resumeFrag id n d).arg = s.arg := by simp [State.resumeFrag]
@[simp] theorem State.resumeFrag_draw (s : State) (id : StreamId) (n d : Nat) : (s.resumeFrag id n d).draw = s.draw := by simp [State.resumeFrag]
@[simp] theorem State.resumeFrag_ticket (s : State) (id : StreamId) (n d : Nat) : (s.resumeFrag id n d).ticket = s.ticket := by simp [State.resumeFrag]
@[simp] theorem State.resumeFrag_myJob (s : State) (id : StreamId) (n d : Nat) : (s.resumeFrag id n d).myJob = s.myJob := by simp [State.resumeFrag]
@[simp] theorem State.resumeFrag_jobs (s : State) (id : StreamId) (n d : Nat) : (s.resumeFrag id n d).jobs = s.jobs := by simp [State.resumeFrag]
@[simp] theorem State.resumeFrag_locks (s : State) (id : StreamId) (n d : Nat) : (s.resumeFrag id n d).locks = s.locks := by simp [State.resumeFrag]
@[simp] theorem State.resumeFrag_lastIssue (s : State) (id : StreamId) (n d : Nat) : (s.resumeFrag id n d).lastIssue = s.lastIssue := by simp [State.resumeFrag]
@[simp] theorem State.resumeFrag_time (s : State) (id : StreamId) (n d : Nat) : (s.resumeFrag id n d).time = s.time := by simp [State.resumeFrag]
@[simp] theorem State.resumeFrag_regs (s : State) (id : StreamId) (n d : Nat) : (s.resumeFrag id n d).regs = s.regs := by simp [State.resumeFrag]
@[simp] theorem State.resumeFrag_sch (s : State) (id : StreamId) (n d : Nat) : (s.resumeFrag id n d).sch = s.sch := by simp [State.resumeFrag]
@[simp] theorem State.resumeFrag_guide (s : State) (id : StreamId) (n d : Nat) : (s.resumeFrag id n d).guide = s.guide := by simp [State.resumeFrag]
@[simp] theorem State.resumeFrag_mm (s : State) (id : StreamId) (n d : Nat) : (s.resumeFrag id n d).mm = s.mm := by simp [State.resumeFrag]
@[simp] theorem State.resumeFrag_dram (s : State) (id : StreamId) (n d : Nat) : (s.resumeFrag id n d).dram = s.dram := by simp [State.resumeFrag]
@[simp] theorem State.resumeFrag_net (s : State) (id : StreamId) (n d : Nat) : (s.resumeFrag id n d).net = s.net := by simp [State.resumeFrag]
@[simp] theorem State.resumeFrag_sys (s : State) (id : StreamId) (n d : Nat) : (s.resumeFrag id n d).sys = s.sys := by simp [State.resumeFrag]

/-! ### Registers of the stream -/

theorem SReg.toNat_inj {n d : SReg} : n.toNat = d.toNat ↔ n = d :=
  ⟨fun h => BitVec.eq_of_toNat_eq h, fun h => by rw [h]⟩

/-- s0 reads as zero (R240). -/
@[simp] theorem State.sreg_zero (s : State) : s.sreg 0#6 = 0#64 := rfl

/-- A write to s0 is discarded (R240). -/
@[simp] theorem State.setS_zero (s : State) (v : Word) : s.setS 0#6 v = s := rfl

/-- A scalar register that has been written reads back. -/
theorem State.sreg_setS_self (s : State) (d : SReg) (v : Word) (h : d ≠ 0#6) : (s.setS d v).sreg d = v := by
  simp [State.sreg, State.setS, Stream.setS, h]

/-- Any other scalar register reads as before. -/
theorem State.sreg_setS_ne (s : State) (d n : SReg) (v : Word) (h : n ≠ d) : (s.setS d v).sreg n = s.sreg n := by
  by_cases hd : d = 0#6
  · subst hd; rfl
  · have : n.toNat ≠ d.toNat := fun e => h (BitVec.eq_of_toNat_eq e)
    simp [State.sreg, State.setS, Stream.setS, hd, tableGet_set_ne _ _ _ _ _ _ this]

/-- What the scalar registers read is fixed by the stream's table of them. -/
theorem State.sreg_congr {s t : State} (h : t.me.sregs = s.me.sregs) (n : SReg) : t.sreg n = s.sreg n := by
  simp [State.sreg, h]

@[simp] theorem Stream.pred_zero (st : Stream) : st.pred 0 = BitVec.allOnes 128 := rfl
@[simp] theorem Stream.setPred_zero (st : Stream) (m : LaneMask) : st.setPred 0 m = st := rfl

theorem Stream.pred_setPred_self (st : Stream) (n : Nat) (m : LaneMask) (h : n ≠ 0) : (st.setPred n m).pred n = m := by
  simp [Stream.pred, Stream.setPred, h]

theorem Stream.pred_setPred_ne (st : Stream) (n k : Nat) (m : LaneMask) (h : k ≠ n) : (st.setPred n m).pred k = st.pred k := by
  by_cases hn : n = 0
  · subst hn; rfl
  · simp [Stream.pred, Stream.setPred, hn, tableGet_set_ne _ _ _ _ _ _ h]

/-- A vector register that has been written reads back, whatever RRB (R242). -/
@[simp] theorem Stream.vreg_setV_self (st : Stream) (n : Nat) (v : VReg) : (st.setV n v).vreg n = v := by
  simp [Stream.vreg, Stream.setV, Stream.rotate]

@[simp] theorem Stream.lc_setLc_self (st : Stream) (n : Nat) (v : Word) : (st.setLc n v).lc n = v := by
  simp [Stream.lc, Stream.setLc]

theorem Stream.lc_setLc_ne (st : Stream) (n k : Nat) (v : Word) (h : k ≠ n) : (st.setLc n v).lc k = st.lc k := by
  simp [Stream.lc, Stream.setLc, tableGet_set_ne _ _ _ _ _ _ h]

/-! ### The register space -/

/-- A register that has been set reads back. -/
@[simp] theorem State.reg_setReg_self (s : State) (o : Nat) (v : BitVec 64) : (s.setReg o v).reg o = v := by
  simp [State.reg, State.setReg]

/-- Every other register reads as before. -/
theorem State.reg_setReg_ne (s : State) (o n : Nat) (v : BitVec 64) (h : n ≠ o) : (s.setReg o v).reg n = s.reg n := by
  simp [State.reg, State.setReg, tableGet_set_ne _ _ _ _ _ _ h]

theorem State.reg_setField_ne (s : State) (o hi lo x n : Nat) (h : n ≠ o) : (s.setField o hi lo x).reg n = s.reg n :=
  s.reg_setReg_ne o n _ h

theorem State.reg_raise_ne (s : State) (o k n : Nat) (h : n ≠ o) : (s.raise o k).reg n = s.reg n :=
  s.reg_setReg_ne o n _ h

theorem State.reg_count_ne (s : State) (o w k n : Nat) (h : n ≠ o) : (s.count o w k).reg n = s.reg n :=
  s.reg_setReg_ne o n _ h

theorem State.field_congr {s t : State} {o : Nat} (h : t.reg o = s.reg o) (hi lo : Nat) : t.field o hi lo = s.field o hi lo := by
  simp [State.field, h]

/-- Bits of a word whose field has been replaced. -/
theorem getLsbD_withBits (v : Word) (hi lo x n : Nat) (h : lo ≤ hi) (hhi : hi < 64) :
    (withBits v hi lo x).getLsbD n = if lo ≤ n ∧ n ≤ hi then x.testBit (n - lo) else v.getLsbD n := by
  by_cases hn : n < 64
  · have hm : (BitVec.ofNat 64 ((2 ^ (hi + 1 - lo) - 1) * 2 ^ lo)).getLsbD n = decide (lo ≤ n ∧ n ≤ hi) := by
      simp only [BitVec.getLsbD_ofNat, hn, decide_true, Bool.true_and, Nat.testBit_mul_two_pow, Nat.testBit_two_pow_sub_one]
      by_cases h1 : lo ≤ n
      · simp only [h1, decide_true, Bool.true_and, true_and]
        congr 1; simp only [eq_iff_iff]; omega
      · simp [h1]
    have hx : (BitVec.ofNat 64 (x * 2 ^ lo)).getLsbD n = (decide (lo ≤ n) && x.testBit (n - lo)) := by
      rw [BitVec.getLsbD_ofNat, Nat.testBit_mul_two_pow]; simp [hn]
    simp only [withBits, BitVec.getLsbD_or, BitVec.getLsbD_and, BitVec.getLsbD_not, hm, hx, hn, decide_true, Bool.true_and]
    by_cases h1 : lo ≤ n ∧ n ≤ hi
    · simp [h1]
    · simp [h1]
  · have : 64 ≤ n := by omega
    simp [BitVec.getLsbD_of_ge _ _ this]
    omega

/-- A field is the value that its bits make. -/
theorem testBit_bitsOf (v : Word) (hi lo n : Nat) : (bitsOf v hi lo).testBit n = (decide (n < hi + 1 - lo) && v.getLsbD (lo + n)) := by
  simp [bitsOf, natBits, Nat.testBit_mod_two_pow, Nat.testBit_div_two_pow, BitVec.getLsbD, Nat.add_comm]

/-- A field that has been set reads its value, modulo its width. -/
theorem State.field_setField_self (s : State) (o hi lo x : Nat) (h : lo ≤ hi) (hhi : hi < 64) :
    (s.setField o hi lo x).field o hi lo = x % 2 ^ (hi + 1 - lo) := by
  apply Nat.eq_of_testBit_eq
  intro n
  simp only [State.field, State.setField, State.reg_setReg_self, testBit_bitsOf, getLsbD_withBits _ _ _ _ _ h hhi,
    Nat.testBit_mod_two_pow]
  by_cases hn : n < hi + 1 - lo
  · simp [hn, show lo ≤ lo + n ∧ lo + n ≤ hi by omega]
  · simp [hn]

/-- A field of the same register that does not meet the one set reads as before. -/
theorem State.field_setField_apart (s : State) (o hi lo x hi' lo' : Nat) (h : lo ≤ hi) (hhi : hi < 64)
    (ha : hi' < lo ∨ hi < lo') : (s.setField o hi lo x).field o hi' lo' = s.field o hi' lo' := by
  apply Nat.eq_of_testBit_eq
  intro n
  simp only [State.field, State.setField, State.reg_setReg_self, testBit_bitsOf, getLsbD_withBits _ _ _ _ _ h hhi]
  by_cases hn : n < hi' + 1 - lo'
  · simp [hn, show ¬ (lo ≤ lo' + n ∧ lo' + n ≤ hi) by omega]
  · simp [hn]

/-- A field of another register reads as before. -/
theorem State.field_setField_ne (s : State) (o hi lo x n hi' lo' : Nat) (h : n ≠ o) :
    (s.setField o hi lo x).field n hi' lo' = s.field n hi' lo' :=
  State.field_congr (s.reg_setField_ne o hi lo x n h) hi' lo'

/-- An event bit that has been set reads 1. -/
theorem State.field_raise_self (s : State) (o n : Nat) (h : n < 64) : (s.raise o n).field o n n = 1 := by
  rw [State.raise, State.field_setField_self _ _ _ _ _ (Nat.le_refl n) h]
  simp

end Sys2Proof.Machine
end

