-- ==== Sys2Proof/Laws/Memory.lean ====
section
/-!
SUPPORT. Every operation that writes device or host memory keeps the canonical form of both, and what a write at a slice or
at the host does to the bytes around it.
-/

set_option Elab.async false

namespace Sys2Proof.Machine

/-! ### The form travels with the two memories -/

/-- A state with the same two memories has the same form. -/
theorem memoryForm_of_eq {s t : State} (h1 : t.mm.mem = s.mm.mem) (h2 : t.mm.hostMem = s.mm.hostMem)
    (h : MemoryForm s) : MemoryForm t := by
  unfold MemoryForm at *
  rw [h1, h2]; exact h

theorem memoryForm_of_mm {s t : State} (h1 : t.mm = s.mm) (h : MemoryForm s) : MemoryForm t :=
  memoryForm_of_eq (by rw [h1]) (by rw [h1]) h

/-- A fold of steps that keep the form keeps it. -/
theorem memoryForm_foldl {α : Type} {f : State → α → State} (hf : ∀ s x, MemoryForm s → MemoryForm (f s x)) (xs : List α)
    {s : State} (h : MemoryForm s) : MemoryForm (xs.foldl f s) := by
  induction xs generalizing s with
  | nil => exact h
  | cons x rest ih => exact ih (hf s x h)

theorem memoryForm_reset : MemoryForm State.reset := ⟨rfl, rfl⟩

/-! ### Bookkeeping around a write -/

theorem memoryForm_markDirty {s : State} (n : Nat) (h : MemoryForm s) : MemoryForm (s.markDirty n) := by
  unfold State.markDirty; split
  · exact h
  · exact memoryForm_of_eq rfl rfl h

theorem mm_noteUncommitted (s : State) (n : Nat) : (s.noteUncommitted n).mm = s.mm := rfl

theorem memoryForm_noteUncommitted {s : State} (n : Nat) (h : MemoryForm s) : MemoryForm (s.noteUncommitted n) :=
  memoryForm_of_mm (mm_noteUncommitted s n) h

theorem memoryForm_fireLine {s : State} (n : Nat) (h : MemoryForm s) : MemoryForm (s.fireLine n) :=
  memoryForm_of_mm rfl h

theorem memoryForm_fireHostLine {s : State} (n : Nat) (h : MemoryForm s) : MemoryForm (s.fireHostLine n) := by
  unfold State.fireHostLine; split
  · exact h
  · exact memoryForm_fireLine _ h

/-- A read of a line at its slice leaves both memories. -/
theorem mem_readLine (s : State) (t g n a : Nat) :
    (s.readLine t g n a).mm.mem = s.mm.mem ∧ (s.readLine t g n a).mm.hostMem = s.mm.hostMem := by
  unfold State.readLine; split
  · exact ⟨rfl, rfl⟩
  · split <;> exact ⟨rfl, rfl⟩

theorem memoryForm_readLine {s : State} (t g n a : Nat) (h : MemoryForm s) : MemoryForm (s.readLine t g n a) :=
  memoryForm_of_eq (mem_readLine s t g n a).1 (mem_readLine s t g n a).2 h

theorem memoryForm_noteRead {s : State} (a n : Nat) (h : MemoryForm s) : MemoryForm (s.noteRead a n) := memoryForm_readLine 0 n n a h

/-- Bytes that a newer write overtakes leave the cluster caches, and both memories as they are. -/
theorem mem_overtake (s : State) (a n : Nat) :
    (s.overtake a n).mm.mem = s.mm.mem ∧ (s.overtake a n).mm.hostMem = s.mm.hostMem := by
  unfold State.overtake; simp only; split <;> exact ⟨rfl, rfl⟩

theorem memoryForm_overtake {s : State} (a n : Nat) (h : MemoryForm s) : MemoryForm (s.overtake a n) :=
  memoryForm_of_eq (mem_overtake s a n).1 (mem_overtake s a n).2 h

theorem memoryForm_countLost {s : State} (n : Nat) (h : MemoryForm s) : MemoryForm (s.countLost n) :=
  memoryForm_of_mm (State.countLost_mm s n) h

theorem memoryForm_parcel {s : State} (p : Parcel) (h : MemoryForm s) : MemoryForm (s.parcel p) := memoryForm_of_mm rfl h

theorem memoryForm_noteCmp {s : State} (n : Nat) (c : Bool) (h : MemoryForm s) : MemoryForm (s.noteCmp n c) := by
  unfold State.noteCmp; split
  · exact memoryForm_of_eq rfl rfl h
  · exact h

theorem memoryForm_backInvalidate {s : State} (n : Nat) (h : MemoryForm s) : MemoryForm (s.backInvalidate n) :=
  memoryForm_of_mm (State.backInvalidate_mm s n) h

/-- Which lines are poisoned follows from the memories, DRAM and the loss registers alone. -/
theorem poisonedLine_congr {s t : State} (hm : t.mm = s.mm) (hd : t.dram = s.dram)
    (hr : ∀ i, t.reg (parState i) = s.reg (parState i)) (l : Nat) : t.poisonedLine l = s.poisonedLine l := by
  have hc (i c : Nat) : t.channelLost i c = s.channelLost i c := by simp only [State.channelLost, State.field, hr]
  have hu (lp : Bool) (n m : Nat) : t.unitLost lp n m = s.unitLost lp n m := by simp only [State.unitLost, hc]
  have hl (lp : Bool) (n : Nat) : t.stripeLosses lp n = s.stripeLosses lp n := by simp only [State.stripeLosses, hu]
  have hx (lp : Bool) (a : Nat) : t.unrecoverable lp a = s.unrecoverable lp a := by
    simp only [State.unrecoverable, hl, hu]
  simp only [State.poisonedLine, State.sectorLineLost, State.lineLost, hx, hm, hd]

/-- Counting discarded writes poisons no line and cures none. -/
theorem poisonedLine_countLost (s : State) (n l : Nat) : (s.countLost n).poisonedLine l = s.poisonedLine l := by
  refine poisonedLine_congr (State.countLost_mm s n) (State.countLost_dram s n) (fun i => ?_) l
  unfold State.countLost; split
  · rfl
  · exact State.reg_count_ne _ _ _ _ _ (by simp only [parState, parReg]; omega)

/-! ### Writes at the slices and at the host -/

/-- A write within one line: discarded when the line is poisoned or its block uncommitted. -/
theorem memoryForm_sliceBytes {s : State} (pa : Nat) (bs : List Byte) (h : MemoryForm s) : MemoryForm (sliceBytes s pa bs) := by
  unfold sliceBytes
  split
  · exact h
  · split
    · exact memoryForm_noteUncommitted _ h
    · have h1 := memoryForm_overtake pa bs.length h
      exact memoryForm_fireLine _ (memoryForm_markDirty _ ⟨memory_wf_cellsSet _ _ h1.1, h1.2⟩)

theorem memoryForm_sliceWriteLine {s : State} (pa : Nat) (bs : List Byte) (h : MemoryForm s) :
    MemoryForm (sliceWriteLine s pa bs) := memoryForm_sliceBytes _ _ (memoryForm_countLost _ h)

theorem memoryForm_sliceWrite {s : State} (pa : Nat) (bs : List Byte) (h : MemoryForm s) :
    MemoryForm (sliceWrite s pa bs) :=
  memoryForm_foldl (fun _ p hs => memoryForm_sliceWriteLine p.1 p.2 hs) _ h

theorem memoryForm_hostWrite {s : State} (a : Nat) (bs : List Byte) (h : MemoryForm s) : MemoryForm (hostWrite s a bs) :=
  have h1 := memoryForm_overtake (hostLoc + a) bs.length h
  have h2 : MemoryForm { s.overtake (hostLoc + a) bs.length with mm := { (s.overtake (hostLoc + a) bs.length).mm with
      hostMem := cellsSet (s.overtake (hostLoc + a) bs.length).mm.hostMem a bs } } :=
    ⟨h1.1, memory_wf_cellsSet _ _ h1.2⟩
  memoryForm_foldl (f := fun s (p : Nat × List Byte) => s.fireLine (p.1 / 128))
    (fun _ p hs => memoryForm_fireLine (p.1 / 128) hs) _ h2

theorem memoryForm_pointBytes {s : State} (l : Nat) (bs : List Byte) (h : MemoryForm s) : MemoryForm (pointBytes s l bs) := by
  unfold pointBytes; split
  · exact memoryForm_sliceBytes _ _ h
  · exact memoryForm_hostWrite _ _ h

theorem memoryForm_pointWrite {s : State} (l : Nat) (bs : List Byte) (h : MemoryForm s) :
    MemoryForm (pointWrite s l bs) := by
  unfold pointWrite; split
  · exact memoryForm_sliceWrite _ _ h
  · exact memoryForm_hostWrite _ _ h

/-- What a write within one line does to device memory: it lands where its line can be written, and is discarded else. -/
theorem cells_sliceBytes (s : State) (pa : Nat) (bs : List Byte) (hp : s.poisonedLine (pa / 128) = false)
    (hc : s.uncommittedAt pa = false) : (sliceBytes s pa bs).mm.mem = cellsSet s.mm.mem pa bs := by
  unfold sliceBytes
  simp only [hp, hc, Bool.false_eq_true, if_false]
  unfold State.markDirty
  split <;> exact congrArg (fun m => cellsSet m pa bs) (mem_overtake s pa bs.length).1

theorem cells_sliceBytes_discarded (s : State) (pa : Nat) (bs : List Byte)
    (h : s.poisonedLine (pa / 128) = true ∨ s.uncommittedAt pa = true) : (sliceBytes s pa bs).mm.mem = s.mm.mem := by
  unfold sliceBytes
  split
  · rfl
  · rename_i hp
    rw [if_pos (h.resolve_left (by simpa using hp))]
    rfl

theorem hostMem_sliceBytes (s : State) (pa : Nat) (bs : List Byte) : (sliceBytes s pa bs).mm.hostMem = s.mm.hostMem := by
  unfold sliceBytes
  split
  · rfl
  · split
    · rfl
    · simp only [State.markDirty]
      split <;> exact (mem_overtake s pa bs.length).2

/-- A write to a line that is not poisoned counts nothing. -/
theorem sliceWriteLine_clean (s : State) (pa : Nat) (bs : List Byte) (hp : s.poisonedLine (pa / 128) = false) :
    sliceWriteLine s pa bs = sliceBytes s pa bs := by
  simp [sliceWriteLine, hp, State.countLost]

/-- The bytes of a line that can be written read back at the slice, and every other byte reads as before. -/
theorem cells_sliceWriteLine (s : State) (pa : Nat) (bs : List Byte) (hp : s.poisonedLine (pa / 128) = false)
    (hc : s.uncommittedAt pa = false) : (sliceWriteLine s pa bs).mm.mem = cellsSet s.mm.mem pa bs := by
  rw [sliceWriteLine_clean s pa bs hp, cells_sliceBytes s pa bs hp hc]

/-- A write that a poisoned line or an uncommitted block discards leaves every byte. -/
theorem cells_sliceWriteLine_discarded (s : State) (pa : Nat) (bs : List Byte)
    (h : s.poisonedLine (pa / 128) = true ∨ s.uncommittedAt pa = true) :
    (sliceWriteLine s pa bs).mm.mem = s.mm.mem := by
  by_cases hp : s.poisonedLine (pa / 128) = true
  · have hq : (s.countLost 1).poisonedLine (pa / 128) = true := by rw [poisonedLine_countLost]; exact hp
    simp [sliceWriteLine, hp, sliceBytes, hq]
  · rw [Bool.not_eq_true] at hp
    rw [sliceWriteLine_clean s pa bs hp, cells_sliceBytes_discarded s pa bs (Or.inr (h.resolve_left (by simp [hp])))]

/-- A byte outside the bytes of a line write reads as before, whether or not the write lands. -/
theorem cellGet_sliceWriteLine_outside (s : State) (pa n : Nat) (bs : List Byte) (h : n < pa ∨ pa + bs.length ≤ n) :
    cellGet (sliceWriteLine s pa bs).mm.mem n = cellGet s.mm.mem n := by
  by_cases hd : s.poisonedLine (pa / 128) = true ∨ s.uncommittedAt pa = true
  · rw [cells_sliceWriteLine_discarded s pa bs hd]
  · simp only [not_or, Bool.not_eq_true] at hd
    rw [cells_sliceWriteLine s pa bs hd.1 hd.2, cellGet_cellsSet_outside _ _ _ _ h]

/-- A write at the slices leaves host memory. -/
theorem hostMem_sliceWriteLine (s : State) (pa : Nat) (bs : List Byte) :
    (sliceWriteLine s pa bs).mm.hostMem = s.mm.hostMem := by
  rw [sliceWriteLine, hostMem_sliceBytes, State.countLost_mm]

theorem hostMem_sliceWrite (s : State) (pa : Nat) (bs : List Byte) : (sliceWrite s pa bs).mm.hostMem = s.mm.hostMem := by
  unfold sliceWrite
  generalize splitLines (bs.length + 1) pa bs = ps
  induction ps generalizing s with
  | nil => rfl
  | cons p rest ih => rw [List.foldl_cons, ih, hostMem_sliceWriteLine]

/-- A write that stays within one line is one line write. -/
theorem sliceWrite_line (s : State) (pa : Nat) (bs : List Byte) (hl : pa % 128 + bs.length ≤ 128) (hb : bs ≠ []) :
    sliceWrite s pa bs = sliceWriteLine s pa bs := by
  have hn : bs.length ≤ 128 - pa % 128 := by omega
  cases bs with
  | nil => exact absurd rfl hb
  | cons b rest =>
    simp only [sliceWrite, List.length_cons, splitLines]
    rw [List.take_of_length_le (by simpa using hn), List.drop_of_length_le (by simpa using hn)]
    cases rest <;> rfl

/-! ### Caches above the slices -/

theorem memoryForm_dropL1 {s : State} (c l : Nat) (h : MemoryForm s) : MemoryForm (s.dropL1 c l) := memoryForm_of_eq rfl rfl h

theorem memoryForm_dropClu {s : State} (c l : Nat) (h : MemoryForm s) : MemoryForm (s.dropClu c l) := memoryForm_of_eq rfl rfl h

theorem memoryForm_putDirty {s : State} (c l : Nat) (b : Byte) (a p : Bool) (h : MemoryForm s) :
    MemoryForm (s.putDirty c l b a p) := memoryForm_of_eq rfl rfl h

theorem memoryForm_drainByte {s : State} (b : WcByte) (h : MemoryForm s) : MemoryForm (drainByte s b) := by
  have h1 := memoryForm_dropClu (coreCluster b.core) b.loc (memoryForm_dropL1 b.core b.loc h)
  unfold drainByte
  simp only
  split
  · exact memoryForm_fireHostLine _ (memoryForm_putDirty _ _ _ _ _ h1)
  · apply memoryForm_pointBytes
    apply memoryForm_noteCmp
    split
    · exact memoryForm_putDirty _ _ _ _ _ h1
    · exact h1

theorem memoryForm_drainStep {s : State} (b : WcByte) (h : MemoryForm s) : MemoryForm (drainStep s b) := by
  unfold drainStep; split
  · exact memoryForm_backInvalidate _ (memoryForm_of_eq rfl rfl h)
  · exact memoryForm_drainByte b h

theorem memoryForm_writeParcels {s : State} (bs : List WcByte) (h : MemoryForm s) : MemoryForm (writeParcels s bs) :=
  memoryForm_foldl (fun _ _ hs => memoryForm_parcel _ hs) _ h

theorem memoryForm_drainWhere {s : State} (c : Nat) (p : WcByte → Bool) (h : MemoryForm s) :
    MemoryForm (drainWhere s c p) :=
  memoryForm_writeParcels _ (memoryForm_countLost _
    (memoryForm_foldl (fun _ b hs => memoryForm_drainStep b hs) _ (memoryForm_of_eq rfl rfl h)))

/-- A core's write-combining buffer drains with the form kept. -/
theorem memoryForm_drainCore {s : State} (c : Nat) (h : MemoryForm s) : MemoryForm (drainCore s c) :=
  memoryForm_drainWhere c _ h

theorem memoryForm_writeBackByte {s : State} (k : Nat) (b : Byte) (h : MemoryForm s) : MemoryForm (writeBackByte s k b) :=
  memoryForm_pointBytes _ _ (memoryForm_of_eq rfl rfl (memoryForm_noteCmp _ _ h))

theorem memoryForm_writeBackWhere {s : State} (c : Nat) (p : Nat → Bool) (h : MemoryForm s) :
    MemoryForm (writeBackWhere s c p) := by
  unfold writeBackWhere
  refine memoryForm_foldl ?_ _ (memoryForm_foldl ?_ _ (memoryForm_countLost _ h))
  · exact fun _ _ hs => memoryForm_parcel _ hs
  · exact fun _ e hs => memoryForm_writeBackByte e.1 e.2 hs

theorem memoryForm_writeBackCluster {s : State} (c : Nat) (h : MemoryForm s) : MemoryForm (writeBackCluster s c) :=
  memoryForm_writeBackWhere c _ (memoryForm_foldl (fun _ _ hs => memoryForm_backInvalidate _ hs) _ h)

theorem memoryForm_releaseAt {s : State} (c n : Nat) (h : MemoryForm s) : MemoryForm (releaseAt s c n) := by
  unfold releaseAt; split
  · exact h
  · split
    · exact memoryForm_drainCore c h
    · exact memoryForm_writeBackCluster _ (memoryForm_drainCore c h)

theorem memoryForm_acquireAt {s : State} (c n : Nat) (h : MemoryForm s) : MemoryForm (acquireAt s c n) := by
  unfold acquireAt; split
  · exact h
  · split
    · exact memoryForm_of_eq rfl rfl h
    · exact memoryForm_of_eq rfl rfl h

theorem memoryForm_acquired {s : State} (a : Bool) (n : Nat) (h : MemoryForm s) : MemoryForm (s.acquired a n) := by
  unfold State.acquired; split
  · exact memoryForm_acquireAt _ n h
  · exact h

theorem memoryForm_giveFor {s : State} (j : JobId) (g : Option (BitVec 3)) (h : MemoryForm s) :
    MemoryForm (s.giveFor j g) := by
  cases g
  · exact h
  · exact memoryForm_of_mm (State.modJob_mm s j _) h

/-- An armed store that is performed keeps the form. -/
theorem memoryForm_performed {s : State} (n : Nat) (g : Option (BitVec 3)) (h : MemoryForm s) :
    MemoryForm (s.performed n g) := by
  unfold State.performed
  split
  · exact h
  · have h1 := memoryForm_drainCore s.core h
    simp only
    split
    · exact memoryForm_of_mm rfl h1
    · split
      · exact h1
      · exact memoryForm_giveFor _ _ h1

theorem mem_loadByte (s : State) (c n l : Nat) :
    (loadByte s c n l).2.mm.mem = s.mm.mem ∧ (loadByte s c n l).2.mm.hostMem = s.mm.hostMem := by
  unfold loadByte
  simp only
  split
  · exact ⟨rfl, rfl⟩
  · split <;> exact ⟨rfl, rfl⟩

/-- A load through the caches leaves both memories. -/
theorem mem_loadBytes (n : Nat) (s : State) (c x l : Nat) :
    (loadBytes s c x l n).2.mm.mem = s.mm.mem ∧ (loadBytes s c x l n).2.mm.hostMem = s.mm.hostMem := by
  induction n generalizing s l with
  | zero => exact ⟨rfl, rfl⟩
  | succ n ih =>
    have h1 := ih (loadByte s c x l).2 (l + 1)
    have h2 := mem_loadByte s c x l
    exact ⟨h1.1.trans h2.1, h1.2.trans h2.2⟩

theorem memoryForm_loadBytes {s : State} (c x l n : Nat) (h : MemoryForm s) : MemoryForm (loadBytes s c x l n).2 :=
  memoryForm_of_eq (mem_loadBytes n s c x l).1 (mem_loadBytes n s c x l).2 h

theorem memoryForm_bufferStore {s : State} (c : Nat) (id : StreamId) (n l : Nat) (m : Bool) (k : Nat) (bs : List Byte)
    (h : MemoryForm s) : MemoryForm (bufferStore s c id n l m k bs) := memoryForm_of_eq rfl rfl h

theorem memoryForm_poolWrite {s : State} (j : JobId) (n : Nat) (bs : List Byte) (h : MemoryForm s) :
    MemoryForm (s.poolWrite j n bs) := memoryForm_of_mm (State.modJob_mm s j _) h

theorem memoryForm_waitFor {s : State} (w : Wait) (h : MemoryForm s) : MemoryForm (s.waitFor w) := memoryForm_of_mm rfl h

theorem memoryForm_stall {s : State} (h : MemoryForm s) : MemoryForm s.stall := memoryForm_of_mm (State.stall_mm s) h

theorem memoryForm_advance {s : State} (h : MemoryForm s) : MemoryForm s.advance := memoryForm_of_mm rfl h

theorem memoryForm_goto {s : State} (a : Word) (h : MemoryForm s) : MemoryForm (s.goto a) := memoryForm_of_mm rfl h

theorem memoryForm_setS {s : State} (d : SReg) (v : Word) (h : MemoryForm s) : MemoryForm (s.setS d v) :=
  memoryForm_of_mm rfl h

theorem memoryForm_setReg {s : State} (o : Nat) (v : BitVec 64) (h : MemoryForm s) : MemoryForm (s.setReg o v) :=
  memoryForm_of_mm rfl h

/-! ### The other writers: the management fault area, reconstruction, decommitted blocks -/

theorem memoryForm_park {s : State} (d k : Nat) (h : MemoryForm s) : MemoryForm (s.park d k) :=
  memoryForm_of_mm rfl h

/-- Bytes stored straight to a line, with the bookkeeping of a write. -/
theorem memoryForm_stored {s : State} (a n : Nat) (bs : List Byte) (h : MemoryForm s) :
    MemoryForm (({ s with mm := { s.mm with mem := cellsSet s.mm.mem a bs } }.markDirty n).fireLine n) :=
  memoryForm_fireLine _ (memoryForm_markDirty _ ⟨memory_wf_cellsSet _ _ h.1, h.2⟩)

theorem memoryForm_postLater {s : State} (p : PendingRecord) (h : MemoryForm s) : MemoryForm (s.postLater p) :=
  memoryForm_of_mm rfl h

/-- A parked cause leaves both memories: its record is written when it is posted. -/
theorem mm_takePark (s : State) (f : FaultInfo) (d k : Nat) : (takePark s f d k).mm = s.mm := by
  unfold takePark
  simp only
  rw [State.postLater_mm]
  split <;> rfl

theorem mm_snapTrigger (s : State) (n : Nat) : (snapTrigger s n).mm = s.mm := by
  unfold snapTrigger
  simp only
  repeat (first | rfl | split)

/-- Taking an exception keeps the form of both memories. -/
theorem memoryForm_takeFault {s : State} (f : FaultInfo) (h : MemoryForm s) : MemoryForm (takeFault s f) := by
  have h' : MemoryForm (if s.field (snpReg 0x010) f.cause f.cause = 1 then snapTrigger s 2 else s) := by
    split
    · exact memoryForm_of_mm (mm_snapTrigger s 2) h
    · exact h
  unfold takeFault
  generalize (if s.field (snpReg 0x010) f.cause f.cause = 1 then snapTrigger s 2 else s) = x at h' ⊢
  simp only
  split
  · exact memoryForm_of_mm (mm_takePark _ _ _ _) h'
  · exact memoryForm_postLater _ (memoryForm_of_mm rfl h')

theorem memoryForm_trap {s t : State} (f : FaultInfo) (h : MemoryForm s) (e : trap s f = .next t) : MemoryForm t := by
  cases e; exact memoryForm_takeFault f h

theorem memoryForm_takeReplyFault {s : State} (f : FaultInfo) (h : MemoryForm s) : MemoryForm (takeReplyFault s f) := by
  unfold takeReplyFault
  simp only
  split
  · exact memoryForm_takeFault f h
  · refine memoryForm_of_mm (mm_takePark _ _ _ _) ?_
    split
    · exact memoryForm_of_mm (mm_snapTrigger _ 2) (memoryForm_of_mm rfl h)
    · exact memoryForm_of_mm rfl h

theorem mm_noteFix (s : State) (lp : Bool) (n : Nat) : (noteFix s lp n).mm = s.mm := by
  rw [noteFix, State.captureStripe, State.setReg_mm, State.raise_mm, State.count_mm]

theorem mm_setData (s : State) (lp : Bool) (m : List Host.Cell) : (s.setData lp m).mm = s.mm := by
  cases lp <;> rfl

theorem memoryForm_installLine {s : State} (l : StripeLine) (m : Nat) (bs : List Byte) (h : MemoryForm s) :
    MemoryForm (installLine s l m bs) := by
  unfold installLine
  simp only
  generalize hn : (s.dram.deltas.any fun d => d.is l m && !d.applied) = newer
  have h1 : MemoryForm (if newer then s else s.setData l.lpddr (cellsSet (s.dataCells l.lpddr) (dataAddr l m) bs)) := by
    split
    · exact h
    · exact memoryForm_of_mm (mm_setData s _ _) h
  generalize ite (newer = true) s _ = s1 at h1 ⊢
  have h2 : MemoryForm (if newer || l.lpddr || s1.mm.dirty.contains (dataAddr l m / 128) then s1
      else { s1 with mm := { s1.mm with mem := cellsSet s1.mm.mem (dataAddr l m) bs } }) := by
    split
    · exact h1
    · exact ⟨memory_wf_cellsSet _ _ h1.1, h1.2⟩
  generalize ite ((newer || l.lpddr || s1.mm.dirty.contains (dataAddr l m / 128)) = true) _ _ = s2 at h2 ⊢
  split
  · exact memoryForm_of_mm (mm_noteFix _ _ _) h2
  · exact memoryForm_of_mm rfl h2

end Sys2Proof.Machine
end

