-- ==== Sys2Proof/Laws/Faults.lean ====
section
/-!
SUPPORT. What taking an exception does (R144, R170, R211, R213, R435), case by case of where the stream runs and of what the
cause asks for.
-/

set_option Elab.async false

namespace Sys2Proof.Machine

/-- A cause of a stream that no trigger is selected for leaves the snapshot alone, and ends the job or parks the fragment. -/
theorem takeFault_untriggered (s : State) (f : FaultInfo) (h : s.field (snpReg 0x010) f.cause f.cause ≠ 1)
    (hj : InJob s) : takeFault s f =
      (if dispOf f.cause = 2 then
        (s.setJob fun j => { j with hardStop := true }).postLater
          ⟨s.myJob.id.part, faultRecord s f 2, .nothing, some s.myJob.id, none⟩
       else takePark s f (dispOf f.cause) (dispOf f.cause)) := by
  unfold takeFault
  rw [if_neg h]
  by_cases hd : dispOf f.cause = 2 <;> simp [hd, show s.isMgmt = false from hj]

/-- A cause that parks a running fragment stops it at its instruction, or after it, and posts a record (R211, R170). -/
theorem takeFault_parks (s : State) (f : FaultInfo) (h : s.field (snpReg 0x010) f.cause f.cause ≠ 1) (hj : InJob s)
    (hp : s.me.frag.parked = none) (hd : dispOf f.cause ≠ 2) : takeFault s f =
      (s.park (dispOf f.cause) f.kind).postLater
        ⟨s.myJob.id.part, faultRecord s f (dispOf f.cause), s.parkedMe, none, none⟩ := by
  rw [takeFault_untriggered s f h hj, if_neg hd]
  simp [takePark, hp, show s.isMgmt = false from hj]

/-- A cause that ends the job stops every stream of it and posts a record (R211, R170). -/
theorem takeFault_ends (s : State) (f : FaultInfo) (h : s.field (snpReg 0x010) f.cause f.cause ≠ 1) (hj : InJob s)
    (hd : dispOf f.cause = 2) : takeFault s f =
      (s.setJob fun j => { j with hardStop := true }).postLater
        ⟨s.myJob.id.part, faultRecord s f 2, .nothing, some s.myJob.id, none⟩ := by
  rw [takeFault_untriggered s f h hj, if_pos hd]

/-- On a management core every cause parks the stream (R435). -/
theorem takeFault_mgmt (s : State) (f : FaultInfo) (h : s.field (snpReg 0x010) f.cause f.cause ≠ 1)
    (hm : s.isMgmt = true) : takeFault s f = takePark s f (dispOf f.cause) (dispOf f.cause) := by
  unfold takeFault
  rw [if_neg h]
  simp [hm]

/-- The scalar registers and the program counter of a parked fragment stay for its return (R211). -/
theorem takeFault_parks_keeps (s : State) (f : FaultInfo) (h : s.field (snpReg 0x010) f.cause f.cause ≠ 1) (hj : InJob s)
    (hp : s.me.frag.parked = none) (hd : dispOf f.cause ≠ 2) :
    (takeFault s f).pc = s.pc ∧ (takeFault s f).me.sregs = s.me.sregs ∧ (takeFault s f).me.vregs = s.me.vregs ∧
      (takeFault s f).me.frag.parked = some (s.newPark (dispOf f.cause) f.kind) ∧ (takeFault s f).mm = s.mm := by
  rw [takeFault_parks s f h hj hp hd]; exact ⟨rfl, rfl, rfl, rfl, rfl⟩

/-- The three dispositions (R211): replay, next, and the end of the job. -/
theorem dispOf_cases (c : Nat) : dispOf c = 0 ∨ dispOf c = 1 ∨ dispOf c = 2 := by
  unfold dispOf
  repeat' split
  all_goals simp

/-! ### The return (R313) -/

/-- A fragment that is not parked is not returned to. -/
theorem liftPark_running (st : Stream) (n : Nat) (h : st.frag.parked = none) : liftPark st n = st := by
  simp [liftPark, h]

/-- The number of another park lifts nothing that the fragment goes on by. -/
theorem liftPark_other (st : Stream) (p : Park) (n : Nat) (h : st.frag.parked = some p) (hn : p.no ≠ n) :
    (liftPark st n).frag.parked = some p := by
  simp [liftPark, h, hn]

/-- The last park of disposition 0, or of a failed reply, returns to the point where the fragment was parked. -/
theorem liftPark_replay (st : Stream) (p : Park) (h : st.frag.parked = some p) (hb : st.frag.behind = []) (hd : p.disp ≠ 1) :
    liftPark st p.no = { st with frag := { st.frag with parked := none } } := by
  simp [liftPark, h, hb, hd]

/-- With disposition 1 the instruction counts as completed. -/
theorem liftPark_next (st : Stream) (p : Park) (h : st.frag.parked = some p) (hb : st.frag.behind = []) (hd : p.disp = 1) :
    liftPark st p.no = ({ st with frag := { st.frag with parked := none } } : Stream).finish := by
  simp [liftPark, h, hb, hd]

end Sys2Proof.Machine
end

