-- ==== Sys2Proof/Laws/Access.lean ====
section
/-!
SUPPORT. Translation and the access checks (R35, R36, R356): what they may change, and that they keep the form of both
memories.
-/

set_option Elab.async false

namespace Sys2Proof.Machine

/-! ### Translation -/

theorem memoryForm_orPte {s : State} (a b : Nat) (h : MemoryForm s) : MemoryForm (s.orPte a b) :=
  memoryForm_sliceWrite _ _ h

theorem memoryForm_tlbDrop {s : State} (c p x a : Nat) (h : MemoryForm s) : MemoryForm (s.tlbDrop c p x a) :=
  memoryForm_of_eq rfl rfl h

theorem memoryForm_tlbInstall {s : State} (c p x a : Nat) (l : Leaf) (h : MemoryForm s) :
    MemoryForm (s.tlbInstall c p x a l) := memoryForm_of_eq rfl rfl h

theorem memoryForm_cacheTable {s : State} (e : WalkEntry) (h : MemoryForm s) : MemoryForm (s.cacheTable e) :=
  memoryForm_of_eq rfl rfl h

theorem memoryForm_askLine {s : State} (a t n : Nat) (i : Bool) (h : MemoryForm s) : MemoryForm (s.askLine a t n i) :=
  memoryForm_of_mm (State.askLine_mm s a t n i) h

theorem memoryForm_readEntry {s : State} (d a : Nat) (h : MemoryForm s) : MemoryForm (s.readEntry d a) :=
  memoryForm_parcel _ (memoryForm_noteRead a 1 h)

/-- The reads of the entries that a walk passed and ended at (R47). -/
theorem memoryForm_readEntries {s : State} (d a : Nat) (passed : List WalkEntry) (h : MemoryForm s) :
    MemoryForm (passed.foldr (fun x s => s.readEntry d x.at_) (s.readEntry d a)) := by
  induction passed with
  | nil => exact memoryForm_readEntry d a h
  | cons x rest ih => exact memoryForm_readEntry d x.at_ ih

/-- A walk leaves both memories: the walk caches change, and what the slices note of the entries read (R35 row 2). -/
theorem memoryForm_walked {s : State} (d : Nat) (r : WalkEnd) (h : MemoryForm s) : MemoryForm (s.walked d r) := by
  cases r with
  | leaf l passed =>
    show MemoryForm (passed.foldr (fun x s => (s.cacheTable x).readEntry d x.at_) (s.readEntry d l.at_))
    induction passed with
    | nil => exact memoryForm_readEntry d _ h
    | cons x rest ih => exact memoryForm_readEntry d _ (memoryForm_cacheTable x ih)
  | bad a passed => exact memoryForm_readEntries d a passed h
  | lost a passed => exact memoryForm_readEntries d a passed h
  | held a => exact memoryForm_askLine a 0 1 false h

theorem memoryForm_dropAnswers {s : State} (w : Nat) (h : MemoryForm s) : MemoryForm (s.dropAnswers w) :=
  memoryForm_of_eq rfl rfl h

theorem memoryForm_startMiss {s : State} (m : Miss) (h : MemoryForm s) : MemoryForm (s.startMiss m) :=
  memoryForm_of_eq rfl rfl h

theorem memoryForm_setPte {s : State} (d a b : Nat) (h : MemoryForm s) : MemoryForm (s.setPte d a b) :=
  memoryForm_parcel _ (memoryForm_orPte a b h)

theorem memoryForm_answerLeaf {s : State} (w p x a : Nat) (l : Leaf) (h : MemoryForm s) :
    MemoryForm (s.answerLeaf w p x a l) := memoryForm_of_eq rfl rfl h

theorem memoryForm_keepLeaf {s : State} (w p x a : Nat) (l : Leaf) (h : MemoryForm s) : MemoryForm (s.keepLeaf w p x a l) := by
  unfold State.keepLeaf; split
  · exact memoryForm_tlbInstall _ _ _ _ _ h
  · exact memoryForm_answerLeaf _ _ _ _ _ h

theorem memoryForm_dropHeld {s : State} (w p x a : Nat) (h : MemoryForm s) : MemoryForm (s.dropHeld w p x a) :=
  memoryForm_dropAnswers _ (memoryForm_tlbDrop _ _ _ _ h)

/-- Installing a leaf writes at most its A bit (R36). -/
theorem memoryForm_installLeaf {s : State} (w p x : Nat) (u : Bool) (a n : Nat) (k : AccessKind) (l : Leaf)
    (h : MemoryForm s) : MemoryForm (installLeaf s w p x u a n k l).2 := by
  unfold installLeaf
  split
  · split
    · exact memoryForm_backInvalidate _ h
    · refine memoryForm_keepLeaf _ _ _ _ _ ?_
      split
      · exact h
      · exact memoryForm_setPte _ _ _ h
  · exact h

theorem memoryForm_takeLeaf {s : State} (w p x : Nat) (u : Bool) (a n : Nat) (k : AccessKind) (l : Leaf)
    (h : MemoryForm s) : MemoryForm (takeLeaf s w p x u a n k l).2 := by
  unfold takeLeaf
  have hi := memoryForm_installLeaf w p x u a n k l h
  split <;> rename_i e <;> rw [e] at hi
  · exact hi
  · exact hi
  · exact memoryForm_dropAnswers _ hi

/-- A miss starts or joins a walk, or takes its answer (R38, R39). -/
theorem memoryForm_missed {s : State} (w p x : Nat) (u : Bool) (a n : Nat) (k : AccessKind) (h : MemoryForm s) :
    MemoryForm (missed s w p x u a n k).2 := by
  unfold missed
  split
  · exact memoryForm_startMiss _ h
  · split
    · exact h
    · have hw := memoryForm_walked (walkDie w) (walkEnd s (walkDie w) p x a) h
      generalize walkEnd s (walkDie w) p x a = r at hw ⊢
      cases r with
      | held _ => exact hw
      | leaf l _ => exact memoryForm_takeLeaf _ _ _ _ _ _ _ _ (memoryForm_answerLeaf _ _ _ _ _ hw)
      | bad _ _ => exact memoryForm_dropAnswers _ hw
      | lost _ _ => exact memoryForm_dropAnswers _ hw
    · exact memoryForm_takeLeaf _ _ _ _ _ _ _ _ h

theorem memoryForm_dirtyUpdate {s : State} (c p x : Nat) (u : Bool) (a n : Nat) (k : AccessKind) (h : MemoryForm s) :
    MemoryForm (dirtyUpdate s c p x u a n k).2 := by
  unfold dirtyUpdate
  have hw := memoryForm_walked (walkDie c) (walkEnd s (walkDie c) p x a) h
  generalize walkEnd s (walkDie c) p x a = r at hw ⊢
  simp only
  cases r with
  | held _ => exact hw
  | bad _ _ => exact memoryForm_dropHeld _ _ _ _ hw
  | lost _ _ => exact memoryForm_dropHeld _ _ _ _ hw
  | leaf l passed =>
    simp only
    split
    · exact memoryForm_backInvalidate _ hw
    · split
      · exact memoryForm_dropHeld _ _ _ _ hw
      · refine memoryForm_keepLeaf _ _ _ _ _ (memoryForm_setPte _ _ _ ?_)
        split
        · exact hw
        · exact memoryForm_setPte _ _ _ hw

theorem memoryForm_thenDirty (c p x : Nat) (u : Bool) (a n : Nat) (k : AccessKind) (r : Xlat × State)
    (h : MemoryForm r.2) :
    MemoryForm (match r with
      | (.ok q, s) =>
        let dirty := match s.heldLeaf c p x a with
          | some l => pteD l.entry
          | none => true
        if accessWrites k && !dirty then dirtyUpdate s c p x u a n k else (.ok q, s)
      | r => r).2 := by
  obtain ⟨y, t⟩ := r
  cases y with
  | ok q =>
    simp only
    generalize (accessWrites k && !_) = b
    cases b
    · exact h
    · exact memoryForm_dirtyUpdate _ _ _ _ _ _ _ h
  | fault _ => exact h
  | migrating _ => exact h
  | walking => exact h

theorem memoryForm_translateCtx {s : State} (c p x : Nat) (u : Bool) (va : Word) (n : Nat) (k : AccessKind)
    (h : MemoryForm s) : MemoryForm (translateCtx s c p x u va n k).2 := by
  unfold translateCtx
  simp only
  split
  · exact h
  · apply memoryForm_thenDirty
    split
    · exact h
    · exact memoryForm_missed _ _ _ _ _ _ _ h

/-- Translation of an access keeps the form: it may set A and D in leaf entries and fill the TLBs and walk caches. -/
theorem memoryForm_translate {s : State} (va : Word) (n : Nat) (k : AccessKind) (h : MemoryForm s) :
    MemoryForm (s.translate va n k).2 := by
  unfold State.translate; split
  · exact h
  · exact memoryForm_translateCtx _ _ _ _ _ _ _ h

/-- A management core's access translates to itself (log entry 13). -/
theorem translate_mgmt (s : State) (va : Word) (n : Nat) (k : AccessKind) (h : s.isMgmt = true) :
    s.translate va n k = (translateMgmt va, s) := by
  simp [State.translate, h]

/-! ### The checks -/

theorem memoryForm_waitPage {s : State} (n : PageRef) (h : MemoryForm s) : MemoryForm (s.waitPage n) := by
  unfold State.waitPage; split
  · split
    · exact h
    · exact memoryForm_of_mm rfl h
  · exact memoryForm_of_mm rfl h

theorem memoryForm_waitPeer {s : State} (j : JobId) (h : MemoryForm s) : MemoryForm (s.waitPeer j) := by
  unfold State.waitPeer; split
  · split
    · exact h
    · exact memoryForm_of_mm rfl h
  · exact memoryForm_of_mm rfl h

/-- What the checks answer, whichever way they end, keeps the form. -/
def AnswerForm {α : Type} (r : Except Result (State × α)) : Prop :=
  match r with
  | .ok (s, _) => MemoryForm s
  | .error (.next s) => MemoryForm s
  | .error _ => True

theorem answerForm_trap {α : Type} {s : State} (f : FaultInfo) (h : MemoryForm s) :
    AnswerForm (.error (trap s f) : Except Result (State × α)) := memoryForm_takeFault f h

theorem answerForm_checkPlace {s : State} (q : Req) (a : Word) (h : MemoryForm s) : AnswerForm (checkPlace s q a) := by
  unfold checkPlace
  split
  · have ht := memoryForm_translate a q.size q.kind h
    split
    · rename_i e; rw [e] at ht; exact ht
    · rename_i e; rw [e] at ht; exact answerForm_trap _ ht
    · rename_i e; rw [e] at ht; exact memoryForm_waitPage _ ht
    · rename_i e; rw [e] at ht; exact memoryForm_stall ht
  · split
    · exact answerForm_trap _ h
    · exact h
  · split
    · exact answerForm_trap _ h
    · split
      · exact answerForm_trap _ h
      · exact h

theorem answerForm_checkPlaces {s : State} (q : Req) (lanes : List (Nat × Word)) (h : MemoryForm s) :
    AnswerForm (checkPlaces s q lanes) := by
  induction lanes generalizing s with
  | nil => exact h
  | cons l rest ih =>
    obtain ⟨l, a⟩ := l
    unfold checkPlaces
    have h1 := answerForm_checkPlace q a h
    split
    · rename_i r e
      rw [e] at h1
      cases r <;> exact h1
    · rename_i e
      rw [e] at h1
      have h2 := ih h1
      split
      · rename_i e2
        rw [e2] at h2
        exact h2
      · rename_i e2
        rw [e2] at h2
        exact h2

/-- The checks of R356 keep the form, whether the access passes, traps or waits. -/
theorem answerForm_checkAccess {s : State} (q : Req) (lanes : List (Nat × Word)) (h : MemoryForm s) :
    AnswerForm (checkAccess s q lanes) := by
  unfold checkAccess
  have hp := answerForm_checkPlaces q lanes h
  rcases q with ⟨sp, k, n, al, bus⟩
  have key : ∀ t ps, checkPlaces s ⟨sp, k, n, al, bus⟩ lanes = .ok (t, ps) → MemoryForm t := by
    intro t ps e; rw [e] at hp; exact hp
  cases sp <;> simp only <;> repeat' split
  all_goals first
    | exact h
    | exact answerForm_trap _ h
    | (rename_i e; rw [e] at hp; exact hp)
    | exact answerForm_trap _ (key _ _ ‹_›)
    | exact memoryForm_waitPeer _ (key _ _ ‹_›)
    | exact memoryForm_stall (key _ _ ‹_›)
    | exact key _ _ ‹_›

/-- An access with no active lane passes every check (R356, R362). -/
theorem checkAccess_none (s : State) (q : Req) : checkAccess s q [] = .ok (s, []) := by
  simp [checkAccess]

/-- The first misaligned lane raises ALIGNMENT before translation is consulted (R356 row 3). -/
theorem checkAccess_misaligned (s : State) (q : Req) (lanes : List (Nat × Word)) (x : Nat × Word) (hg : q.space = .global)
    (hx : lanes.find? (fun x => decide (x.2.toNat % q.align ≠ 0)) = some x) :
    checkAccess s q lanes = .error (trap s (accessFault q causeAlignment x.2)) := by
  have hne : lanes ≠ [] := by
    intro h; simp [h] at hx
  unfold checkAccess
  simp only [hg, List.isEmpty_iff, hne, if_false, hx]
  simp

end Sys2Proof.Machine
end

