-- ==== Sys2Proof/Laws/Completion.lean ====
section
/-!
SUPPORT. What the completion of an instruction changes in its stream (R202, R298, R299, R301): the loop counters, slots,
predicates and rotation, the fragments and regions, and the program counter; nothing else.
-/

set_option Elab.async false

namespace Sys2Proof.Machine

/-! ### Frame of the parts -/

@[simp] theorem Stream.setLc_id (st : Stream) (n : Nat) (v : Word) : (st.setLc n v).id = st.id := rfl

@[simp] theorem Stream.dropFrag_id (st : Stream) : st.dropFrag.id = st.id := by
  unfold Stream.dropFrag; split <;> rfl

theorem Stream.foldPred_id (xs : List Nat) (g : Nat → LaneMask) (k : Nat → Nat) (st : Stream) :
    (xs.foldl (fun (t : Stream) n => t.setPred (k n) (g n)) st).id = st.id := by
  induction xs generalizing st with
  | nil => rfl
  | cons x rest ih => rw [List.foldl_cons, ih]; unfold Stream.setPred; split <;> rfl

@[simp] theorem Stream.rotateStages_id (st : Stream) (m : Bool) : (st.rotateStages m).id = st.id := by
  show (Stream.setPred (List.foldl (fun (t : Stream) n => t.setPred (15 - n) (st.pred (14 - n))) _ _) 8 _).id = st.id
  have h := Stream.foldPred_id (List.range 7) (fun n => st.pred (14 - n)) (fun n => 15 - n) { st with rrb := st.rrb - 1#5 }
  unfold Stream.setPred at h ⊢
  rw [if_neg (by decide)]
  exact h

theorem arriveWith_id (n : Nat) (st : Stream) : (arriveWith n st).id = st.id := by
  induction n generalizing st with
  | zero => rfl
  | succ n ih =>
    unfold arriveWith
    split
    · rfl
    · split
      · split
        · rw [ih]
        · rw [Stream.dropFrag_id]
      · rfl

@[simp] theorem Stream.settle_id (st : Stream) : st.settle.id = st.id := by
  unfold Stream.settle; split
  · exact arriveWith_id 64 st
  · rfl

theorem evalLoops_id (slots kept : List LoopSlot) (st : Stream) : (evalLoops slots kept st).id = st.id := by
  induction slots generalizing kept st with
  | nil => rfl
  | cons l rest ih =>
    unfold evalLoops
    split
    · split
      · simp only; split
        · rw [ih]; rfl
        · rfl
      · simp only; (repeat' split) <;> first | rfl | (rw [ih]; rfl)
      · cases hv : st.isVector <;> simp only [Bool.false_eq_true, if_false, if_true] <;> split <;> simp [ih]
    · exact ih _ _

/-- An instruction's completion leaves this field of its stream. -/
@[simp] theorem Stream.goOn_id (st : Stream) : st.goOn.id = st.id := by
  unfold Stream.goOn; rw [Stream.settle_id, evalLoops_id]

@[simp] theorem Stream.finish_id (st : Stream) : st.finish.id = st.id := by
  unfold Stream.finish; split
  · rfl
  · exact Stream.goOn_id st

@[simp] theorem Stream.jump_id (st : Stream) (a : Word) : (st.jump a).id = st.id := by
  unfold Stream.jump; rw [Stream.settle_id]

@[simp] theorem Stream.setLc_engine (st : Stream) (n : Nat) (v : Word) : (st.setLc n v).engine = st.engine := rfl

@[simp] theorem Stream.dropFrag_engine (st : Stream) : st.dropFrag.engine = st.engine := by
  unfold Stream.dropFrag; split <;> rfl

theorem Stream.foldPred_engine (xs : List Nat) (g : Nat → LaneMask) (k : Nat → Nat) (st : Stream) :
    (xs.foldl (fun (t : Stream) n => t.setPred (k n) (g n)) st).engine = st.engine := by
  induction xs generalizing st with
  | nil => rfl
  | cons x rest ih => rw [List.foldl_cons, ih]; unfold Stream.setPred; split <;> rfl

@[simp] theorem Stream.rotateStages_engine (st : Stream) (m : Bool) : (st.rotateStages m).engine = st.engine := by
  show (Stream.setPred (List.foldl (fun (t : Stream) n => t.setPred (15 - n) (st.pred (14 - n))) _ _) 8 _).engine = st.engine
  have h := Stream.foldPred_engine (List.range 7) (fun n => st.pred (14 - n)) (fun n => 15 - n) { st with rrb := st.rrb - 1#5 }
  unfold Stream.setPred at h ⊢
  rw [if_neg (by decide)]
  exact h

theorem arriveWith_engine (n : Nat) (st : Stream) : (arriveWith n st).engine = st.engine := by
  induction n generalizing st with
  | zero => rfl
  | succ n ih =>
    unfold arriveWith
    split
    · rfl
    · split
      · split
        · rw [ih]
        · rw [Stream.dropFrag_engine]
      · rfl

@[simp] theorem Stream.settle_engine (st : Stream) : st.settle.engine = st.engine := by
  unfold Stream.settle; split
  · exact arriveWith_engine 64 st
  · rfl

theorem evalLoops_engine (slots kept : List LoopSlot) (st : Stream) : (evalLoops slots kept st).engine = st.engine := by
  induction slots generalizing kept st with
  | nil => rfl
  | cons l rest ih =>
    unfold evalLoops
    split
    · split
      · simp only; split
        · rw [ih]; rfl
        · rfl
      · simp only; (repeat' split) <;> first | rfl | (rw [ih]; rfl)
      · cases hv : st.isVector <;> simp only [Bool.false_eq_true, if_false, if_true] <;> split <;> simp [ih]
    · exact ih _ _

/-- An instruction's completion leaves this field of its stream. -/
@[simp] theorem Stream.goOn_engine (st : Stream) : st.goOn.engine = st.engine := by
  unfold Stream.goOn; rw [Stream.settle_engine, evalLoops_engine]

@[simp] theorem Stream.finish_engine (st : Stream) : st.finish.engine = st.engine := by
  unfold Stream.finish; split
  · rfl
  · exact Stream.goOn_engine st

@[simp] theorem Stream.jump_engine (st : Stream) (a : Word) : (st.jump a).engine = st.engine := by
  unfold Stream.jump; rw [Stream.settle_engine]

@[simp] theorem Stream.setLc_sregs (st : Stream) (n : Nat) (v : Word) : (st.setLc n v).sregs = st.sregs := rfl

@[simp] theorem Stream.dropFrag_sregs (st : Stream) : st.dropFrag.sregs = st.sregs := by
  unfold Stream.dropFrag; split <;> rfl

theorem Stream.foldPred_sregs (xs : List Nat) (g : Nat → LaneMask) (k : Nat → Nat) (st : Stream) :
    (xs.foldl (fun (t : Stream) n => t.setPred (k n) (g n)) st).sregs = st.sregs := by
  induction xs generalizing st with
  | nil => rfl
  | cons x rest ih => rw [List.foldl_cons, ih]; unfold Stream.setPred; split <;> rfl

@[simp] theorem Stream.rotateStages_sregs (st : Stream) (m : Bool) : (st.rotateStages m).sregs = st.sregs := by
  show (Stream.setPred (List.foldl (fun (t : Stream) n => t.setPred (15 - n) (st.pred (14 - n))) _ _) 8 _).sregs = st.sregs
  have h := Stream.foldPred_sregs (List.range 7) (fun n => st.pred (14 - n)) (fun n => 15 - n) { st with rrb := st.rrb - 1#5 }
  unfold Stream.setPred at h ⊢
  rw [if_neg (by decide)]
  exact h

theorem arriveWith_sregs (n : Nat) (st : Stream) : (arriveWith n st).sregs = st.sregs := by
  induction n generalizing st with
  | zero => rfl
  | succ n ih =>
    unfold arriveWith
    split
    · rfl
    · split
      · split
        · rw [ih]
        · rw [Stream.dropFrag_sregs]
      · rfl

@[simp] theorem Stream.settle_sregs (st : Stream) : st.settle.sregs = st.sregs := by
  unfold Stream.settle; split
  · exact arriveWith_sregs 64 st
  · rfl

theorem evalLoops_sregs (slots kept : List LoopSlot) (st : Stream) : (evalLoops slots kept st).sregs = st.sregs := by
  induction slots generalizing kept st with
  | nil => rfl
  | cons l rest ih =>
    unfold evalLoops
    split
    · split
      · simp only; split
        · rw [ih]; rfl
        · rfl
      · simp only; (repeat' split) <;> first | rfl | (rw [ih]; rfl)
      · cases hv : st.isVector <;> simp only [Bool.false_eq_true, if_false, if_true] <;> split <;> simp [ih]
    · exact ih _ _

/-- An instruction's completion leaves this field of its stream. -/
@[simp] theorem Stream.goOn_sregs (st : Stream) : st.goOn.sregs = st.sregs := by
  unfold Stream.goOn; rw [Stream.settle_sregs, evalLoops_sregs]

@[simp] theorem Stream.finish_sregs (st : Stream) : st.finish.sregs = st.sregs := by
  unfold Stream.finish; split
  · rfl
  · exact Stream.goOn_sregs st

@[simp] theorem Stream.jump_sregs (st : Stream) (a : Word) : (st.jump a).sregs = st.sregs := by
  unfold Stream.jump; rw [Stream.settle_sregs]

@[simp] theorem Stream.setLc_fpctl (st : Stream) (n : Nat) (v : Word) : (st.setLc n v).fpctl = st.fpctl := rfl

@[simp] theorem Stream.dropFrag_fpctl (st : Stream) : st.dropFrag.fpctl = st.fpctl := by
  unfold Stream.dropFrag; split <;> rfl

theorem Stream.foldPred_fpctl (xs : List Nat) (g : Nat → LaneMask) (k : Nat → Nat) (st : Stream) :
    (xs.foldl (fun (t : Stream) n => t.setPred (k n) (g n)) st).fpctl = st.fpctl := by
  induction xs generalizing st with
  | nil => rfl
  | cons x rest ih => rw [List.foldl_cons, ih]; unfold Stream.setPred; split <;> rfl

@[simp] theorem Stream.rotateStages_fpctl (st : Stream) (m : Bool) : (st.rotateStages m).fpctl = st.fpctl := by
  show (Stream.setPred (List.foldl (fun (t : Stream) n => t.setPred (15 - n) (st.pred (14 - n))) _ _) 8 _).fpctl = st.fpctl
  have h := Stream.foldPred_fpctl (List.range 7) (fun n => st.pred (14 - n)) (fun n => 15 - n) { st with rrb := st.rrb - 1#5 }
  unfold Stream.setPred at h ⊢
  rw [if_neg (by decide)]
  exact h

theorem arriveWith_fpctl (n : Nat) (st : Stream) : (arriveWith n st).fpctl = st.fpctl := by
  induction n generalizing st with
  | zero => rfl
  | succ n ih =>
    unfold arriveWith
    split
    · rfl
    · split
      · split
        · rw [ih]
        · rw [Stream.dropFrag_fpctl]
      · rfl

@[simp] theorem Stream.settle_fpctl (st : Stream) : st.settle.fpctl = st.fpctl := by
  unfold Stream.settle; split
  · exact arriveWith_fpctl 64 st
  · rfl

theorem evalLoops_fpctl (slots kept : List LoopSlot) (st : Stream) : (evalLoops slots kept st).fpctl = st.fpctl := by
  induction slots generalizing kept st with
  | nil => rfl
  | cons l rest ih =>
    unfold evalLoops
    split
    · split
      · simp only; split
        · rw [ih]; rfl
        · rfl
      · simp only; (repeat' split) <;> first | rfl | (rw [ih]; rfl)
      · cases hv : st.isVector <;> simp only [Bool.false_eq_true, if_false, if_true] <;> split <;> simp [ih]
    · exact ih _ _

/-- An instruction's completion leaves this field of its stream. -/
@[simp] theorem Stream.goOn_fpctl (st : Stream) : st.goOn.fpctl = st.fpctl := by
  unfold Stream.goOn; rw [Stream.settle_fpctl, evalLoops_fpctl]

@[simp] theorem Stream.finish_fpctl (st : Stream) : st.finish.fpctl = st.fpctl := by
  unfold Stream.finish; split
  · rfl
  · exact Stream.goOn_fpctl st

@[simp] theorem Stream.jump_fpctl (st : Stream) (a : Word) : (st.jump a).fpctl = st.fpctl := by
  unfold Stream.jump; rw [Stream.settle_fpctl]

@[simp] theorem Stream.setLc_arm (st : Stream) (n : Nat) (v : Word) : (st.setLc n v).arm = st.arm := rfl

@[simp] theorem Stream.dropFrag_arm (st : Stream) : st.dropFrag.arm = st.arm := by
  unfold Stream.dropFrag; split <;> rfl

theorem Stream.foldPred_arm (xs : List Nat) (g : Nat → LaneMask) (k : Nat → Nat) (st : Stream) :
    (xs.foldl (fun (t : Stream) n => t.setPred (k n) (g n)) st).arm = st.arm := by
  induction xs generalizing st with
  | nil => rfl
  | cons x rest ih => rw [List.foldl_cons, ih]; unfold Stream.setPred; split <;> rfl

@[simp] theorem Stream.rotateStages_arm (st : Stream) (m : Bool) : (st.rotateStages m).arm = st.arm := by
  show (Stream.setPred (List.foldl (fun (t : Stream) n => t.setPred (15 - n) (st.pred (14 - n))) _ _) 8 _).arm = st.arm
  have h := Stream.foldPred_arm (List.range 7) (fun n => st.pred (14 - n)) (fun n => 15 - n) { st with rrb := st.rrb - 1#5 }
  unfold Stream.setPred at h ⊢
  rw [if_neg (by decide)]
  exact h

theorem arriveWith_arm (n : Nat) (st : Stream) : (arriveWith n st).arm = st.arm := by
  induction n generalizing st with
  | zero => rfl
  | succ n ih =>
    unfold arriveWith
    split
    · rfl
    · split
      · split
        · rw [ih]
        · rw [Stream.dropFrag_arm]
      · rfl

@[simp] theorem Stream.settle_arm (st : Stream) : st.settle.arm = st.arm := by
  unfold Stream.settle; split
  · exact arriveWith_arm 64 st
  · rfl

theorem evalLoops_arm (slots kept : List LoopSlot) (st : Stream) : (evalLoops slots kept st).arm = st.arm := by
  induction slots generalizing kept st with
  | nil => rfl
  | cons l rest ih =>
    unfold evalLoops
    split
    · split
      · simp only; split
        · rw [ih]; rfl
        · rfl
      · simp only; (repeat' split) <;> first | rfl | (rw [ih]; rfl)
      · cases hv : st.isVector <;> simp only [Bool.false_eq_true, if_false, if_true] <;> split <;> simp [ih]
    · exact ih _ _

/-- An instruction's completion leaves this field of its stream. -/
@[simp] theorem Stream.goOn_arm (st : Stream) : st.goOn.arm = st.arm := by
  unfold Stream.goOn; rw [Stream.settle_arm, evalLoops_arm]

@[simp] theorem Stream.finish_arm (st : Stream) : st.finish.arm = st.arm := by
  unfold Stream.finish; split
  · rfl
  · exact Stream.goOn_arm st

@[simp] theorem Stream.jump_arm (st : Stream) (a : Word) : (st.jump a).arm = st.arm := by
  unfold Stream.jump; rw [Stream.settle_arm]

@[simp] theorem Stream.setLc_watch (st : Stream) (n : Nat) (v : Word) : (st.setLc n v).watch = st.watch := rfl

@[simp] theorem Stream.dropFrag_watch (st : Stream) : st.dropFrag.watch = st.watch := by
  unfold Stream.dropFrag; split <;> rfl

theorem Stream.foldPred_watch (xs : List Nat) (g : Nat → LaneMask) (k : Nat → Nat) (st : Stream) :
    (xs.foldl (fun (t : Stream) n => t.setPred (k n) (g n)) st).watch = st.watch := by
  induction xs generalizing st with
  | nil => rfl
  | cons x rest ih => rw [List.foldl_cons, ih]; unfold Stream.setPred; split <;> rfl

@[simp] theorem Stream.rotateStages_watch (st : Stream) (m : Bool) : (st.rotateStages m).watch = st.watch := by
  show (Stream.setPred (List.foldl (fun (t : Stream) n => t.setPred (15 - n) (st.pred (14 - n))) _ _) 8 _).watch = st.watch
  have h := Stream.foldPred_watch (List.range 7) (fun n => st.pred (14 - n)) (fun n => 15 - n) { st with rrb := st.rrb - 1#5 }
  unfold Stream.setPred at h ⊢
  rw [if_neg (by decide)]
  exact h

theorem arriveWith_watch (n : Nat) (st : Stream) : (arriveWith n st).watch = st.watch := by
  induction n generalizing st with
  | zero => rfl
  | succ n ih =>
    unfold arriveWith
    split
    · rfl
    · split
      · split
        · rw [ih]
        · rw [Stream.dropFrag_watch]
      · rfl

@[simp] theorem Stream.settle_watch (st : Stream) : st.settle.watch = st.watch := by
  unfold Stream.settle; split
  · exact arriveWith_watch 64 st
  · rfl

theorem evalLoops_watch (slots kept : List LoopSlot) (st : Stream) : (evalLoops slots kept st).watch = st.watch := by
  induction slots generalizing kept st with
  | nil => rfl
  | cons l rest ih =>
    unfold evalLoops
    split
    · split
      · simp only; split
        · rw [ih]; rfl
        · rfl
      · simp only; (repeat' split) <;> first | rfl | (rw [ih]; rfl)
      · cases hv : st.isVector <;> simp only [Bool.false_eq_true, if_false, if_true] <;> split <;> simp [ih]
    · exact ih _ _

/-- An instruction's completion leaves this field of its stream. -/
@[simp] theorem Stream.goOn_watch (st : Stream) : st.goOn.watch = st.watch := by
  unfold Stream.goOn; rw [Stream.settle_watch, evalLoops_watch]

@[simp] theorem Stream.finish_watch (st : Stream) : st.finish.watch = st.watch := by
  unfold Stream.finish; split
  · rfl
  · exact Stream.goOn_watch st

@[simp] theorem Stream.jump_watch (st : Stream) (a : Word) : (st.jump a).watch = st.watch := by
  unfold Stream.jump; rw [Stream.settle_watch]

@[simp] theorem Stream.setLc_fired (st : Stream) (n : Nat) (v : Word) : (st.setLc n v).fired = st.fired := rfl

@[simp] theorem Stream.dropFrag_fired (st : Stream) : st.dropFrag.fired = st.fired := by
  unfold Stream.dropFrag; split <;> rfl

theorem Stream.foldPred_fired (xs : List Nat) (g : Nat → LaneMask) (k : Nat → Nat) (st : Stream) :
    (xs.foldl (fun (t : Stream) n => t.setPred (k n) (g n)) st).fired = st.fired := by
  induction xs generalizing st with
  | nil => rfl
  | cons x rest ih => rw [List.foldl_cons, ih]; unfold Stream.setPred; split <;> rfl

@[simp] theorem Stream.rotateStages_fired (st : Stream) (m : Bool) : (st.rotateStages m).fired = st.fired := by
  show (Stream.setPred (List.foldl (fun (t : Stream) n => t.setPred (15 - n) (st.pred (14 - n))) _ _) 8 _).fired = st.fired
  have h := Stream.foldPred_fired (List.range 7) (fun n => st.pred (14 - n)) (fun n => 15 - n) { st with rrb := st.rrb - 1#5 }
  unfold Stream.setPred at h ⊢
  rw [if_neg (by decide)]
  exact h

theorem arriveWith_fired (n : Nat) (st : Stream) : (arriveWith n st).fired = st.fired := by
  induction n generalizing st with
  | zero => rfl
  | succ n ih =>
    unfold arriveWith
    split
    · rfl
    · split
      · split
        · rw [ih]
        · rw [Stream.dropFrag_fired]
      · rfl

@[simp] theorem Stream.settle_fired (st : Stream) : st.settle.fired = st.fired := by
  unfold Stream.settle; split
  · exact arriveWith_fired 64 st
  · rfl

theorem evalLoops_fired (slots kept : List LoopSlot) (st : Stream) : (evalLoops slots kept st).fired = st.fired := by
  induction slots generalizing kept st with
  | nil => rfl
  | cons l rest ih =>
    unfold evalLoops
    split
    · split
      · simp only; split
        · rw [ih]; rfl
        · rfl
      · simp only; (repeat' split) <;> first | rfl | (rw [ih]; rfl)
      · cases hv : st.isVector <;> simp only [Bool.false_eq_true, if_false, if_true] <;> split <;> simp [ih]
    · exact ih _ _

/-- An instruction's completion leaves this field of its stream. -/
@[simp] theorem Stream.goOn_fired (st : Stream) : st.goOn.fired = st.fired := by
  unfold Stream.goOn; rw [Stream.settle_fired, evalLoops_fired]

@[simp] theorem Stream.finish_fired (st : Stream) : st.finish.fired = st.fired := by
  unfold Stream.finish; split
  · rfl
  · exact Stream.goOn_fired st

@[simp] theorem Stream.jump_fired (st : Stream) (a : Word) : (st.jump a).fired = st.fired := by
  unfold Stream.jump; rw [Stream.settle_fired]

@[simp] theorem Stream.setLc_dtbFrac (st : Stream) (n : Nat) (v : Word) : (st.setLc n v).dtbFrac = st.dtbFrac := rfl

@[simp] theorem Stream.dropFrag_dtbFrac (st : Stream) : st.dropFrag.dtbFrac = st.dtbFrac := by
  unfold Stream.dropFrag; split <;> rfl

theorem Stream.foldPred_dtbFrac (xs : List Nat) (g : Nat → LaneMask) (k : Nat → Nat) (st : Stream) :
    (xs.foldl (fun (t : Stream) n => t.setPred (k n) (g n)) st).dtbFrac = st.dtbFrac := by
  induction xs generalizing st with
  | nil => rfl
  | cons x rest ih => rw [List.foldl_cons, ih]; unfold Stream.setPred; split <;> rfl

@[simp] theorem Stream.rotateStages_dtbFrac (st : Stream) (m : Bool) : (st.rotateStages m).dtbFrac = st.dtbFrac := by
  show (Stream.setPred (List.foldl (fun (t : Stream) n => t.setPred (15 - n) (st.pred (14 - n))) _ _) 8 _).dtbFrac = st.dtbFrac
  have h := Stream.foldPred_dtbFrac (List.range 7) (fun n => st.pred (14 - n)) (fun n => 15 - n) { st with rrb := st.rrb - 1#5 }
  unfold Stream.setPred at h ⊢
  rw [if_neg (by decide)]
  exact h

theorem arriveWith_dtbFrac (n : Nat) (st : Stream) : (arriveWith n st).dtbFrac = st.dtbFrac := by
  induction n generalizing st with
  | zero => rfl
  | succ n ih =>
    unfold arriveWith
    split
    · rfl
    · split
      · split
        · rw [ih]
        · rw [Stream.dropFrag_dtbFrac]
      · rfl

@[simp] theorem Stream.settle_dtbFrac (st : Stream) : st.settle.dtbFrac = st.dtbFrac := by
  unfold Stream.settle; split
  · exact arriveWith_dtbFrac 64 st
  · rfl

theorem evalLoops_dtbFrac (slots kept : List LoopSlot) (st : Stream) : (evalLoops slots kept st).dtbFrac = st.dtbFrac := by
  induction slots generalizing kept st with
  | nil => rfl
  | cons l rest ih =>
    unfold evalLoops
    split
    · split
      · simp only; split
        · rw [ih]; rfl
        · rfl
      · simp only; (repeat' split) <;> first | rfl | (rw [ih]; rfl)
      · cases hv : st.isVector <;> simp only [Bool.false_eq_true, if_false, if_true] <;> split <;> simp [ih]
    · exact ih _ _

/-- An instruction's completion leaves this field of its stream. -/
@[simp] theorem Stream.goOn_dtbFrac (st : Stream) : st.goOn.dtbFrac = st.dtbFrac := by
  unfold Stream.goOn; rw [Stream.settle_dtbFrac, evalLoops_dtbFrac]

@[simp] theorem Stream.finish_dtbFrac (st : Stream) : st.finish.dtbFrac = st.dtbFrac := by
  unfold Stream.finish; split
  · rfl
  · exact Stream.goOn_dtbFrac st

@[simp] theorem Stream.jump_dtbFrac (st : Stream) (a : Word) : (st.jump a).dtbFrac = st.dtbFrac := by
  unfold Stream.jump; rw [Stream.settle_dtbFrac]

@[simp] theorem Stream.setLc_bracket (st : Stream) (n : Nat) (v : Word) : (st.setLc n v).bracket = st.bracket := rfl

@[simp] theorem Stream.dropFrag_bracket (st : Stream) : st.dropFrag.bracket = st.bracket := by
  unfold Stream.dropFrag; split <;> rfl

theorem Stream.foldPred_bracket (xs : List Nat) (g : Nat → LaneMask) (k : Nat → Nat) (st : Stream) :
    (xs.foldl (fun (t : Stream) n => t.setPred (k n) (g n)) st).bracket = st.bracket := by
  induction xs generalizing st with
  | nil => rfl
  | cons x rest ih => rw [List.foldl_cons, ih]; unfold Stream.setPred; split <;> rfl

@[simp] theorem Stream.rotateStages_bracket (st : Stream) (m : Bool) : (st.rotateStages m).bracket = st.bracket := by
  show (Stream.setPred (List.foldl (fun (t : Stream) n => t.setPred (15 - n) (st.pred (14 - n))) _ _) 8 _).bracket = st.bracket
  have h := Stream.foldPred_bracket (List.range 7) (fun n => st.pred (14 - n)) (fun n => 15 - n) { st with rrb := st.rrb - 1#5 }
  unfold Stream.setPred at h ⊢
  rw [if_neg (by decide)]
  exact h

theorem arriveWith_bracket (n : Nat) (st : Stream) : (arriveWith n st).bracket = st.bracket := by
  induction n generalizing st with
  | zero => rfl
  | succ n ih =>
    unfold arriveWith
    split
    · rfl
    · split
      · split
        · rw [ih]
        · rw [Stream.dropFrag_bracket]
      · rfl

@[simp] theorem Stream.settle_bracket (st : Stream) : st.settle.bracket = st.bracket := by
  unfold Stream.settle; split
  · exact arriveWith_bracket 64 st
  · rfl

theorem evalLoops_bracket (slots kept : List LoopSlot) (st : Stream) : (evalLoops slots kept st).bracket = st.bracket := by
  induction slots generalizing kept st with
  | nil => rfl
  | cons l rest ih =>
    unfold evalLoops
    split
    · split
      · simp only; split
        · rw [ih]; rfl
        · rfl
      · simp only; (repeat' split) <;> first | rfl | (rw [ih]; rfl)
      · cases hv : st.isVector <;> simp only [Bool.false_eq_true, if_false, if_true] <;> split <;> simp [ih]
    · exact ih _ _

/-- An instruction's completion leaves this field of its stream. -/
@[simp] theorem Stream.goOn_bracket (st : Stream) : st.goOn.bracket = st.bracket := by
  unfold Stream.goOn; rw [Stream.settle_bracket, evalLoops_bracket]

@[simp] theorem Stream.finish_bracket (st : Stream) : st.finish.bracket = st.bracket := by
  unfold Stream.finish; split
  · rfl
  · exact Stream.goOn_bracket st

@[simp] theorem Stream.jump_bracket (st : Stream) (a : Word) : (st.jump a).bracket = st.bracket := by
  unfold Stream.jump; rw [Stream.settle_bracket]

@[simp] theorem Stream.setLc_qstat (st : Stream) (n : Nat) (v : Word) : (st.setLc n v).qstat = st.qstat := rfl

@[simp] theorem Stream.dropFrag_qstat (st : Stream) : st.dropFrag.qstat = st.qstat := by
  unfold Stream.dropFrag; split <;> rfl

theorem Stream.foldPred_qstat (xs : List Nat) (g : Nat → LaneMask) (k : Nat → Nat) (st : Stream) :
    (xs.foldl (fun (t : Stream) n => t.setPred (k n) (g n)) st).qstat = st.qstat := by
  induction xs generalizing st with
  | nil => rfl
  | cons x rest ih => rw [List.foldl_cons, ih]; unfold Stream.setPred; split <;> rfl

@[simp] theorem Stream.rotateStages_qstat (st : Stream) (m : Bool) : (st.rotateStages m).qstat = st.qstat := by
  show (Stream.setPred (List.foldl (fun (t : Stream) n => t.setPred (15 - n) (st.pred (14 - n))) _ _) 8 _).qstat = st.qstat
  have h := Stream.foldPred_qstat (List.range 7) (fun n => st.pred (14 - n)) (fun n => 15 - n) { st with rrb := st.rrb - 1#5 }
  unfold Stream.setPred at h ⊢
  rw [if_neg (by decide)]
  exact h

theorem arriveWith_qstat (n : Nat) (st : Stream) : (arriveWith n st).qstat = st.qstat := by
  induction n generalizing st with
  | zero => rfl
  | succ n ih =>
    unfold arriveWith
    split
    · rfl
    · split
      · split
        · rw [ih]
        · rw [Stream.dropFrag_qstat]
      · rfl

@[simp] theorem Stream.settle_qstat (st : Stream) : st.settle.qstat = st.qstat := by
  unfold Stream.settle; split
  · exact arriveWith_qstat 64 st
  · rfl

theorem evalLoops_qstat (slots kept : List LoopSlot) (st : Stream) : (evalLoops slots kept st).qstat = st.qstat := by
  induction slots generalizing kept st with
  | nil => rfl
  | cons l rest ih =>
    unfold evalLoops
    split
    · split
      · simp only; split
        · rw [ih]; rfl
        · rfl
      · simp only; (repeat' split) <;> first | rfl | (rw [ih]; rfl)
      · cases hv : st.isVector <;> simp only [Bool.false_eq_true, if_false, if_true] <;> split <;> simp [ih]
    · exact ih _ _

/-- An instruction's completion leaves this field of its stream. -/
@[simp] theorem Stream.goOn_qstat (st : Stream) : st.goOn.qstat = st.qstat := by
  unfold Stream.goOn; rw [Stream.settle_qstat, evalLoops_qstat]

@[simp] theorem Stream.finish_qstat (st : Stream) : st.finish.qstat = st.qstat := by
  unfold Stream.finish; split
  · rfl
  · exact Stream.goOn_qstat st

@[simp] theorem Stream.jump_qstat (st : Stream) (a : Word) : (st.jump a).qstat = st.qstat := by
  unfold Stream.jump; rw [Stream.settle_qstat]

@[simp] theorem Stream.setLc_srgen (st : Stream) (n : Nat) (v : Word) : (st.setLc n v).srgen = st.srgen := rfl

@[simp] theorem Stream.dropFrag_srgen (st : Stream) : st.dropFrag.srgen = st.srgen := by
  unfold Stream.dropFrag; split <;> rfl

theorem Stream.foldPred_srgen (xs : List Nat) (g : Nat → LaneMask) (k : Nat → Nat) (st : Stream) :
    (xs.foldl (fun (t : Stream) n => t.setPred (k n) (g n)) st).srgen = st.srgen := by
  induction xs generalizing st with
  | nil => rfl
  | cons x rest ih => rw [List.foldl_cons, ih]; unfold Stream.setPred; split <;> rfl

@[simp] theorem Stream.rotateStages_srgen (st : Stream) (m : Bool) : (st.rotateStages m).srgen = st.srgen := by
  show (Stream.setPred (List.foldl (fun (t : Stream) n => t.setPred (15 - n) (st.pred (14 - n))) _ _) 8 _).srgen = st.srgen
  have h := Stream.foldPred_srgen (List.range 7) (fun n => st.pred (14 - n)) (fun n => 15 - n) { st with rrb := st.rrb - 1#5 }
  unfold Stream.setPred at h ⊢
  rw [if_neg (by decide)]
  exact h

theorem arriveWith_srgen (n : Nat) (st : Stream) : (arriveWith n st).srgen = st.srgen := by
  induction n generalizing st with
  | zero => rfl
  | succ n ih =>
    unfold arriveWith
    split
    · rfl
    · split
      · split
        · rw [ih]
        · rw [Stream.dropFrag_srgen]
      · rfl

@[simp] theorem Stream.settle_srgen (st : Stream) : st.settle.srgen = st.srgen := by
  unfold Stream.settle; split
  · exact arriveWith_srgen 64 st
  · rfl

theorem evalLoops_srgen (slots kept : List LoopSlot) (st : Stream) : (evalLoops slots kept st).srgen = st.srgen := by
  induction slots generalizing kept st with
  | nil => rfl
  | cons l rest ih =>
    unfold evalLoops
    split
    · split
      · simp only; split
        · rw [ih]; rfl
        · rfl
      · simp only; (repeat' split) <;> first | rfl | (rw [ih]; rfl)
      · cases hv : st.isVector <;> simp only [Bool.false_eq_true, if_false, if_true] <;> split <;> simp [ih]
    · exact ih _ _

/-- An instruction's completion leaves this field of its stream. -/
@[simp] theorem Stream.goOn_srgen (st : Stream) : st.goOn.srgen = st.srgen := by
  unfold Stream.goOn; rw [Stream.settle_srgen, evalLoops_srgen]

@[simp] theorem Stream.finish_srgen (st : Stream) : st.finish.srgen = st.srgen := by
  unfold Stream.finish; split
  · rfl
  · exact Stream.goOn_srgen st

@[simp] theorem Stream.jump_srgen (st : Stream) (a : Word) : (st.jump a).srgen = st.srgen := by
  unfold Stream.jump; rw [Stream.settle_srgen]

@[simp] theorem Stream.setLc_vregs (st : Stream) (n : Nat) (v : Word) : (st.setLc n v).vregs = st.vregs := rfl

@[simp] theorem Stream.dropFrag_vregs (st : Stream) : st.dropFrag.vregs = st.vregs := by
  unfold Stream.dropFrag; split <;> rfl

theorem Stream.foldPred_vregs (xs : List Nat) (g : Nat → LaneMask) (k : Nat → Nat) (st : Stream) :
    (xs.foldl (fun (t : Stream) n => t.setPred (k n) (g n)) st).vregs = st.vregs := by
  induction xs generalizing st with
  | nil => rfl
  | cons x rest ih => rw [List.foldl_cons, ih]; unfold Stream.setPred; split <;> rfl

@[simp] theorem Stream.rotateStages_vregs (st : Stream) (m : Bool) : (st.rotateStages m).vregs = st.vregs := by
  show (Stream.setPred (List.foldl (fun (t : Stream) n => t.setPred (15 - n) (st.pred (14 - n))) _ _) 8 _).vregs = st.vregs
  have h := Stream.foldPred_vregs (List.range 7) (fun n => st.pred (14 - n)) (fun n => 15 - n) { st with rrb := st.rrb - 1#5 }
  unfold Stream.setPred at h ⊢
  rw [if_neg (by decide)]
  exact h

theorem arriveWith_vregs (n : Nat) (st : Stream) : (arriveWith n st).vregs = st.vregs := by
  induction n generalizing st with
  | zero => rfl
  | succ n ih =>
    unfold arriveWith
    split
    · rfl
    · split
      · split
        · rw [ih]
        · rw [Stream.dropFrag_vregs]
      · rfl

@[simp] theorem Stream.settle_vregs (st : Stream) : st.settle.vregs = st.vregs := by
  unfold Stream.settle; split
  · exact arriveWith_vregs 64 st
  · rfl

theorem evalLoops_vregs (slots kept : List LoopSlot) (st : Stream) : (evalLoops slots kept st).vregs = st.vregs := by
  induction slots generalizing kept st with
  | nil => rfl
  | cons l rest ih =>
    unfold evalLoops
    split
    · split
      · simp only; split
        · rw [ih]; rfl
        · rfl
      · simp only; (repeat' split) <;> first | rfl | (rw [ih]; rfl)
      · cases hv : st.isVector <;> simp only [Bool.false_eq_true, if_false, if_true] <;> split <;> simp [ih]
    · exact ih _ _

/-- An instruction's completion leaves this field of its stream. -/
@[simp] theorem Stream.goOn_vregs (st : Stream) : st.goOn.vregs = st.vregs := by
  unfold Stream.goOn; rw [Stream.settle_vregs, evalLoops_vregs]

@[simp] theorem Stream.finish_vregs (st : Stream) : st.finish.vregs = st.vregs := by
  unfold Stream.finish; split
  · rfl
  · exact Stream.goOn_vregs st

@[simp] theorem Stream.jump_vregs (st : Stream) (a : Word) : (st.jump a).vregs = st.vregs := by
  unfold Stream.jump; rw [Stream.settle_vregs]

@[simp] theorem Stream.setLc_spilled (st : Stream) (n : Nat) (v : Word) : (st.setLc n v).spilled = st.spilled := rfl

@[simp] theorem Stream.dropFrag_spilled (st : Stream) : st.dropFrag.spilled = st.spilled := by
  unfold Stream.dropFrag; split <;> rfl

theorem Stream.foldPred_spilled (xs : List Nat) (g : Nat → LaneMask) (k : Nat → Nat) (st : Stream) :
    (xs.foldl (fun (t : Stream) n => t.setPred (k n) (g n)) st).spilled = st.spilled := by
  induction xs generalizing st with
  | nil => rfl
  | cons x rest ih => rw [List.foldl_cons, ih]; unfold Stream.setPred; split <;> rfl

@[simp] theorem Stream.rotateStages_spilled (st : Stream) (m : Bool) : (st.rotateStages m).spilled = st.spilled := by
  show (Stream.setPred (List.foldl (fun (t : Stream) n => t.setPred (15 - n) (st.pred (14 - n))) _ _) 8 _).spilled = st.spilled
  have h := Stream.foldPred_spilled (List.range 7) (fun n => st.pred (14 - n)) (fun n => 15 - n) { st with rrb := st.rrb - 1#5 }
  unfold Stream.setPred at h ⊢
  rw [if_neg (by decide)]
  exact h

theorem arriveWith_spilled (n : Nat) (st : Stream) : (arriveWith n st).spilled = st.spilled := by
  induction n generalizing st with
  | zero => rfl
  | succ n ih =>
    unfold arriveWith
    split
    · rfl
    · split
      · split
        · rw [ih]
        · rw [Stream.dropFrag_spilled]
      · rfl

@[simp] theorem Stream.settle_spilled (st : Stream) : st.settle.spilled = st.spilled := by
  unfold Stream.settle; split
  · exact arriveWith_spilled 64 st
  · rfl

theorem evalLoops_spilled (slots kept : List LoopSlot) (st : Stream) : (evalLoops slots kept st).spilled = st.spilled := by
  induction slots generalizing kept st with
  | nil => rfl
  | cons l rest ih =>
    unfold evalLoops
    split
    · split
      · simp only; split
        · rw [ih]; rfl
        · rfl
      · simp only; (repeat' split) <;> first | rfl | (rw [ih]; rfl)
      · cases hv : st.isVector <;> simp only [Bool.false_eq_true, if_false, if_true] <;> split <;> simp [ih]
    · exact ih _ _

/-- An instruction's completion leaves this field of its stream. -/
@[simp] theorem Stream.goOn_spilled (st : Stream) : st.goOn.spilled = st.spilled := by
  unfold Stream.goOn; rw [Stream.settle_spilled, evalLoops_spilled]

@[simp] theorem Stream.finish_spilled (st : Stream) : st.finish.spilled = st.spilled := by
  unfold Stream.finish; split
  · rfl
  · exact Stream.goOn_spilled st

@[simp] theorem Stream.jump_spilled (st : Stream) (a : Word) : (st.jump a).spilled = st.spilled := by
  unfold Stream.jump; rw [Stream.settle_spilled]

@[simp] theorem Stream.setLc_pending (st : Stream) (n : Nat) (v : Word) : (st.setLc n v).pending = st.pending := rfl

@[simp] theorem Stream.dropFrag_pending (st : Stream) : st.dropFrag.pending = st.pending := by
  unfold Stream.dropFrag; split <;> rfl

theorem Stream.foldPred_pending (xs : List Nat) (g : Nat → LaneMask) (k : Nat → Nat) (st : Stream) :
    (xs.foldl (fun (t : Stream) n => t.setPred (k n) (g n)) st).pending = st.pending := by
  induction xs generalizing st with
  | nil => rfl
  | cons x rest ih => rw [List.foldl_cons, ih]; unfold Stream.setPred; split <;> rfl

@[simp] theorem Stream.rotateStages_pending (st : Stream) (m : Bool) : (st.rotateStages m).pending = st.pending := by
  show (Stream.setPred (List.foldl (fun (t : Stream) n => t.setPred (15 - n) (st.pred (14 - n))) _ _) 8 _).pending = st.pending
  have h := Stream.foldPred_pending (List.range 7) (fun n => st.pred (14 - n)) (fun n => 15 - n) { st with rrb := st.rrb - 1#5 }
  unfold Stream.setPred at h ⊢
  rw [if_neg (by decide)]
  exact h

theorem arriveWith_pending (n : Nat) (st : Stream) : (arriveWith n st).pending = st.pending := by
  induction n generalizing st with
  | zero => rfl
  | succ n ih =>
    unfold arriveWith
    split
    · rfl
    · split
      · split
        · rw [ih]
        · rw [Stream.dropFrag_pending]
      · rfl

@[simp] theorem Stream.settle_pending (st : Stream) : st.settle.pending = st.pending := by
  unfold Stream.settle; split
  · exact arriveWith_pending 64 st
  · rfl

theorem evalLoops_pending (slots kept : List LoopSlot) (st : Stream) : (evalLoops slots kept st).pending = st.pending := by
  induction slots generalizing kept st with
  | nil => rfl
  | cons l rest ih =>
    unfold evalLoops
    split
    · split
      · simp only; split
        · rw [ih]; rfl
        · rfl
      · simp only; (repeat' split) <;> first | rfl | (rw [ih]; rfl)
      · cases hv : st.isVector <;> simp only [Bool.false_eq_true, if_false, if_true] <;> split <;> simp [ih]
    · exact ih _ _

/-- An instruction's completion leaves this field of its stream. -/
@[simp] theorem Stream.goOn_pending (st : Stream) : st.goOn.pending = st.pending := by
  unfold Stream.goOn; rw [Stream.settle_pending, evalLoops_pending]

@[simp] theorem Stream.finish_pending (st : Stream) : st.finish.pending = st.pending := by
  unfold Stream.finish; split
  · rfl
  · exact Stream.goOn_pending st

@[simp] theorem Stream.jump_pending (st : Stream) (a : Word) : (st.jump a).pending = st.pending := by
  unfold Stream.jump; rw [Stream.settle_pending]

@[simp] theorem Stream.setLc_flights (st : Stream) (n : Nat) (v : Word) : (st.setLc n v).flights = st.flights := rfl

@[simp] theorem Stream.dropFrag_flights (st : Stream) : st.dropFrag.flights = st.flights := by
  unfold Stream.dropFrag; split <;> rfl

theorem Stream.foldPred_flights (xs : List Nat) (g : Nat → LaneMask) (k : Nat → Nat) (st : Stream) :
    (xs.foldl (fun (t : Stream) n => t.setPred (k n) (g n)) st).flights = st.flights := by
  induction xs generalizing st with
  | nil => rfl
  | cons x rest ih => rw [List.foldl_cons, ih]; unfold Stream.setPred; split <;> rfl

@[simp] theorem Stream.rotateStages_flights (st : Stream) (m : Bool) : (st.rotateStages m).flights = st.flights := by
  show (Stream.setPred (List.foldl (fun (t : Stream) n => t.setPred (15 - n) (st.pred (14 - n))) _ _) 8 _).flights = st.flights
  have h := Stream.foldPred_flights (List.range 7) (fun n => st.pred (14 - n)) (fun n => 15 - n) { st with rrb := st.rrb - 1#5 }
  unfold Stream.setPred at h ⊢
  rw [if_neg (by decide)]
  exact h

theorem arriveWith_flights (n : Nat) (st : Stream) : (arriveWith n st).flights = st.flights := by
  induction n generalizing st with
  | zero => rfl
  | succ n ih =>
    unfold arriveWith
    split
    · rfl
    · split
      · split
        · rw [ih]
        · rw [Stream.dropFrag_flights]
      · rfl

@[simp] theorem Stream.settle_flights (st : Stream) : st.settle.flights = st.flights := by
  unfold Stream.settle; split
  · exact arriveWith_flights 64 st
  · rfl

theorem evalLoops_flights (slots kept : List LoopSlot) (st : Stream) : (evalLoops slots kept st).flights = st.flights := by
  induction slots generalizing kept st with
  | nil => rfl
  | cons l rest ih =>
    unfold evalLoops
    split
    · split
      · simp only; split
        · rw [ih]; rfl
        · rfl
      · simp only; (repeat' split) <;> first | rfl | (rw [ih]; rfl)
      · cases hv : st.isVector <;> simp only [Bool.false_eq_true, if_false, if_true] <;> split <;> simp [ih]
    · exact ih _ _

/-- An instruction's completion leaves this field of its stream. -/
@[simp] theorem Stream.goOn_flights (st : Stream) : st.goOn.flights = st.flights := by
  unfold Stream.goOn; rw [Stream.settle_flights, evalLoops_flights]

@[simp] theorem Stream.finish_flights (st : Stream) : st.finish.flights = st.flights := by
  unfold Stream.finish; split
  · rfl
  · exact Stream.goOn_flights st

@[simp] theorem Stream.jump_flights (st : Stream) (a : Word) : (st.jump a).flights = st.flights := by
  unfold Stream.jump; rw [Stream.settle_flights]

@[simp] theorem Stream.setLc_age (st : Stream) (n : Nat) (v : Word) : (st.setLc n v).age = st.age := rfl

@[simp] theorem Stream.dropFrag_age (st : Stream) : st.dropFrag.age = st.age := by
  unfold Stream.dropFrag; split <;> rfl

theorem Stream.foldPred_age (xs : List Nat) (g : Nat → LaneMask) (k : Nat → Nat) (st : Stream) :
    (xs.foldl (fun (t : Stream) n => t.setPred (k n) (g n)) st).age = st.age := by
  induction xs generalizing st with
  | nil => rfl
  | cons x rest ih => rw [List.foldl_cons, ih]; unfold Stream.setPred; split <;> rfl

@[simp] theorem Stream.rotateStages_age (st : Stream) (m : Bool) : (st.rotateStages m).age = st.age := by
  show (Stream.setPred (List.foldl (fun (t : Stream) n => t.setPred (15 - n) (st.pred (14 - n))) _ _) 8 _).age = st.age
  have h := Stream.foldPred_age (List.range 7) (fun n => st.pred (14 - n)) (fun n => 15 - n) { st with rrb := st.rrb - 1#5 }
  unfold Stream.setPred at h ⊢
  rw [if_neg (by decide)]
  exact h

theorem arriveWith_age (n : Nat) (st : Stream) : (arriveWith n st).age = st.age := by
  induction n generalizing st with
  | zero => rfl
  | succ n ih =>
    unfold arriveWith
    split
    · rfl
    · split
      · split
        · rw [ih]
        · rw [Stream.dropFrag_age]
      · rfl

@[simp] theorem Stream.settle_age (st : Stream) : st.settle.age = st.age := by
  unfold Stream.settle; split
  · exact arriveWith_age 64 st
  · rfl

theorem evalLoops_age (slots kept : List LoopSlot) (st : Stream) : (evalLoops slots kept st).age = st.age := by
  induction slots generalizing kept st with
  | nil => rfl
  | cons l rest ih =>
    unfold evalLoops
    split
    · split
      · simp only; split
        · rw [ih]; rfl
        · rfl
      · simp only; (repeat' split) <;> first | rfl | (rw [ih]; rfl)
      · cases hv : st.isVector <;> simp only [Bool.false_eq_true, if_false, if_true] <;> split <;> simp [ih]
    · exact ih _ _

/-- An instruction's completion leaves this field of its stream. -/
@[simp] theorem Stream.goOn_age (st : Stream) : st.goOn.age = st.age := by
  unfold Stream.goOn; rw [Stream.settle_age, evalLoops_age]

@[simp] theorem Stream.finish_age (st : Stream) : st.finish.age = st.age := by
  unfold Stream.finish; split
  · rfl
  · exact Stream.goOn_age st

@[simp] theorem Stream.jump_age (st : Stream) (a : Word) : (st.jump a).age = st.age := by
  unfold Stream.jump; rw [Stream.settle_age]

/-! ### The plain case -/

/-- With no slot ending at the program counter, execution goes on at the next instruction (R298). -/
theorem evalLoops_none (slots kept : List LoopSlot) (st : Stream) (h : ∀ l ∈ slots, l.last ≠ st.frag.pc) :
    evalLoops slots kept st =
      { st with loops := kept ++ slots, frag := { st.frag with pc := st.frag.pc + 4#64 } } := by
  induction slots generalizing kept with
  | nil => simp [evalLoops]
  | cons l rest ih =>
    rw [evalLoops, if_neg (h l (List.mem_cons_self ..)), ih _ fun x hx => h x (List.mem_cons_of_mem _ hx)]
    simp

/-- A scalar stream, and a stream in a bracket, have nothing to reconverge. -/
theorem Stream.settle_scalar (st : Stream) (h : st.isVector = false ∨ st.bracket.isSome = true) : st.settle = st := by
  unfold Stream.settle
  rcases h with h | h
  · simp [h]
  · cases hb : st.bracket <;> simp_all

/-- A fragment away from its reconvergence address stays (R202). -/
theorem arriveWith_away (n : Nat) (st : Stream)
    (h : ∀ r, regionFor st.regions st.frag.depth st.frag.mask = some r → r.reconv ≠ st.frag.pc) : arriveWith n st = st := by
  cases n with
  | zero => rfl
  | succ n =>
    unfold arriveWith
    split
    · rfl
    · rename_i r hr
      simp [h r hr]

theorem Stream.settle_away (st : Stream)
    (h : ∀ r, regionFor st.regions st.frag.depth st.frag.mask = some r → r.reconv ≠ st.frag.pc) : st.settle = st := by
  unfold Stream.settle; split
  · exact arriveWith_away 64 st h
  · rfl

/-- No slot that ends at the program counter waits for a register (R299). -/
theorem loopPending_none (st : Stream) (h : ∀ l ∈ st.loops, l.last ≠ st.frag.pc) : st.loopPending = false := by
  simp only [Stream.loopPending, List.any_eq_false]
  intro l hl
  simp [h l hl]

/-- What completion does where no loop ends and nothing reconverges: the program counter moves on by 4. -/
theorem Stream.finish_plain (st : Stream) (h : ∀ l ∈ st.loops, l.last ≠ st.frag.pc)
    (hr : ∀ r ∈ st.regions, r.reconv ≠ st.frag.pc + 4#64) :
    st.finish = { st with frag := { st.frag with wait := .running, pc := st.frag.pc + 4#64 } } := by
  rw [Stream.finish, if_neg (by simp [loopPending_none st h]), Stream.goOn]
  rw [evalLoops_none _ _ _ (by simpa using h)]
  rw [Stream.settle_away]
  · simp
  · intro r hreg
    exact hr r (List.mem_of_find?_eq_some hreg)

theorem Stream.jump_plain (st : Stream) (a : Word) (hr : ∀ r ∈ st.regions, r.reconv ≠ a) :
    st.jump a = { st with frag := { st.frag with wait := .running, pc := a } } := by
  unfold Stream.jump
  rw [Stream.settle_away]
  intro r hreg
  exact hr r (List.mem_of_find?_eq_some hreg)

/-! ### The state -/

/-- A meaning that only writes the issuing stream leaves the rest of the state. -/
theorem onlyStream_advance (s : State) (st : Stream) : OnlyStream s ({ s with me := st } : State).advance := rfl

theorem onlyStream_setS_advance (s : State) (d : SReg) (v : Word) : OnlyStream s ((s.setS d v).advance) := rfl

theorem sreg_of_sregs {s t : State} (h : t.me.sregs = s.me.sregs) (n : SReg) : t.sreg n = s.sreg n := by
  simp only [State.sreg, h]

/-- A scalar register after an instruction that writes one. -/
theorem State.sreg_setS_advance (s : State) (d n : SReg) (v : Word) :
    ((s.setS d v).advance).sreg n = (s.setS d v).sreg n :=
  sreg_of_sregs (Stream.finish_sregs _) n

theorem State.sreg_advance (s : State) (n : SReg) : s.advance.sreg n = s.sreg n := sreg_of_sregs (Stream.finish_sregs _) n

theorem State.sreg_goto (s : State) (a : Word) (n : SReg) : (s.goto a).sreg n = s.sreg n :=
  sreg_of_sregs (Stream.jump_sregs _ a) n

/-- The program counter after a plain completion. -/
theorem State.advance_plain (s : State) (h : NoLoopEnd s) (hr : NoReconvergence s (s.pc + 4#64)) :
    s.advance = { s with me := { s.me with frag := { s.me.frag with wait := .running, pc := s.pc + 4#64 } } } := by
  unfold State.advance
  rw [Stream.finish_plain _ h hr]
  rfl

theorem State.goto_plain (s : State) (a : Word) (hr : NoReconvergence s a) :
    s.goto a = { s with me := { s.me with frag := { s.me.frag with wait := .running, pc := a } } } := by
  unfold State.goto
  rw [Stream.jump_plain _ _ hr]

end Sys2Proof.Machine
end

