-- ==== Sys2Proof/Tests/Slice0.lean ====
section
/-!
SUPPORT. Tests: the checks of well-formedness, words from the encoding tables, single steps on small states, and for every
statement with hypotheses a state and operands that meet them. Expected results come from the rules of spec/ that the
statements name, or from hand calculation with them.
-/

set_option Elab.async false

namespace Sys2Proof.Tests

open Machine

/-! ### Helpers -/

/-- The outcome is this next state. -/
def gives (r : Result) (t : State) : Bool :=
  match r with
  | .next u => decide (u = t)
  | _ => false

theorem gives_eq {r : Result} {t : State} (h : gives r t = true) : r = .next t := by
  cases r <;> simp_all [gives]

/-- A property of the next state. -/
def onNext (r : Result) (p : State → Bool) : Bool :=
  match r with
  | .next t => p t
  | _ => false

theorem onNext_ex {r : Result} {p : State → Bool} (h : onNext r p = true) : ∃ t, r = .next t ∧ p t = true := by
  cases r with
  | next t => exact ⟨t, rfl, h⟩
  | fault _ => cases h
  | refused _ => cases h

/-- The state that an outcome gives. -/
def after (r : Result) (s : State) : State :=
  match r with
  | .next t => t
  | _ => s

/-- A check answers this state and value. -/
def okIs {α : Type} [DecidableEq α] (r : Except Result (State × α)) (u : State) (x : α) : Bool :=
  match r with
  | .ok y => decide (y.1 = u) && decide (y.2 = x)
  | _ => false

theorem ok_eq {α : Type} [DecidableEq α] {r : Except Result (State × α)} {u : State} {x : α} (h : okIs r u x = true) :
    r = .ok (u, x) := by
  cases r with
  | ok y => obtain ⟨a, b⟩ := y; simp_all [okIs]
  | error _ => cases h

/-- One lane of an access that passes its checks. -/
theorem single_eq {s u : State} {q : Req} {a : Word} {p : Spot}
    (h : (decide (s.me.arm = Arm.clear) && decide (u.me.arm = Arm.clear) && !s.mustWait [(0, a)] && okIs (checkAccess s q [(0, a)]) u [(0, p)]) = true) :
    Single s u q a p := by
  simp only [Bool.and_eq_true, decide_eq_true_eq, Bool.not_eq_true'] at h
  exact ⟨h.1.1.1, h.1.1.2, h.1.2, ok_eq h.2⟩

/-- A check answers this state. -/
def doneIs (r : Except Result State) (u : State) : Bool :=
  match r with
  | .ok y => decide (y = u)
  | _ => false

theorem done_eq {r : Except Result State} {u : State} (h : doneIs r u = true) : r = .ok u := by
  cases r <;> simp_all [doneIs]

/-- A read answers these bytes and this state. -/
def readIs {α : Type} [DecidableEq α] (r : Reach α × State) (x : α) (t : State) : Bool :=
  match r.1 with
  | .ok y => decide (y = x) && decide (r.2 = t)
  | _ => false

theorem reads_eq {α : Type} [DecidableEq α] {r : Reach α × State} {x : α} {t : State} (h : readIs r x t = true) :
    r = (.ok x, t) := by
  obtain ⟨a, b⟩ := r
  cases a <;> simp_all [readIs]

theorem bytes_eq {s u : State} {sc : Nat} {a : Word} {n : Nat} {bs : List Byte}
    (h : (!s.mustWait ((List.range (n / 128 + 1)).map fun i => (i, a + BitVec.ofNat 64 (128 * i))) &&
      readIs (readVia s (s.viaMe sc) a n) bs u) = true) : ReadsBytes s sc a n bs u := by
  rw [Bool.and_eq_true, Bool.not_eq_true'] at h
  exact ⟨h.1, reads_eq h.2⟩

/-- The state after a read of the issuing stream. -/
def readOf (s : State) (sc : Nat) (a : Word) (n : Nat) : State := (readVia s (s.viaMe sc) a n).2

/-- The issuing stream of a job of 64 KiB of scratchpad and one granule, with a section of 4,096 bytes, on an engine. -/
def jobS (e : Engine) : State :=
  { State.reset with
    agenda := [], me := Stream.start ⟨.job probeId, probeStrm e⟩ e (BitVec.allOnes 128) 0#64,
    myJob := { probeJob e 0 with sections := [⟨e, 0#64, 4096, 0, []⟩], pword := 0x00010001#32 } }

def ctl : State := jobS .control
def vec : State := jobS .vector
def mat : State := jobS .matrix
def cpy : State := jobS .copy

/-- Management core 0. -/
def mgm : State := { State.reset with agenda := [] }

def State.at_ (s : State) (a : Word) : State := { s with me := { s.me with frag := { s.me.frag with pc := a } } }

/-- A held leaf of 1 GiB that maps a page to the lowest gigabyte of an aperture, with R, W, X, A and D set. -/
def leafOf (apt : Nat) : BitVec 64 := BitVec.ofNat 64 (0x31F + 32 * apt)

def held (core page apt : Nat) : TlbEntry := ⟨.core core, 0, 0, page, 30, leafOf apt, if apt = 4 then 0x00050001#64 else 0#64⟩

/-- A state whose issuing core holds pages 0 to 4 for apertures 1, 3, 2, 0 and 4, with the tiers granted to quarter 0. -/
def paged (s : State) : State :=
  { s.setReg (prtReg 0x080) 0xFFFFFFFF00000000#64 with
    mm := { s.mm with tlb := [held s.core 0 1, held s.core 1 3, held s.core 2 2, held s.core 3 0, held s.core 4 4] } }

/-- A diverged vector stream: two fragments of 64 lanes in one region that waits at 0x40. -/
def split : State :=
  { vec with me := { vec.me with
      frag := { vec.me.frag with mask := 0xFFFFFFFFFFFFFFFF#128, depth := 1 },
      frags := [{ vec.me.frag with id := 1, mask := 0xFFFFFFFFFFFFFFFF0000000000000000#128, depth := 1, pc := 0x20#64 }],
      regions := [⟨0x40#64, 1, BitVec.allOnes 128, 0#128, none, 0⟩] } }

/-- A special function of an FP32 pattern, rounded to nearest even (R281, R282). -/
def f32fun (o x : Nat) : Nat := funOf o fp32 (vec.rounding 0 0) (fp32.decode x)


/-! ### Witnesses: scalar instructions and completion -/

/-- R293: the division corner, most negative by -1. -/
theorem witness_ScalarArithmetic_divs :
    ((ctl.setS 1 (BitVec.intMin 64)).setS 2 (BitVec.allOnes 64)).sreg 1 = BitVec.intMin 64 ∧
    ((ctl.setS 1 (BitVec.intMin 64)).setS 2 (BitVec.allOnes 64)).sreg 2 = BitVec.allOnes 64 ∧
    WritesScalar ((ctl.setS 1 (BitVec.intMin 64)).setS 2 (BitVec.allOnes 64)) (.divs 3 1 2) 3 (BitVec.intMin 64) ∧
    WritesScalar ((ctl.setS 1 (BitVec.intMin 64)).setS 2 (BitVec.allOnes 64)) (.rems 3 1 2) 3 0#64 :=
  ⟨by decide +kernel,
    by decide +kernel,
    gives_eq (by decide +kernel),
    gives_eq (by decide +kernel)⟩

/-- The fewest and the most leading and trailing zeros. -/
theorem witness_ScalarArithmetic_counts :
    WritesScalar (ctl.setS 1 0x8000000000000001#64) (.clz 3 1) 3 0#64 ∧
    WritesScalar (ctl.setS 1 0x8000000000000001#64) (.ctz 3 1) 3 0#64 ∧
    WritesScalar ctl (.clz 3 1) 3 64#64 ∧
    WritesScalar (ctl.setS 1 0x8000000000000000#64) (.ctz 3 1) 3 63#64 :=
  ⟨gives_eq (by decide +kernel),
    gives_eq (by decide +kernel),
    gives_eq (by decide +kernel),
    gives_eq (by decide +kernel)⟩

/-- AHI and ORI build a negative constant, 0xFFFFE001. -/
theorem witness_UpperImmediate :
    (5#6 : SReg) ≠ 0#6 ∧
    WritesScalar ctl (.ahi 5 0x7FFFF) 5 0xFFFFFFFFFFFFE000#64 ∧
    WritesScalar (ctl.setS 5 0xFFFFFFFFFFFFE000#64) (.ori 5 5 1) 5 ((0xFFFFE001#32).signExtend 64) :=
  ⟨by decide +kernel,
    gives_eq (by decide +kernel),
    gives_eq (by decide +kernel)⟩

theorem witness_AddressHelpers_step2 :
    ((ctl.setS 1 0xFFFFFFFF00000000#64).sreg 1).extractLsb' 0 32 = 0#32 ∧
    WritesScalar (ctl.setS 1 0xFFFFFFFF00000000#64) (.step2 3 1 2) 3 (ctl.sreg 3) ∧
    ((((ctl.setS 1 4).setS 2 3).setS 3 0xFFFFFFFF00000003#64).sreg 1).extractLsb' 0 32 ≠ 0#32 ∧
    WritesScalar (((ctl.setS 1 4).setS 2 3).setS 3 0xFFFFFFFF00000003#64) (.step2 3 1 2) 3 2#64 :=
  ⟨by decide +kernel,
    gives_eq (by decide +kernel),
    by decide +kernel,
    gives_eq (by decide +kernel)⟩

theorem witness_RegisterConventions :
    (1#6 : SReg) ≠ 0#6 ∧
    (2#6 : SReg) ≠ 1#6 ∧
    (1 : Nat) ≠ 0 ∧
    (31 : Nat) < 32 ∧
    32 ≤ (32 : Nat) ∧
    ({ vec.me with rrb := 31#5 } : Stream).rotate 32 = 63 ∧
    ({ vec.me with rrb := 31#5 } : Stream).rotate 33 = 32 := by and_intros <;> decide +kernel

/-- A stream at address 8 with slots that end there: the newest first. -/
def looping (ls : List LoopSlot) (st : Stream) : State :=
  { jobS st.engine with me := { st with loops := ls, frag := { st.frag with pc := 8#64 } } }

theorem witness_Completion_plain :
    NoLoopEnd (looping [⟨0, 4#64, 12#64, .counted⟩] ctl.me) ∧
    NoReconvergence (looping [⟨0, 4#64, 12#64, .counted⟩] ctl.me) ((looping [⟨0, 4#64, 12#64, .counted⟩] ctl.me).pc + 4#64) ∧
    (looping [⟨0, 4#64, 12#64, .counted⟩] ctl.me).advance.pc = 12#64 :=
  ⟨by unfold NoLoopEnd; decide +kernel,
    by unfold NoReconvergence; decide +kernel,
    by decide +kernel⟩

theorem witness_Completion_counted :
    (looping [⟨0, 4#64, 8#64, .counted⟩] (ctl.me.setLc 0 2)).me.loops = ⟨0, 4#64, 8#64, .counted⟩ :: [] ∧
    (looping [⟨0, 4#64, 8#64, .counted⟩] (ctl.me.setLc 0 2)).pc = 8#64 ∧
    NoReconvergence (looping [⟨0, 4#64, 8#64, .counted⟩] (ctl.me.setLc 0 2)) 4#64 ∧
    (looping [⟨0, 4#64, 8#64, .counted⟩] (ctl.me.setLc 0 2)).me.lc 0 ≠ 1#64 ∧
    (looping [⟨0, 4#64, 8#64, .counted⟩] (ctl.me.setLc 0 2)).advance.pc = 4#64 ∧
    (looping [⟨0, 4#64, 8#64, .counted⟩] (ctl.me.setLc 0 1)).me.lc 0 = 1#64 ∧
    (looping [⟨0, 4#64, 8#64, .counted⟩] (ctl.me.setLc 0 1)).advance.me.loops = [] :=
  ⟨by decide +kernel,
    by decide +kernel,
    by unfold NoReconvergence; decide +kernel,
    by decide +kernel,
    by decide +kernel,
    by decide +kernel,
    by decide +kernel⟩

theorem witness_Completion_conditional :
    (looping [⟨1, 4#64, 8#64, .conditional 7⟩] (ctl.setS 7 1).me).sreg 7 ≠ 0#64 ∧
    (looping [⟨1, 4#64, 8#64, .conditional 7⟩] (ctl.setS 7 1).me).advance.me.lc 1 = 1#64 ∧
    (looping [⟨1, 4#64, 8#64, .conditional 7⟩] ctl.me).sreg 7 = 0#64 ∧
    (looping [⟨1, 4#64, 8#64, .conditional 7⟩] ctl.me).advance.me.loops = [] := by and_intros <;> decide +kernel

theorem witness_Completion_pipelined :
    (looping [⟨0, 4#64, 8#64, .pipelined 3#64 2⟩] ((vec.me.setLc 0 2).setPred 8 5)).me.isVector = true ∧
    (looping [⟨0, 4#64, 8#64, .pipelined 3#64 2⟩] ((vec.me.setLc 0 2).setPred 8 5)).me.lc 0 ≠ 1#64 ∧
    (looping [⟨0, 4#64, 8#64, .pipelined 3#64 2⟩] ((vec.me.setLc 0 2).setPred 8 5)).advance.me.pred 9 = 5#128 ∧
    (looping [⟨0, 4#64, 8#64, .pipelined 3#64 2⟩] ((vec.me.setLc 0 2).setPred 8 5)).advance.me.pred 8 = 0#128 ∧
    (looping [⟨0, 4#64, 8#64, .pipelined 3#64 2⟩] ((vec.me.setLc 0 2).setPred 8 5)).advance.me.rrb = 31#5 := by and_intros <;> decide +kernel

theorem witness_ScalarFrame :
    Instr.add 3 1 2 ∈ scalarForms 3 1 2 0 0 0 0 ∧
    exec (.add 3 1 2) (ctl.setS 1 7) = .next (((ctl.setS 1 7).setS 3 7).advance) ∧
    exec (.add 0 1 2) (ctl.setS 1 7) = .next (ctl.setS 1 7).advance :=
  ⟨by decide +kernel,
    gives_eq (by decide +kernel),
    gives_eq (by decide +kernel)⟩

/-- A control stream at address 16. -/
def mid : State := State.at_ ctl 16#64

theorem witness_Branches_b :
    mid.targetOk (mid.pc + 4#64 * (0x1FFFFFC#25).signExtend 64) = true ∧
    Completes mid (.b 0x1FFFFFC) (mid.goto 0#64) ∧
    mid.targetOk (mid.pc + 4#64 * (0x1FFFFFB#25).signExtend 64) = false ∧
    TrapsIllegal mid (.b 0x1FFFFFB) ∧
    TrapsIllegal mid (.bl 0x1FFFFFB) ∧
    NoReconvergence mid (mid.pc + 4#64 * (0x1FFFFFC#25).signExtend 64) :=
  ⟨by decide +kernel,
    gives_eq (by decide +kernel),
    by decide +kernel,
    gives_eq (by decide +kernel),
    gives_eq (by decide +kernel),
    by unfold NoReconvergence; decide +kernel⟩

theorem witness_Branches_bc :
    mid.targetOk (mid.pc + 4#64 * (1023#15).signExtend 64) = false ∧
    bcCondition 0 (mid.sreg 1).toInt ∧
    TrapsIllegal mid (.bc 0 1 1023) ∧
    mid.targetOk (mid.pc + 4#64 * (1019#15).signExtend 64) = true ∧
    Completes mid (.bc 3 1 1019) (mid.goto 4092#64) ∧
    (5#4).toNat < 6 ∧
    (¬ bcCondition 5 (mid.sreg 1).toInt) ∧
    Completes mid (.bc 5 1 1023) mid.advance ∧
    8 ≤ (8#4).toNat ∧
    TrapsIllegal mid (.bc 8 1 0) :=
  ⟨by decide +kernel,
    by unfold bcCondition; decide +kernel,
    gives_eq (by decide +kernel),
    by decide +kernel,
    gives_eq (by decide +kernel),
    by decide +kernel,
    by unfold bcCondition; decide +kernel,
    gives_eq (by decide +kernel),
    by decide +kernel,
    gives_eq (by decide +kernel)⟩

theorem witness_Branches_bits :
    mid.targetOk (mid.pc + 4#64 * (0x1FC#9).signExtend 64) = true ∧
    ((mid.setS 1 0x8000000000000000#64).sreg 1).getLsbD 63 = true ∧
    Completes (mid.setS 1 0x8000000000000000#64) (.bcBset 1 63 0x1FC) ((mid.setS 1 0x8000000000000000#64).goto 0#64) ∧
    Completes (mid.setS 1 0x8000000000000000#64) (.bcBclr 1 63 0x1FC) (mid.setS 1 0x8000000000000000#64).advance ∧
    (mid.sreg 1).getLsbD 63 = false ∧
    Completes mid (.bcBset 1 63 0x1FC) mid.advance ∧
    Completes mid (.bcBclr 1 63 0x1FC) (mid.goto 0#64) ∧
    mid.targetOk (mid.pc + 4#64 * (0x1FB#9).signExtend 64) = false ∧
    TrapsIllegal (mid.setS 1 0x8000000000000000#64) (.bcBset 1 63 0x1FB) ∧
    TrapsIllegal mid (.bcBclr 1 63 0x1FB) := by and_intros <;> first | decide +kernel | exact gives_eq (by decide +kernel)

theorem witness_Branches_register :
    (mid.setS 1 4092).targetOk ((mid.setS 1 4092).sreg 1) = true ∧
    Completes (mid.setS 1 4092) (.blr 1) (((mid.setS 1 4092).setS 63 20).goto 4092#64) ∧
    (mid.setS 1 4096).targetOk ((mid.setS 1 4096).sreg 1) = false ∧
    TrapsIllegal (mid.setS 1 4096) (.br 1) ∧
    (mid.setS 1 2).targetOk ((mid.setS 1 2).sreg 1) = false ∧
    TrapsIllegal (mid.setS 1 2) (.blr 1) ∧
    (mid.setS 63 8).targetOk ((mid.setS 63 8).sreg 63) = true ∧
    Completes (mid.setS 63 8) .ret ((mid.setS 63 8).goto 8#64) ∧
    (mid.setS 63 2).targetOk ((mid.setS 63 2).sreg 63) = false ∧
    TrapsIllegal (mid.setS 63 2) .ret := by and_intros <;> first | decide +kernel | exact gives_eq (by decide +kernel)

theorem witness_HardwareLoops_scalar :
    (1#12 : BitVec 12) ≠ 0#12 ∧
    mid.me.isVector = false ∧
    (mid.setS 1 1).sreg 1 ≠ 0#64 ∧
    Completes (mid.setS 1 1) (.loop 3 1 1) (started (mid.setS 1 1) 3 1#64 .counted 1 (mid.setS 1 1).me).advance ∧
    Completes mid (.loop 3 1 1) (mid.goto 24#64) ∧
    Completes mid (.loopi 3 0 1) (mid.goto 24#64) ∧
    Completes mid (.loopi 3 2047 1) (started mid 3 2047#64 .counted 1 mid.me).advance ∧
    Completes mid (.loopx 3 1 1) (started mid 3 0#64 (.conditional 1) 1 mid.me).advance ∧
    Completes mid (.loopSp 3 1 8 1) (mid.goto 24#64) ∧
    Completes (mid.setS 1 1) (.loopSp 3 1 8 1) (started (mid.setS 1 1) 3 8#64 (.pipelined 1#64 0) 1 (mid.setS 1 1).me).advance := by and_intros <;> first | decide +kernel | exact gives_eq (by decide +kernel)

theorem witness_HardwareLoops_vector :
    (vec.setS 1 1).me.isVector = true ∧
    (vec.setS 1 1).me.whole = true ∧
    1 ≤ (1#5).toNat ∧
    (vec.setS 1 1).sreg 1 ≠ 0#64 ∧
    (onNext (exec (.loopSp 0 1 1 2) (vec.setS 1 1)) fun t => t.me.lc 0 == 1#64 && t.me.loops == [⟨0, 4#64, 8#64, .pipelined 1#64 0⟩] && t.me.pred 8 == BitVec.allOnes 128 && t.me.pred 9 == 0#128) = true ∧
    vec.sreg 1 = 0#64 ∧
    (onNext (exec (.loopSp 0 1 8 2) { vec with me := vec.me.setPred 15 1#128 }) fun t => t.pc == 12#64 && t.me.loops == [] && t.me.pred 8 == BitVec.allOnes 128 && t.me.pred 15 == 0#128) = true := by and_intros <;> decide +kernel

theorem witness_HardwareLoops_refused :
    TrapsIllegal mid (.loop 0 1 0) ∧
    split.me.isVector = true ∧
    split.me.whole = false ∧
    TrapsIllegal split (.loopi 0 1 1) ∧
    8 < (9#5).toNat ∧
    TrapsIllegal mid (.loopSp 0 1 9 1) ∧
    TrapsIllegal mid (.loopSp 0 1 0 1) := by and_intros <;> first | decide +kernel | exact gives_eq (by decide +kernel)

/-- The control stream with its job in crew 9 at rank 2, current; and another job in crew 9 at rank 1. -/
def crewed : State :=
  { ctl with
    myJob := { ctl.myJob with crews := [⟨9, 2⟩], current := some 9 }
    jobs := [{ ctl.myJob with id := ⟨0, 0, 1⟩, core := some 1, crews := [⟨9, 1⟩], current := some 9 }] }

theorem witness_SpecialRegisters_job :
    InJob ctl ∧
    ctl.myJob.current = none ∧
    WritesScalar ctl (.mfs 1 4) 1 (BitVec.allOnes 64) ∧
    WritesScalar ctl (.mfs 1 5) 1 (BitVec.allOnes 64) ∧
    crewed.myJob.current = some 9 ∧
    WritesScalar crewed (.mfs 1 4) 1 9#64 ∧
    WritesScalar crewed (.mfs 1 5) 1 2#64 ∧
    WritesScalar { ctl with me := { ctl.me with arm := ⟨true, 7#3, true, 7#3, none⟩ } } (.mfs 1 15) 1 0x2727#64 ∧
    WritesScalar ctl (.mfs 1 9) 1 65536#64 := by and_intros <;> first | decide +kernel | exact gives_eq (by decide +kernel) | rfl

theorem witness_SpecialRegisters_mgmt :
    mgm.isMgmt = true ∧
    WritesScalar mgm (.mfs 1 20) 1 2#64 ∧
    Completes (mgm.setS 1 1) (.mts 16 1) (mgm.setS 1 1).advance ∧
    WritesScalar mgm (.mfs 1 3) 1 0xDE0#64 ∧
    ctl.me.isVector = false ∧
    18#6 ∈ [11#6, 12#6, 13#6, 14#6, 18#6] ∧
    TrapsIllegal ctl (.mfs 1 18) ∧
    21 ≤ (21#6).toNat ∧
    TrapsIllegal ctl (.mfs 1 21) ∧
    TrapsIllegal ctl (.mfs 1 63) := by and_intros <;> first | decide +kernel | exact gives_eq (by decide +kernel)

theorem witness_SpecialRegisters_vector :
    vec.me.isVector = true ∧
    WritesScalar vec (.mfs 1 18) 1 0x2545F491#64 ∧
    WritesScalar vec (.mfs 1 14) 1 (BitVec.allOnes 64) ∧
    ((vec.setS 1 5).sreg 1).extractLsb' 0 32 ≠ 0#32 ∧
    ((vec.setS 1 0xFFFFFFFF00000000#64).sreg 1).extractLsb' 0 32 = 0#32 ∧
    Completes (vec.setS 1 0xFFFFFFFF00000000#64) (.mts 18 1) ({ vec.setS 1 0xFFFFFFFF00000000#64 with me := { (vec.setS 1 0xFFFFFFFF00000000#64).me with srgen := 1#32 } }).advance ∧
    TrapsIllegal ctl (.mts 12 1) := by and_intros <;> first | decide +kernel | exact gives_eq (by decide +kernel)

theorem witness_SpecialRegisters_crew :
    ((∃ h ∈ (crewed.setS 1 9).myJob.crews, (crewed.setS 1 9).sreg 1 = BitVec.ofNat 64 h.crew)) ∧
    ((∀ h ∈ (crewed.setS 1 8).myJob.crews, (crewed.setS 1 8).sreg 1 ≠ BitVec.ofNat 64 h.crew)) ∧
    Completes (crewed.setS 1 8) (.mts 4 1) (crewed.setS 1 8).advance ∧
    TrapsIllegal crewed (.mts 20 1) ∧
    TrapsIllegal crewed (.mts 21 1) :=
  ⟨by decide +kernel,
    by decide +kernel,
    gives_eq (by decide +kernel),
    gives_eq (by decide +kernel),
    gives_eq (by decide +kernel)⟩

theorem witness_SystemForms_yield :
    mid.me.isVector = false ∧
    Completes mid .yield mid.advance ∧
    vec.me.isVector = true ∧
    vec.myJob.rr = false ∧
    (onNext (exec .yield vec) fun t => t.me.age == 1 && t.ticket == 1 && t.pc == 4#64) = true :=
  ⟨by decide +kernel,
    gives_eq (by decide +kernel),
    by decide +kernel,
    by decide +kernel,
    by decide +kernel⟩

theorem witness_SystemForms_sleep :
    ({ mid with me := { mid.me with fired := true } } : State).me.fired = true ∧
    mid.me.fired = false ∧
    mid.me.frag.wait = .running ∧
    mid.sreg 1 ≠ BitVec.allOnes 64 ∧
    (mid.sreg 1).toNat ≤ (mid.dtb (coreDie mid.core)).toNat ∧
    WritesScalar mid (.sleep 3 1) 3 0#64 ∧
    (mid.dtb (coreDie (mid.setS 1 1).core)).toNat < ((mid.setS 1 1).sreg 1).toNat ∧
    (onNext (exec (.sleep 3 1) (mid.setS 1 1)) fun t => t.me.frag.wait == .sleep 1#64 3 && t.pc == 16#64) = true := by and_intros <;> first | decide +kernel | exact gives_eq (by decide +kernel)

theorem witness_SystemForms_watch :
    ({ mgm with me := { mgm.me with watch := none } } : State).translate (mgm.sreg 1) 1 .read = (.ok ⟨1, 0, true, 0⟩, { mgm with me := { mgm.me with watch := none } }) ∧
    (⟨1, 0, true, 0⟩ : Place).apt ≤ 1 ∧
    (onNext (exec (.watch 1) (mgm.setS 1 0x1FF)) fun t => t.me.watch.map (fun w => w.line) == some 3 && !t.me.fired) = true := by and_intros <;> decide +kernel

theorem witness_SystemForms_snap :
    1 ≤ mgm.priv ∧
    ctl.priv = 0 ∧
    ctl.field (snpReg 0x000) 5 5 = 0 ∧
    Completes ctl .snap ctl.advance :=
  ⟨by decide +kernel,
    by decide +kernel,
    by decide +kernel,
    gives_eq (by decide +kernel)⟩

theorem witness_SystemForms_meet :
    InJob ctl ∧
    ctl.me.bracket = none ∧
    ctl.myTxns = [] ∧
    (ctl.waitFor .meet).allMeet ctl.myJob.id = true ∧
    (onNext (exec .meet ctl) fun t => t.pc == 4#64) = true ∧
    ctl.me.frags = [] ∧
    (onNext (exec .exit ctl) fun t => t.me.ended) = true := by and_intros <;> first | decide +kernel | rfl

theorem witness_TrapForms :
    InJob (mid.setS 1 0xAB) ∧
    (mid.setS 1 0xAB).field (snpReg 0x010) 14 14 = 0 ∧
    (onNext (exec (.trap 1) (mid.setS 1 0xAB)) fun t => t.pc == 16#64 && t.sch.records.length == 1) = true :=
  ⟨rfl,
    by decide +kernel,
    by decide +kernel⟩

/-- The control stream with counts of tokens. -/
def tokens (k n : Nat) : State := ctl.setJob fun j => j.setToken k n

theorem witness_TokenForms_give :
    InJob (tokens 7 15) ∧
    (tokens 7 15).myJob.token 7 < 16 ∧
    (tokens 7 15).myTxns = [] ∧
    (tokens 7 15).myJob.lateGives = [] ∧
    Completes (tokens 7 15) (.tokGive 7) (tokens 7 16).advance ∧
    16 ≤ (tokens 7 16).myJob.token 7 ∧
    (tokens 7 16).mayGive 7 = false ∧
    (tokens 7 16).myGive 7 ∉ (tokens 7 16).myJob.lateGives ∧
    (onNext (exec (.tokGive 7) (tokens 7 16)) fun t => t.me.frag.wait == .give 7 0 && t.myJob.lateGives == [⟨7, some (0, 0)⟩] && t.pc == 0#64) = true ∧
    Completes (tokens 7 16) (.tokZero 7) (tokens 7 0).advance ∧
    (1#1 : BitVec 1) = 1#1 ∧
    Completes ctl (.tokArm 1 2 0 3) ({ ctl with me := { ctl.me with arm := ⟨true, 2#3, false, 3#3, none⟩ } } : State).advance := by and_intros <;> first | decide +kernel | exact gives_eq (by decide +kernel) | rfl

theorem witness_TokenForms_take :
    (tokens 0 1).canTake 0 = true ∧
    Completes (tokens 0 1) (.tokTake 0) (tokens 0 0).advance ∧
    ctl.canTake 0 = false ∧
    ctl.me.frag.wait = .running ∧
    (onNext (exec (.tokTake 0) ctl) fun t => t.me.frag.wait == .take 0 0 && t.pc == 0#64) = true ∧
    TrapsIllegal mgm (.tokGive 0) ∧
    mgm.isMgmt = true := by and_intros <;> first | decide +kernel | exact gives_eq (by decide +kernel)

theorem witness_CrewForms_held :
    InJob (crewed.setS 1 9) ∧
    (crewed.setS 1 9).myJob.rankIn ((crewed.setS 1 9).sreg 1).toNat = some 2 ∧
    (onNext (exec (.crewJoin 3 1) (crewed.setS 1 9)) fun t => t.sreg 3 == 2#64 && t.myJob.ext) = true ∧
    (onNext (exec (.crewLeave 3 1) (crewed.setS 1 9)) fun t => t.sreg 3 == 0#64 && t.myJob.crews == []) = true ∧
    WritesScalar (crewed.setS 1 9) (.crewInfo 3 1 2) 3 2#64 ∧
    (crewed.setS 1 9).sreg 2 = 0#64 ∧
    WritesScalar ((crewed.setS 1 9).setS 2 1) (.crewInfo 3 1 2) 3 2#64 ∧
    WritesScalar ((crewed.setS 1 9).setS 2 3) (.crewInfo 3 1 2) 3 6#64 ∧
    WritesScalar ((crewed.setS 1 9).setS 2 4) (.crewInfo 3 1 2) 3 0#64 ∧
    (crewed.setS 1 9).myJob.current = some 9 ∧
    5 ≤ (((crewed.setS 1 9).setS 2 5).sreg 2).toNat ∧
    WritesScalar ((crewed.setS 1 9).setS 2 5) (.crewInfo 3 1 2) 3 (BitVec.allOnes 64) := by and_intros <;> first | decide +kernel | exact gives_eq (by decide +kernel) | rfl

/-- A launch of partition 0 with acceptance number 0 and so many jobs, all of them dispatched. -/
def launch0 (jobs : Nat) : Launch :=
  { (parsePacket 0 (List.replicate 128 0#8)) with jobs := jobs, fresh := jobs, pword := 0x00010001#32 }

/-- A launch whose crew table, one crew 255 of at most 3, stands at 0x200; another job holds rank 0 of it. -/
def tabled : State :=
  let s := paged ctl
  { s with
    sch := { s.sch with launches := [{ launch0 2 with kimage := 0x100#64, header := { (launch0 2).header with ncrew := 1, crewOff := 0x100 } }] }
    mm := { s.mm with mem := cellsSet s.mm.mem 0x200 [255#8, 3#8] }
    jobs := [{ ctl.myJob with id := ⟨0, 0, 1⟩, core := some 1, crews := [⟨255, 0⟩] }] }

/-- The table of `tabled` gives a crew number its limit. -/
theorem crewLimit_tabled (n : Nat) (hn : n ≤ 255) (m : Option Nat)
    (h : (!(tabled.setS 1 (BitVec.ofNat 64 n)).mustWait ((List.range 1).map fun i => (i, 0x200#64 + BitVec.ofNat 64 (128 * i))) &&
      readIs (readVia (tabled.setS 1 (BitVec.ofNat 64 n)) ((tabled.setS 1 (BitVec.ofNat 64 n)).viaMe 5) 0x200#64 8)
        [255#8, 3#8, 0#8, 0#8, 0#8, 0#8, 0#8, 0#8] (readOf (tabled.setS 1 (BitVec.ofNat 64 n)) 5 0x200#64 8)) = true)
    (hm : crewLimit 1 [255#8, 3#8, 0#8, 0#8, 0#8, 0#8, 0#8, 0#8] n = m) :
    CrewLimit (tabled.setS 1 (BitVec.ofNat 64 n)) (readOf (tabled.setS 1 (BitVec.ofNat 64 n)) 5 0x200#64 8) n m :=
  ⟨_, _, rfl, hn, bytes_eq h, hm⟩

theorem witness_CrewForms_join :
    InJob (tabled.setS 1 255) ∧
    (tabled.setS 1 255).myJob.rankIn ((tabled.setS 1 255).sreg 1).toNat = none ∧
    ((tabled.setS 1 255).launch 0 0).map (fun l => l.header.ncrew) = some 1 ∧
    ReadsBytes (tabled.setS 1 255) 5 0x200#64 8 [255#8, 3#8, 0#8, 0#8, 0#8, 0#8, 0#8, 0#8] (readOf (tabled.setS 1 255) 5 0x200#64 8) ∧
    crewLimit 1 [255#8, 3#8, 0#8, 0#8, 0#8, 0#8, 0#8, 0#8] 255 = some 3 ∧
    (1 : Nat) < 3 ∧
    0 ∈ (tabled.setS 1 255).ranksHeld 255 ∧
    1 ∉ (tabled.setS 1 255).ranksHeld 255 ∧
    (tabled.setS 1 255).myJob.crews.length < 4 ∧
    (onNext (exec (.crewJoin 3 1) (tabled.setS 1 255)) fun t => t.sreg 3 == 1#64 && t.myJob.crews == [⟨255, 1⟩]) = true ∧
    CrewLimit (tabled.setS 1 255) (readOf (tabled.setS 1 255) 5 0x200#64 8) 255 (some 3) ∧
    (readOf (tabled.setS 1 255) 5 0x200#64 8).myJob = (tabled.setS 1 255).myJob ∧
    255 < ((tabled.setS 1 256).sreg 1).toNat ∧
    WritesScalar (tabled.setS 1 256) (.crewJoin 3 1) 3 (BitVec.allOnes 64) ∧
    (onNext (exec (.crewInfo 3 1 2) ((tabled.setS 1 255).setS 2 2)) fun t => t.sreg 3 == 3#64) = true ∧
    WritesScalar ((tabled.setS 1 256).setS 2 2) (.crewInfo 3 1 2) 3 0#64 := by and_intros <;> first | decide +kernel | exact gives_eq (by decide +kernel) | exact reads_eq (by decide +kernel) | exact crewLimit_tabled 255 (by decide) (some 3) (by decide +kernel) (by decide +kernel) | rfl

/-- The same with a table without entry 9, with three jobs in crew 255, and with the job itself in four crews. -/
def crewFull : State := { tabled with jobs := (List.range 3).map fun k => { ctl.myJob with id := ⟨0, 0, k + 1⟩, crews := [⟨255, k⟩] } }
def crewMany : State := { tabled with myJob := { tabled.myJob with crews := (List.range 4).map fun k => ⟨k, 0⟩ } }

theorem witness_CrewForms_refused :
    CrewLimit (tabled.setS 1 9) (readOf (tabled.setS 1 9) 5 0x200#64 8) 9 none ∧
    (onNext (exec (.crewJoin 3 1) (tabled.setS 1 9)) fun t => t.sreg 3 == 0xFFFFFFFFFFFFFFFF#64 && t.myJob.crews == []) = true ∧
    (onNext (exec (.crewInfo 3 1 2) ((tabled.setS 1 9).setS 2 2)) fun t => t.sreg 3 == 0#64) = true ∧
    (∀ q < 3, q ∈ (crewFull.setS 1 255).ranksHeld 255) ∧
    (onNext (exec (.crewJoin 3 1) (crewFull.setS 1 255)) fun t => t.sreg 3 == 0xFFFFFFFFFFFFFFFE#64) = true ∧
    4 ≤ (readOf (crewMany.setS 1 255) 5 0x200#64 8).myJob.crews.length ∧
    1 ∉ (crewMany.setS 1 255).ranksHeld 255 ∧
    (onNext (exec (.crewJoin 3 1) (crewMany.setS 1 255)) fun t => t.sreg 3 == 0xFFFFFFFFFFFFFFFD#64) = true :=
  ⟨crewLimit_tabled 9 (by decide) none (by decide +kernel) (by decide +kernel), by and_intros <;> decide +kernel⟩

theorem witness_CrewForms_none :
    InJob (ctl.setS 1 9) ∧
    (ctl.setS 1 9).myJob.rankIn ((ctl.setS 1 9).sreg 1).toNat = none ∧
    WritesScalar (ctl.setS 1 9) (.crewLeave 3 1) 3 1#64 ∧
    WritesScalar (ctl.setS 1 9) (.crewInfo 3 1 2) 3 (BitVec.allOnes 64) ∧
    mgm.isMgmt = true ∧
    TrapsIllegal mgm (.crewJoin 3 1) :=
  ⟨rfl,
    by decide +kernel,
    gives_eq (by decide +kernel),
    gives_eq (by decide +kernel),
    by decide +kernel,
    gives_eq (by decide +kernel)⟩

/-- The control stream with a word in its own pool at offset 64. -/
def barrier (v : Nat) : State := (ctl.setS 1 64).poolWrite probeId 64 (leBytes 8 v)

/-- The last of two arrivals: expected 2, one arrived, generation 0xFFFF, which wraps to 0. -/
theorem witness_BarrierForms_arrive :
    PoolReady (barrier 0xFFFF000200000001) (barrier 0xFFFF000200000001) 0 64#64 8 .atomic probeId 64 ∧
    ReleaseReady (barrier 0xFFFF000200000001) 5 ∧
    (barrier 0xFFFF000200000001).me.frag.wait = .running ∧
    (onNext (exec (.barArr 3 1 0) (barrier 0xFFFF000200000001)) fun t => t.sreg 3 == 0xFFFF#64 && t.poolNat probeId 64 8 == 0x0000000200000000) = true ∧
    (onNext (exec (.barAw 3 1 0) (barrier 0xFFFF000200000001)) fun t => t.sreg 3 == 0#64 && t.pc == 4#64) = true ∧
    (onNext (exec (.barAw 3 1 0) (barrier 0x0007000200000000)) fun t => t.me.frag.wait == .barrier 7#16 probeId && t.pc == 0#64) = true :=
  ⟨⟨by decide +kernel, ok_eq (by decide +kernel)⟩,
    by unfold ReleaseReady; decide +kernel,
    by decide +kernel,
    by decide +kernel,
    by decide +kernel,
    by decide +kernel⟩

theorem witness_BarrierForms_wait :
    PoolReady (barrier 0x0001000200000000) (barrier 0x0001000200000000) 0 64#64 8 .read probeId 64 ∧
    ((barrier 0x0001000200000000).barrierWord probeId 64).extractLsb' 48 16 ≠ ((barrier 0x0001000200000000).sreg 3).extractLsb' 0 16 ∧
    (onNext (exec (.barWait 3 1 0) (barrier 0x0001000200000000)) fun t => t.sreg 3 == 1#64) = true ∧
    PoolReady (barrier 0) (barrier 0) 0 64#64 8 .read probeId 64 ∧
    ((barrier 0).barrierWord probeId 64).extractLsb' 48 16 = ((barrier 0).sreg 3).extractLsb' 0 16 ∧
    (onNext (exec (.barWait 3 1 0) (barrier 0)) fun t => t.me.frag.wait == .barrier 0#16 probeId) = true ∧
    split.me.isVector = true ∧
    split.me.whole = false ∧
    TrapsIllegal split (.barWait 3 1 0) :=
  ⟨⟨by decide +kernel, ok_eq (by decide +kernel)⟩,
    by decide +kernel,
    by decide +kernel,
    ⟨by decide +kernel, ok_eq (by decide +kernel)⟩,
    by decide +kernel,
    by decide +kernel,
    by decide +kernel,
    by decide +kernel,
    gives_eq (by decide +kernel)⟩

theorem witness_BarrierForms_word :
    ((0x0000000100000000#64 : BitVec 64).extractLsb' 32 16).toNat ≤ ((0x0000000100000000#64 : BitVec 64).extractLsb' 0 32).toNat + 1 ∧
    arrivedWord 0x0000000100000000#64 = 0x0001000100000000#64 ∧
    ((0x0000000200000000#64 : BitVec 64).extractLsb' 0 32).toNat + 1 < ((0x0000000200000000#64 : BitVec 64).extractLsb' 32 16).toNat ∧
    arrivedWord 0x0000000200000000#64 = 0x0000000200000001#64 := by and_intros <;> decide +kernel

/-- A count that saturates, and one that a wait of 1 (from 0) takes to zero. -/
theorem witness_SemaphoreForms :
    PoolReady ((barrier 0xFFFFFFFF).setS 3 5) ((barrier 0xFFFFFFFF).setS 3 5) 0 64#64 4 .atomic probeId 64 ∧
    ReleaseReady ((barrier 0xFFFFFFFF).setS 3 5) 1 ∧
    (onNext (exec (.semAdd 3 1 0) ((barrier 0xFFFFFFFF).setS 3 5)) fun t => t.poolNat probeId 64 4 == 0xFFFFFFFF && t.pc == 4#64) = true ∧
    PoolReady (barrier 1) (barrier 1) 0 64#64 4 .atomic probeId 64 ∧
    (barrier 1).behind (semTicket 64) = false ∧
    max (bitsOf ((barrier 1).sreg 3) 31 0) 1 ≤ (barrier 1).poolNat probeId 64 4 ∧
    (onNext (exec (.semWait 3 1) (barrier 1)) fun t => t.poolNat probeId 64 4 == 0 && t.sreg 3 == 0#64) = true ∧
    TrapsIllegal split (.semWait 3 1) :=
  ⟨⟨by decide +kernel, ok_eq (by decide +kernel)⟩,
    by unfold ReleaseReady; decide +kernel,
    by decide +kernel,
    ⟨by decide +kernel, ok_eq (by decide +kernel)⟩,
    by decide +kernel,
    by decide +kernel,
    by decide +kernel,
    gives_eq (by decide +kernel)⟩

/-- The control stream beside job 1 of its launch, which is resident on core 1. -/
def twoJobs : State :=
  { ctl with
    sch := { ctl.sch with launches := [launch0 2] }
    myJob := { ctl.myJob with crews := [⟨9, 2⟩], current := some 9 }
    jobs := [{ ctl.myJob with id := ⟨0, 0, 1⟩, core := some 1, crews := [⟨9, 1⟩], current := some 9 }] }

theorem witness_SemaphoreForms_ring :
    InJob ((twoJobs.setS 1 1).setS 2 0xFFF8) ∧
    (namedJob ((twoJobs.setS 1 1).setS 2 0xFFF8) 0 0 1).map (fun x => x.2.1) = some ⟨0, 0, 1⟩ ∧
    (0xFFF8 : Nat) + 4 ≤ (launch0 2).grant ∧
    ReleaseReady ((twoJobs.setS 1 1).setS 2 0xFFF8) 5 ∧
    (onNext (exec (.semAddRing 3 1 2) (((twoJobs.setS 1 1).setS 2 0xFFF8).setS 3 4)) fun t => t.poolNat ⟨0, 0, 1⟩ 0xFFF8 4 == 4) = true :=
  ⟨rfl,
    by decide +kernel,
    by decide +kernel,
    by unfold ReleaseReady; decide +kernel,
    by decide +kernel⟩

/-- A supervisor's stream whose pages are held, with job 1 beside it, a stream of which is parked at time 7 for replay; its
record stands at 0x400. -/
def serviced : State :=
  let s := paged twoJobs
  let st := Stream.start ⟨.job ⟨0, 0, 1⟩, 0⟩ .control (BitVec.allOnes 128) 0x10#64
  let r : FaultRecord := { faultRecord ctl { cause := causeTranslation } 0 with job := 1, strmid := 0, coreid := 1, time := 7#64 }
  { s with
    myJob := { s.myJob with sup := true }
    streams := [{ st with frag := { st.frag with parked := some ⟨0, 7#64, 0, false, 0⟩ } }]
    mm := { s.mm with mem := cellsSet s.mm.mem 0x400 (recordBytes r) } }

theorem witness_ServiceForms_resume :
    (serviced.setS 1 0x400).priv ≠ 0 ∧
    ((serviced.setS 1 0x400).sreg 1).toNat % 128 = 0 ∧
    ReadsBytes (serviced.setS 1 0x400) 5 0x400#64 128 (cellsGet serviced.mm.mem 0x400 128) (readOf (serviced.setS 1 0x400) 5 0x400#64 128) ∧
    recordPart serviced (parseNamed (cellsGet serviced.mm.mem 0x400 128)) = serviced.part ∧
    mgmtOf (parseNamed (cellsGet serviced.mm.mem 0x400 128)).coreid = none ∧
    ReleaseReady (serviced.setS 1 0x400) 5 ∧
    (parseNamed (cellsGet serviced.mm.mem 0x400 128)).disp ≤ 1 ∧
    (namedJob (serviced.setS 1 0x400) 0 0 1).map (fun x => x.2.1) = some ⟨0, 0, 1⟩ ∧
    ((serviced.stream ⟨.job ⟨0, 0, 1⟩, 0⟩).bind fun st => st.parkedUnder (parseNamed (cellsGet serviced.mm.mem 0x400 128))) = some (0, 0) ∧
    (onNext (exec (.resume 3 1) (serviced.setS 1 0x400)) fun t => t.sreg 3 == 0#64 && ((t.stream ⟨.job ⟨0, 0, 1⟩, 0⟩).map fun st => st.frag.parked) == some none) = true :=
  ⟨by decide +kernel,
    by decide +kernel,
    bytes_eq (by decide +kernel),
    by decide +kernel,
    by decide +kernel,
    by unfold ReleaseReady; decide +kernel,
    by decide +kernel,
    by decide +kernel,
    by decide +kernel,
    by decide +kernel⟩

theorem witness_ServiceForms_kill :
    ((namedJob (serviced.setS 1 0x400) 0 0 1).bind fun x => x.2.2.map fun j => (j.hardStop, j.killWanted, decide (j.state = .suspended))) = some (false, false, false) ∧
    ((postKill (stopJob (serviced.setS 1 0x400) ⟨0, 0, 1⟩) (serviced.jobs.headD Job.none)).me.ofJob ⟨0, 0, 1⟩) = false ∧
    (onNext (exec (.kill 3 1) (serviced.setS 1 0x400)) fun t => t.sreg 3 == 0#64 && t.sch.records.length == 1) = true ∧
    ctl.priv = 0 ∧
    TrapsIllegal ctl (.resume 3 1) ∧
    TrapsIllegal ctl (.tlbi 1 2 0) :=
  ⟨by decide +kernel,
    by decide +kernel,
    by decide +kernel,
    by decide +kernel,
    gives_eq (by decide +kernel),
    gives_eq (by decide +kernel)⟩

theorem witness_ServiceForms_tlbi :
    InJob (serviced.setS 1 0x10000) ∧
    (serviced.setS 1 0x10000).priv ≠ 0 ∧
    tlbiReserved 0x10000#64 = false ∧
    1 ≤ tlbiScope 0x10000#64 ∧
    ((serviced.setS 1 0x10000).sreg 2).toNat < 2 ^ 57 ∧
    (serviced.setS 1 0x10000).sreg 0 = 0#64 ∧
    (serviced.setS 1 0x10000).me.frag.wait = .running ∧
    (onNext (exec (.tlbi 1 2 0) (serviced.setS 1 0x10000)) fun t => t.pc == 0#64 && t.me.frag.wait == .shootdown 0 && t.mm.tlbi == [(.core 0, 0, 0, 0, 2 ^ 57)]) = true ∧
    ((serviced.setS 1 0x10000).waitFor (.shootdown 4)).me.frag.wait = .shootdown 4 ∧
    ((∀ t ∈ serviced.mm.tlbi, t.2 ≠ (0, tlbiCtx 0x10000#64, 0, 2 ^ 57))) ∧
    (onNext (exec (.tlbi 1 2 0) ((serviced.setS 1 0x10000).waitFor (.shootdown 4))) fun t => t.pc == 4#64) = true := by and_intros <;> first | decide +kernel | rfl

/-- Page tables for contexts 0 of partition 0: the context table at 0x10000, and tables at 0x11000, 0x12000 and 0x13000 whose
first entries lead to leaves of 1 GiB, one for each aperture as in `paged`. -/
def walked (s : State) : State :=
  let m := cellsSet s.mm.mem 0x10000 (leBytes 8 0x11001)
  let m := cellsSet m 0x11000 (leBytes 8 0x12001)
  let m := cellsSet m 0x12000 (leBytes 8 0x13001)
  let m := cellsSet m 0x13000 (leBytes 8 (leafOf 1).toNat ++ leBytes 8 (leafOf 3).toNat)
  { (s.setReg (memReg 0x100) 0x10000#64).setReg (prtReg 0x080) 0xFFFFFFFF00000000#64 with mm := { s.mm with mem := m } }

/-- A packet of one job with its image at 0x800, and the header of an image with a control section of one word. -/
def packetBytes : List Byte :=
  leBytes 8 1 ++ leBytes 8 0x800 ++ leBytes 16 0 ++ leBytes 4 1 ++ leBytes 32 0 ++ [0xFF#8, 0xFF#8] ++ List.replicate 58 0#8

def headerBytes : List Byte :=
  dkiMagic ++ [1#8, 0#8, 1#8, 0#8] ++ leBytes 4 1 ++ leBytes 4 0x100 ++ leBytes 4 4 ++ List.replicate 232 0#8

/-- The walk that an access of a die's units missed has ended. -/
def walkEnded (s : State) (die va : Nat) : State :=
  { s with mm := { s.mm with
      misses := [⟨die, unitWho die, 0, 0, va, true, .read, some (walkEnd s die 0 0 va).leaf?, s.time.ticks⟩] } }

/-- The supervisor's view: core 0 holds page 0, the packet stands at 0x400 and the header at 0x800. -/
def launching : State :=
  let s := walkEnded (walked (paged ctl)) 0 0x800
  { s with mm := { s.mm with mem := cellsSet (cellsSet s.mm.mem 0x400 packetBytes) 0x800 headerBytes } }.setS 1 0x400

/-- After the packet is read; in whose name the image is; and after that. -/
def launchU : State := readOf launching 5 0x400#64 128
def launchVia : Via := { (parsePacket 0 packetBytes).via with strm := launchU.me.id, op := launchU.fragOp }
def launchV : State := (readVia launchU launchVia 0x800#64 256).2

theorem witness_LaunchForms_launch :
    (0#6 : SReg) = 0#6 ∧
    (launching.sreg 1).toNat % 128 = 0 ∧
    ReadsBytes launching 5 0x400#64 128 packetBytes launchU ∧
    packetFormOk packetBytes = true ∧
    packetQueueOk launchU 0 (parsePacket 0 packetBytes) = true ∧
    1 ≤ (parsePacket 0 packetBytes).jobs ∧
    (parsePacket 0 packetBytes).jobs ≤ 2 ^ 24 ∧
    (parsePacket 0 packetBytes).kimage.toNat % 256 = 0 ∧
    readVia launchU launchVia 0x800#64 256 = (.ok headerBytes, launchV) ∧
    headerOk headerBytes false = true ∧
    granules (headerPword headerBytes) (parseHeader headerBytes).nvec ≤ poolSize false ∧
    recNat packetBytes 0x48 8 = 0 ∧
    (parsePacket 0 packetBytes).hasCells = false ∧
    queueOpen launchV 0 0 = true ∧
    ReleaseReady launchV 5 ∧
    (onNext (exec (.launch 3 1 0) launching) fun t => t.sreg 3 == 0#64 && t.sch.launches.length == 1 && t.sys.launched) = true :=
  ⟨by decide +kernel,
    by decide +kernel,
    bytes_eq (by decide +kernel),
    by decide +kernel,
    by decide +kernel,
    by decide +kernel,
    by decide +kernel,
    by decide +kernel,
    reads_eq (by decide +kernel),
    by decide +kernel,
    by decide +kernel,
    by decide +kernel,
    by decide +kernel,
    by decide +kernel,
    by unfold ReleaseReady; decide +kernel,
    by decide +kernel⟩

/-- The packet with other bytes from an offset on; what LAUNCH answers to it, and to an image with another header. -/
def packetWith (off : Nat) (bs : List Byte) : List Byte := packetBytes.take off ++ bs ++ packetBytes.drop (off + bs.length)
def launchAnswers (p h : List Byte) (n : Word) : Bool :=
  onNext (exec (.launch 3 1 0) { launching with mm := { launching.mm with
    mem := cellsSet (cellsSet launching.mm.mem 0x400 p) 0x800 h } }) fun t => t.sreg 3 == n && t.sch.launches == []

theorem witness_LaunchForms_statuses :
    packetFormOk (packetWith 4 [64#8]) = true ∧ packetQueueOk launchU 0 (parsePacket 0 (packetWith 4 [64#8])) = false ∧
    launchAnswers (packetWith 4 [64#8]) headerBytes 2 = true ∧
    (parsePacket 0 (packetWith 32 [0#8])).jobs = 0 ∧ launchAnswers (packetWith 32 [0#8]) headerBytes 3 = true ∧
    (parsePacket 0 (packetWith 32 (leBytes 4 (2 ^ 24 + 1)))).jobs = 2 ^ 24 + 1 ∧
    launchAnswers (packetWith 32 (leBytes 4 (2 ^ 24 + 1))) headerBytes 3 = true ∧
    (parsePacket 0 (packetWith 8 [128#8])).kimage.toNat % 256 ≠ 0 ∧ launchAnswers (packetWith 8 [128#8]) headerBytes 4 = true ∧
    headerOk (0#8 :: headerBytes.drop 1) false = false ∧ launchAnswers packetBytes (0#8 :: headerBytes.drop 1) 4 = true ∧
    poolSize false < granules 0x00810000#32 0 ∧ launchAnswers (packetWith 36 [0#8, 0#8, 129#8, 0#8]) headerBytes 5 = true ∧
    recNat (packetWith 0x48 [32#8]) 0x48 8 % 64 ≠ 0 ∧ launchAnswers (packetWith 0x48 [32#8]) headerBytes 6 = true ∧
    (parsePacket 0 (packetWith 2 [8#8])).hasCells = true ∧ launchAnswers (packetWith 2 [8#8]) headerBytes 7 = true := by and_intros <;> decide +kernel

theorem witness_LaunchForms_full :
    queueOpen { launchV with sch := { launchV.sch with launches := List.replicate 64 (launch0 1) } } 0 0 = false ∧
    (onNext (exec (.launch 3 1 0) { launching with sch := { launching.sch with launches := List.replicate 64 (launch0 1) } }) fun t =>
      t.sreg 3 == 8#64 && t.sch.launches.length == 64) = true := by and_intros <;> decide +kernel

theorem witness_LaunchForms_refused :
    packetFormOk (List.replicate 128 0#8) = false ∧
    ReadsBytes ((paged ctl).setS 1 0x400) 5 0x400#64 128 (List.replicate 128 0#8) (readOf ((paged ctl).setS 1 0x400) 5 0x400#64 128) ∧
    (onNext (exec (.launch 3 1 0) ((paged ctl).setS 1 0x400)) fun t => t.sreg 3 == 1#64) = true ∧
    ctl.isMgmt = false ∧
    (2#6 : SReg) ≠ 0#6 ∧
    TrapsIllegal ctl (.launch 3 1 2) ∧
    TrapsIllegal ctl (.govqMark 2) := by and_intros <;> first | decide +kernel | exact gives_eq (by decide +kernel) | exact reads_eq (by decide +kernel)

theorem witness_LaunchForms_query :
    checkAccess (ctl.setS 1 0xFFF0) ⟨.scratch, .write, 16, 16, false⟩ [(0, 0xFFF0#64)] = .ok (ctl.setS 1 0xFFF0, [(0, .pool probeId 0xFFF0)]) ∧
    (ctl.setS 1 0xFFF0).myJob.queries < 16 ∧
    (onNext (exec (.wqry 1 3) (ctl.setS 1 0xFFF0)) fun t => t.myJob.queries == 1 && t.agenda == [.event .chuteQuery { job := probeId, a := 0xFFF0, b := 3, c := 1 }]) = true ∧
    Traps mgm (.wqry 1 3) (accessFault ⟨.scratch, .write, 16, 16, false⟩ causePermission 0#64) :=
  ⟨ok_eq (by decide +kernel),
    by decide +kernel,
    by decide +kernel,
    gives_eq (by decide +kernel)⟩

/-- A frame record at 0x400: sixteen steps, at least one. -/
def framed : State :=
  let s := paged ctl
  { s with mm := { s.mm with mem := cellsSet s.mm.mem 0x410 [16#8, 1#8] } }.setS 1 0x400

theorem witness_LaunchForms_frames :
    (framed.sreg 1).toNat % 64 = 0 ∧
    ReadsBytes framed 5 0x400#64 64 (cellsGet framed.mm.mem 0x400 64) (readOf framed 5 0x400#64 64) ∧
    (framed.governor framed.part).opened = false ∧
    frameOk (cellsGet framed.mm.mem 0x400 64) = true ∧
    (onNext (exec (.govqOpen 3 1 0) framed) fun t => t.sreg 3 == 0#64 && (t.governor 0).opened) = true ∧
    Completes ctl (.govqMark 0) (markFrame ctl 0).advance :=
  ⟨by decide +kernel,
    bytes_eq (by decide +kernel),
    by decide +kernel,
    by decide +kernel,
    by decide +kernel,
    gives_eq (by decide +kernel)⟩

/-- Job 1 beside the stream has inbound port 2 of depth 4, unbound. -/
def ported : State := { twoJobs with jobs := twoJobs.jobs.map fun j => { j with inPorts := [⟨2, 4, 0, none, 0, false, []⟩] } }

/-- Bound to it, with four credits. -/
def bound : State := { ported with myJob := { ported.myJob with outPorts := [⟨0, ⟨0, 0, 1⟩, 2, 4, 0⟩] } }

theorem witness_LinkForms_in :
    (ctl.setS 1 0x0000F00000002003#64).myJob.inPort 3 = none ∧
    bitsOf 0x0000F00000002003#64 13 8 % 4 = 0 ∧
    bitsOf 0x0000F00000002003#64 13 8 ≤ 32 ∧
    bitsOf 0x0000F00000002003#64 63 32 + 128 * bitsOf 0x0000F00000002003#64 13 8 ≤ ctl.myJob.grant ∧
    (onNext (exec (.qbindIn 3 1) (ctl.setS 1 0x0000F00000002003#64)) fun t => t.sreg 3 == 0#64 && t.myJob.inPorts == [⟨3, 32, 0xF000, none, 0, false, []⟩]) = true ∧
    4 ≤ bitsOf 0x0000FE0000000400#64 13 8 ∧
    bitsOf 0x0000FE0000000400#64 63 32 + 128 * bitsOf 0x0000FE0000000400#64 13 8 ≤ ctl.myJob.grant ∧
    (onNext (exec (.qbindIn 3 1) (ctl.setS 1 0x0000FE0000000400#64)) fun t => t.sreg 3 == 0#64) = true := by and_intros <;> decide +kernel

theorem witness_LinkForms_out :
    ((ported.setS 1 0x200).setS 2 1).myJob.outPort 0 = none ∧
    (((ported.setS 1 0x200).setS 2 1).peer 1).map (fun j => j.id) = some ⟨0, 0, 1⟩ ∧
    ((((ported.setS 1 0x200).setS 2 1).peer 1).bind fun j => j.inPort 2) = some ⟨2, 4, 0, none, 0, false, []⟩ ∧
    (onNext (exec (.qbindOut 3 1 2) ((ported.setS 1 0x200).setS 2 1)) fun t => t.sreg 3 == 0#64 && t.myJob.outPorts == [⟨0, ⟨0, 0, 1⟩, 2, 4, 0⟩]) = true ∧
    bound.myJob.outPort 0 = some ⟨0, ⟨0, 0, 1⟩, 2, 4, 0⟩ ∧
    WritesScalar bound (.qbindOut 3 1 2) 3 1#64 ∧
    (bound.sreg 1).getLsbD 2 = false ∧
    WritesScalar bound (.qbindQ 3 1) 3 4#64 ∧
    (onNext (exec (.qbindUn 3 1) bound) fun t => t.sreg 3 == 0#64) = true ∧
    ctl.myJob.outPort 0 = none ∧
    WritesScalar ctl (.qbindUn 3 1) 3 1#64 ∧
    WritesScalar ctl (.qbindQ 3 1) 3 (BitVec.allOnes 64) := by and_intros <;> first | decide +kernel | exact gives_eq (by decide +kernel)

/-- The same on a vector stream, with an inbound port that holds four entries. -/
def boundVec : State :=
  { vec with
    sch := bound.sch, jobs := bound.jobs
    myJob := { bound.myJob with sections := vec.myJob.sections, inPorts := [⟨1, 4, 0, none, 0, false, [1#1024, 2#1024, 3#1024, 4#1024]⟩] } }

/-- The same with the link ended by its sender, and a byte in the save area of the port. -/
def boundEnd : State :=
  { boundVec with myJob := { boundVec.myJob with
      inPorts := boundVec.myJob.inPorts.map fun p => { p with ended := true }, scratch := cellsSet [] 511 [7#8] } }

theorem witness_LinkForms_move :
    boundVec.me.whole = true ∧
    boundVec.myJob.outPort 0 = some ⟨0, ⟨0, 0, 1⟩, 2, 4, 0⟩ ∧
    (boundVec.job ⟨0, 0, 1⟩).map (fun j => j.away) = some false ∧
    (onNext (exec (.qsend 0 5) boundVec) fun t => t.myJob.ext && t.myJob.outPorts == [⟨0, ⟨0, 0, 1⟩, 2, 0, 0⟩]) = true ∧
    4 ≤ ((boundVec.myJob.inPort 1).map fun i => i.entries.length).getD 0 ∧
    (onNext (exec (.qrecv 5 1) boundVec) fun t => laneOf (t.vreg 5) 32 == 2#32 && t.myJob.inPorts == [⟨1, 4, 0, none, 0, false, []⟩]) = true ∧
    (boundVec.myJob.inPort 1).map (fun i => i.ended) = some false ∧
    boundEnd.myJob.state ≠ .done ∧
    boundEnd.linkInFlight probeId 1 0 = false ∧
    (onNext (exec (.qrecv 5 1) boundEnd) fun t => laneOf (t.vreg 5) 32 == 2#32 && t.myJob.inPorts == [] && cellGet t.myJob.scratch 511 == 0#8) = true ∧
    split.me.whole = false ∧
    TrapsIllegal split (.qsend 0 5) := by and_intros <;> first | decide +kernel | exact gives_eq (by decide +kernel)

/-! ### Witnesses: memory -/

/-- A job's stream whose pages are held, with eight bytes at 0x100 of the device and of the host. -/
def memo : State :=
  let s := paged ctl
  { s with mm := { s.mm with mem := cellsSet [] 0x100 (leBytes 8 0x8877665544332211), hostMem := cellsSet [] 0x100 (leBytes 8 0xF0) } }

/-- The same with the other job of its launch, a member of its crew. -/
def memo2 : State := { memo with sch := twoJobs.sch, jobs := twoJobs.jobs, myJob := twoJobs.myJob }

/-- The same without holding the crew itself. -/
def memo3 : State := { memo2 with myJob := memo.myJob }

/-- LD through aperture 1, sign-extended, at the most negative offset. -/
theorem witness_ScalarLoads_slice :
    Single (memo.setS 1 0x184) (memo.setS 1 0x184) (globalReq .read 4) ((memo.setS 1 0x184).offsetAddr 1 0x20 2) (.mem ⟨1, 0x104, false, 0⟩) ∧
    Readable (memo.setS 1 0x184) 5 4 (.mem ⟨1, 0x104, false, 0⟩) ∧
    (onNext (exec (.ld 3 1 0x20 2 1 0 5) (memo.setS 1 0x184)) fun t => t.sreg 3 == 0xFFFFFFFF88776655#64 && t.pc == 4#64) = true ∧
    inRegs 0x104 = false :=
  ⟨single_eq (by decide +kernel),
    by unfold Readable; decide +kernel,
    by decide +kernel,
    by decide +kernel⟩

/-- LD from host memory, acquiring, and through the caches. -/
theorem witness_ScalarLoads_host :
    Single (memo.setS 1 0x40000100) (memo.setS 1 0x40000100) (globalReq .read 8) 0x40000100#64 (.mem ⟨3, 0x100, false, 0⟩) ∧
    Readable (memo.setS 1 0x40000100) 6 8 (.mem ⟨3, 0x100, false, 0⟩) ∧
    (onNext (exec (.ld 3 1 0 3 0 1 6) (memo.setS 1 0x40000100)) fun t => t.sreg 3 == 0xF0#64) = true ∧
    Single (memo.setS 1 0xC0000100) (memo.setS 1 0xC0000100) (globalReq .read 8) 0xC0000100#64 (.mem ⟨0, 0x100, false, 0⟩) ∧
    Readable (memo.setS 1 0xC0000100) 1 8 (.mem ⟨0, 0x100, false, 0⟩) ∧
    (onNext (exec (.ld 3 1 0 3 0 0 1) (memo.setS 1 0xC0000100)) fun t => t.sreg 3 == 0x8877665544332211#64 && t.mm.l1Clean.length == 8 && t.mm.cluClean.length == 8) = true :=
  ⟨single_eq (by decide +kernel),
    by unfold Readable; decide +kernel,
    by decide +kernel,
    single_eq (by decide +kernel),
    by unfold Readable; decide +kernel,
    by decide +kernel⟩

theorem witness_ScalarLoads_pools :
    Single (memo2.setS 1 0xFFFF) (memo2.setS 1 0xFFFF) (poolReq .scratch .read 1) 0xFFFF#64 (.pool probeId 0xFFFF) ∧
    Readable (memo2.setS 1 0xFFFF) 1 1 (.pool probeId 0xFFFF) ∧
    (onNext (exec (.ldx 3 1 0 0 0) (memo2.setS 1 0xFFFF)) fun t => t.sreg 3 == 0#64) = true ∧
    Single ((memo2.setS 1 0xFFF8).setS 2 1) ((memo2.setS 1 0xFFF8).setS 2 1) (poolReq (.peer 1) .read 8) 0xFFF8#64 (.pool ⟨0, 0, 1⟩ 0xFFF8) ∧
    Readable ((memo2.setS 1 0xFFF8).setS 2 1) 5 8 (.pool ⟨0, 0, 1⟩ 0xFFF8) ∧
    (onNext (exec (.ldxPeer 3 1 2 3 0 0) ((memo2.setS 1 0xFFF8).setS 2 1)) fun t => t.sreg 3 == 0#64) = true :=
  ⟨single_eq (by decide +kernel),
    by unfold Readable; decide +kernel,
    by decide +kernel,
    single_eq (by decide +kernel),
    by unfold Readable; decide +kernel,
    by decide +kernel⟩

theorem witness_ScalarLoads_remote :
    Single (memo.setS 1 0x100000040) (memo.setS 1 0x100000040) (globalReq .read 8) 0x100000040#64 (.mem ⟨4, 0x40, false, 5⟩) ∧
    (3#6 : SReg) ≠ 0#6 ∧
    (onNext (exec (.ld 3 1 0 3 0 0 5) (memo.setS 1 0x100000040)) fun t => t.me.flights == [0] && t.me.pending == [.s 3]) = true :=
  ⟨single_eq (by decide +kernel),
    by decide +kernel,
    by decide +kernel⟩

theorem witness_ScalarLoads_misaligned :
    NoArm (memo.setS 1 0x101) ∧
    (memo.setS 1 0x101).mustWait [(0, 0x101#64)] = false ∧
    (0x101#64).toNat % 2 ≠ 0 ∧
    Traps (memo.setS 1 0x101) (.ld 3 1 0 1 0 0 5) (accessFault (globalReq .read 2) causeAlignment 0x101#64) ∧
    Traps (memo.setS 1 0x101) (.st 3 1 0 1 0 5) (accessFault (globalReq .write 2) causeAlignment 0x101#64) :=
  ⟨rfl,
    by decide +kernel,
    by decide +kernel,
    gives_eq (by decide +kernel),
    gives_eq (by decide +kernel)⟩

theorem witness_LoadFrame :
    (⟨1, 0x100, false, 0⟩ : Place).isReg = false ∧
    (Spot.mem ⟨1, 0x100, false, 0⟩).remote = false ∧
    Single (memo.setS 1 0x100) (memo.setS 1 0x100) (globalReq .read 8) 0x100#64 (.mem ⟨1, 0x100, false, 0⟩) ∧
    Readable (memo.setS 1 0x100) 5 8 (.mem ⟨1, 0x100, false, 0⟩) ∧
    exec (.ld 3 1 0 3 0 0 5) (memo.setS 1 0x100) = .next (loaded (memo.setS 1 0x100) 3 5 8 (.mem ⟨1, 0x100, false, 0⟩) false false) :=
  ⟨by decide +kernel,
    by decide +kernel,
    single_eq (by decide +kernel),
    by unfold Readable; decide +kernel,
    gives_eq (by decide +kernel)⟩

theorem witness_ScalarStores_slice :
    Single ((memo.setS 1 0x104).setS 3 0xABCD) ((memo.setS 1 0x104).setS 3 0xABCD) (globalReq .write 2) 0x104#64 (.mem ⟨1, 0x104, false, 0⟩) ∧
    Writable ((memo.setS 1 0x104).setS 3 0xABCD) 5 2 (.mem ⟨1, 0x104, false, 0⟩) ∧
    ReleaseReady ((memo.setS 1 0x104).setS 3 0xABCD) 5 ∧
    (onNext (exec (.st 3 1 0 1 1 5) ((memo.setS 1 0x104).setS 3 0xABCD)) fun t => cellsGet t.mm.mem 0x100 8 == [0x11#8, 0x22#8, 0x33#8, 0x44#8, 0xCD#8, 0xAB#8, 0x77#8, 0x88#8]) = true :=
  ⟨single_eq (by decide +kernel),
    by unfold Writable; decide +kernel,
    by unfold ReleaseReady; decide +kernel,
    by decide +kernel⟩

theorem witness_ScalarStores_pools :
    Single ((memo2.setS 1 0x10).setS 3 0xAB) ((memo2.setS 1 0x10).setS 3 0xAB) (poolReq .scratch .write 1) 0x10#64 (.pool probeId 0x10) ∧
    Writable ((memo2.setS 1 0x10).setS 3 0xAB) 1 1 (.pool probeId 0x10) ∧
    ReleaseReady ((memo2.setS 1 0x10).setS 3 0xAB) 1 ∧
    (onNext (exec (.stx 3 1 0 1) ((memo2.setS 1 0x10).setS 3 0xAB)) fun t => t.poolNat probeId 0x10 1 == 0xAB) = true ∧
    Single (((memo2.setS 1 0x10).setS 2 1).setS 3 0xAB) (((memo2.setS 1 0x10).setS 2 1).setS 3 0xAB) (poolReq (.peer 1) .write 1) 0x10#64 (.pool ⟨0, 0, 1⟩ 0x10) ∧
    Writable (((memo2.setS 1 0x10).setS 2 1).setS 3 0xAB) 5 1 (.pool ⟨0, 0, 1⟩ 0x10) ∧
    ReleaseReady (((memo2.setS 1 0x10).setS 2 1).setS 3 0xAB) 5 ∧
    (onNext (exec (.stxPeer 3 1 2 0 1) (((memo2.setS 1 0x10).setS 2 1).setS 3 0xAB)) fun t => t.poolNat ⟨0, 0, 1⟩ 0x10 1 == 0xAB) = true :=
  ⟨single_eq (by decide +kernel),
    by unfold Writable; decide +kernel,
    by unfold ReleaseReady; decide +kernel,
    by decide +kernel,
    single_eq (by decide +kernel),
    by unfold Writable; decide +kernel,
    by unfold ReleaseReady; decide +kernel,
    by decide +kernel⟩

/-- A store to each kind of place: a slice, the host, a buffered one, a pool. -/
theorem witness_StoreFrame :
    Single ((memo.setS 1 0x108).setS 3 7) ((memo.setS 1 0x108).setS 3 7) (globalReq .write 8) 0x108#64 (.mem ⟨1, 0x108, false, 0⟩) ∧
    Writable ((memo.setS 1 0x108).setS 3 7) 5 8 (.mem ⟨1, 0x108, false, 0⟩) ∧
    inRegs 0x108 = false ∧
    ((memo.setS 1 0x108).poisonedLine (0x108 / 128)) = false ∧
    ((memo.setS 1 0x108).uncommittedAt 0x108) = false ∧
    (onNext (exec (.st 3 1 0 3 0 5) ((memo.setS 1 0x108).setS 3 7)) fun t => cellsGet t.mm.mem 0x108 8 == leBytes 8 7 && cellsGet t.mm.mem 0x100 8 == leBytes 8 0x8877665544332211) = true ∧
    Single ((memo.setS 1 0x40000108).setS 3 7) ((memo.setS 1 0x40000108).setS 3 7) (globalReq .write 8) 0x40000108#64 (.mem ⟨3, 0x108, false, 0⟩) ∧
    (onNext (exec (.st 3 1 0 3 0 5) ((memo.setS 1 0x40000108).setS 3 7)) fun t => cellsGet t.mm.hostMem 0x108 8 == leBytes 8 7) = true ∧
    Single ((memo.setS 1 0xC0000108).setS 3 7) ((memo.setS 1 0xC0000108).setS 3 7) (globalReq .write 8) 0xC0000108#64 (.mem ⟨0, 0x108, false, 0⟩) ∧
    (⟨0, 0x108, false, 0⟩ : Place).isReg = false ∧
    (onNext (exec (.st 3 1 0 3 0 5) ((memo.setS 1 0xC0000108).setS 3 7)) fun t => decide (t.mm.mem = memo.mm.mem) && t.mm.wcb.length == 8) = true ∧
    Single ((memo.setS 1 0x80000108).setS 3 7) ((memo.setS 1 0x80000108).setS 3 7) (globalReq .write 8) 0x80000108#64 (.mem ⟨2, 0x108, false, 0⟩) :=
  ⟨single_eq (by decide +kernel),
    by unfold Writable; decide +kernel,
    by decide +kernel,
    by decide +kernel,
    by decide +kernel,
    by decide +kernel,
    single_eq (by decide +kernel),
    by decide +kernel,
    single_eq (by decide +kernel),
    by decide +kernel,
    by decide +kernel,
    single_eq (by decide +kernel)⟩

/-- An atomic at its slice over the loops, in the cluster cache, and at the host. -/
theorem witness_ScalarAtomics_slice :
    (6, true, Instr.atomMinu 3 1 2 3 5 0 1) ∈ scalarAtomics 3 1 2 3 5 0 1 ∧
    Single (memo.setS 1 0x100) (memo.setS 1 0x100) ⟨.global, .atomic, 8, 8, false⟩ 0x100#64 (.mem ⟨1, 0x100, false, 0⟩) ∧
    ReleaseReady (memo.setS 1 0x100) 5 ∧
    wayBlocked (clearWay (releaseAt (memo.setS 1 0x100) 0 5) ⟨1, 0x100, false, 0⟩ 5) ⟨1, 0x100, false, 0⟩ 5 = false ∧
    leavesCore ⟨1, 0x100, false, 0⟩ 5 = true ∧
    (onNext (exec (.atomMinu 3 1 2 3 5 0 1) (memo.setS 1 0x100)) fun t => t.me.pending == [.s 3] && t.me.flights.length == 1 && t.net.packets.length == 1 && t.myJob.ext) = true :=
  ⟨by decide +kernel,
    single_eq (by decide +kernel),
    by unfold ReleaseReady; decide +kernel,
    by decide +kernel,
    by decide +kernel,
    by decide +kernel⟩

theorem witness_ScalarAtomics_host :
    Single ((memo.setS 1 0x40000100).setS 2 5) ((memo.setS 1 0x40000100).setS 2 5) ⟨.global, .atomic, 4, 4, false⟩ 0x40000100#64 (.mem ⟨3, 0x100, false, 0⟩) ∧
    leavesCore ⟨3, 0x100, false, 0⟩ 6 = false ∧
    wayBlocked (clearWay ((memo.setS 1 0x40000100).setS 2 5) ⟨3, 0x100, false, 0⟩ 6) ⟨3, 0x100, false, 0⟩ 6 = false ∧
    (performHere (clearWay ((memo.setS 1 0x40000100).setS 2 5) ⟨3, 0x100, false, 0⟩ 6) ⟨3, 0x100, false, 0⟩ 6 0 4 5#64 0#64).1 = some 0xF0#64 ∧
    (onNext (exec (.atomAdd 3 1 2 0 6 0 0) ((memo.setS 1 0x40000100).setS 2 5)) fun t => t.sreg 3 == 0xF0#64 && cellsGet t.mm.hostMem 0x100 4 == leBytes 4 0xF5) = true :=
  ⟨single_eq (by decide +kernel),
    by decide +kernel,
    by decide +kernel,
    by decide +kernel,
    by decide +kernel⟩

theorem witness_ScalarAtomics_cluster :
    Single (memo.setS 1 0xC0000100) (memo.setS 1 0xC0000100) ⟨.global, .atomic, 8, 8, false⟩ 0xC0000100#64 (.mem ⟨0, 0x100, false, 0⟩) ∧
    leavesCore ⟨0, 0x100, false, 0⟩ 2 = false ∧
    wayBlocked (clearWay (memo.setS 1 0xC0000100) ⟨0, 0x100, false, 0⟩ 2) ⟨0, 0x100, false, 0⟩ 2 = false ∧
    (performHere (clearWay (memo.setS 1 0xC0000100) ⟨0, 0x100, false, 0⟩ 2) ⟨0, 0x100, false, 0⟩ 2 9 8 0#64 0#64).1 = some 0x8877665544332211#64 ∧
    (onNext (exec (.atomSwap 3 1 2 0 2 0 1) (memo.setS 1 0xC0000100)) fun t => t.sreg 3 == 0x8877665544332211#64 && t.mm.cluDirty.length == 8) = true :=
  ⟨single_eq (by decide +kernel),
    by decide +kernel,
    by decide +kernel,
    by decide +kernel,
    by decide +kernel⟩

/-- The line of the atomic is poisoned and its cluster cache holds nothing of it (R66, R102). -/
def poisoned : State := { memo with mm := { memo.mm with poison := [2] } }.setS 1 0xC0000100

theorem witness_ScalarAtomics_lost :
    Single poisoned poisoned ⟨.global, .atomic, 8, 8, false⟩ 0xC0000100#64 (.mem ⟨0, 0x100, false, 0⟩) ∧
    (performHere (clearWay poisoned ⟨0, 0x100, false, 0⟩ 2) ⟨0, 0x100, false, 0⟩ 2 9 8 0#64 0#64).1 = none ∧
    (onNext (exec (.atomSwap 3 1 2 0 2 0 1) poisoned) fun t => t.sch.records.map (fun r => r.record.cause) == [causeDataLost]) = true :=
  ⟨single_eq (by decide +kernel),
    by decide +kernel,
    by decide +kernel⟩

theorem witness_AtomicOperations :
    aopNew 4 true (BitVec.intMin 64) 1#64 0#64 = BitVec.intMin 64 ∧
    aopNew 6 true (BitVec.intMin 64) 1#64 0#64 = 1#64 ∧
    (5#64 : BitVec 64) = 5#64 ∧
    aopNew 10 true 5#64 9#64 5#64 = 9#64 ∧
    (5#64 : BitVec 64) ≠ 6#64 ∧
    aopNew 10 true 5#64 9#64 6#64 = 5#64 ∧
    aopNew 0 false 0xFFFFFFFF#64 1#64 0#64 = 0#64 := by and_intros <;> decide +kernel

/-- A core whose buffer and cluster cache hold a byte each, with clean copies of another. -/
def buffered : State :=
  { memo with mm := { memo.mm with
      wcb := [⟨0, memo.me.id, 0x180, 0xAA#8, 5, 0, false, 0⟩], cluDirty := [(0x181, 0xBB#8)], l1Clean := [(0x182, 1#8)], cluClean := [(0x182, 1#8)] } }

/-- Bytes that the core itself holds newer than a slice (R218): one in the buffer, one dirty in the cluster cache. -/
theorem witness_ScalarLoads_held :
    inRegs 0x180 = false ∧
    cachedByte buffered buffered.core 5 (0x180 + 0) = some 0xAA#8 ∧
    cachedByte buffered buffered.core 5 (0x180 + 1) = some 0xBB#8 ∧
    Single (buffered.setS 1 0x180) (buffered.setS 1 0x180) (globalReq .read 2) 0x180#64 (.mem ⟨1, 0x180, false, 0⟩) ∧
    (onNext (exec (.ld 3 1 0 1 0 0 5) (buffered.setS 1 0x180)) fun t => t.sreg 3 == 0xBBAA#64) = true ∧
    (∀ i < 8, cachedByte memo memo.core 5 (0x100 + i) = none) ∧
    (∀ i < 8, cachedByte memo memo.core 5 (hostLoc + 0x100 + i) = none) :=
  ⟨by decide +kernel,
    by decide +kernel,
    by decide +kernel,
    single_eq (by decide +kernel),
    by decide +kernel,
    by decide +kernel,
    by decide +kernel⟩

/-- A vector stream with its pages held; words at 0x1000 and 0x11FC; lane 127 of v1 holds 508. -/
def vmem : State :=
  let s := paged vec
  { s with mm := { s.mm with mem := cellsSet (cellsSet [] 0x1000 (leBytes 4 1)) 0x11FC (leBytes 4 128) } }.setV 1 ((508#4096) <<< 4064)

/-- With only lanes 0 and 127 active in p1, and the address 0x1000 in s1. -/
def vmem2 : State := let s := vmem.setS 1 0x1000; { s with me := s.me.setPred 1 0x80000000000000000000000000000001#128 }

def spots2 : List (Nat × Spot) := [(0, .mem ⟨1, 0x1000, false, 0⟩), (127, .mem ⟨1, 0x11FC, false, 0⟩)]

/-- A scatter of two lanes to a slice: the words between them stay. -/
theorem witness_StoreFrame_lanes :
    ([(0, 0x1000#64), (127, 0x11FC#64)], Instr.vscat 1 1 1 1 0 0 5) ∈ vectorStores vmem2 1 1 0 1 1 0 5 ∧
    Lanes vmem2 vmem2 ⟨vmem2.vectorSpace 1 0, .write, 4, 4, false⟩ 5 false [(0, 0x1000#64), (127, 0x11FC#64)] spots2 ∧
    (∀ y ∈ spots2, ∀ q, y.2 = .mem q → q.isReg = false) ∧
    (onNext (exec (.vscat 1 1 1 1 0 0 5) vmem2) fun t => cellsGet t.mm.mem 0x11F8 12 == leBytes 4 0 ++ leBytes 4 508 ++ leBytes 4 0) = true :=
  ⟨by decide +kernel,
    ⟨rfl, rfl, ⟨by decide +kernel, ok_eq (by decide +kernel)⟩, by decide +kernel⟩,
    by rintro y hy q h; simp only [spots2, List.mem_cons, List.not_mem_nil, or_false] at hy; rcases hy with rfl | rfl <;> (cases h; decide),
    by decide +kernel⟩

theorem witness_StoreFrame_superseded :
    Single ((buffered.setS 1 0x180).setS 3 7) ((buffered.setS 1 0x180).setS 3 7) (globalReq .write 2) 0x180#64 (.mem ⟨1, 0x180, false, 0⟩) ∧
    Writable ((buffered.setS 1 0x180).setS 3 7) 5 2 (.mem ⟨1, 0x180, false, 0⟩) ∧
    (onNext (exec (.st 3 1 0 1 0 5) ((buffered.setS 1 0x180).setS 3 7)) fun t => t.mm.wcb == [] && t.mm.cluDirty == [] && cellsGet t.mm.mem 0x180 2 == [7#8, 0#8]) = true :=
  ⟨single_eq (by decide +kernel),
    by unfold Writable; decide +kernel,
    by decide +kernel⟩

theorem witness_Fences :
    ReleaseReady buffered 5 ∧
    ReleaseReady buffered 2 ∧
    (onNext (exec (.fence 5) buffered) fun t => t.mm.wcb == [] && t.mm.cluDirty == [] && t.mm.l1Clean == [] && t.mm.cluClean == [] && cellsGet t.mm.mem 0x180 2 == [0xAA#8, 0xBB#8]) = true ∧
    (onNext (exec (.fenceRel 5) buffered) fun t => t.mm.wcb == [] && t.mm.cluClean.length == 1) = true ∧
    (onNext (exec (.fenceAcq 2) buffered) fun t => t.mm.wcb.length == 1 && t.mm.l1Clean == [] && t.mm.cluClean.length == 1) = true ∧
    ((∀ t ∈ buffered.myTxns, t.takesValue = false)) ∧
    2 ≤ (2#3).toNat ∧
    3 ≤ (5#3).toNat ∧
    Completes buffered (.fenceOwn 0) buffered.advance :=
  ⟨by unfold ReleaseReady; decide +kernel,
    by unfold ReleaseReady; decide +kernel,
    by and_intros <;> first | decide +kernel | exact gives_eq (by decide +kernel)⟩

/-- A load of the stream is under way. -/
def flying : State := { memo with net := { memo.net with txns := [⟨9, memo.me.id, 0, 0#128, 0#64, 0x100000040#64, .store 0, none, none, none⟩] } }

theorem witness_Fences_wait :
    flying.myTxns ≠ [] ∧
    Completes flying (.fence 5) flying.stall ∧
    Completes flying (.fenceRel 5) flying.stall ∧
    mgm.isMgmt = true ∧
    ReleaseReady mgm 5 ∧
    (onNext (exec (.fenceRem 1 5) mgm) fun t => t.pc == 4#64) = true ∧
    InJob (memo3.setS 1 9) ∧
    ((memo3.setS 1 9).sreg 1).toNat ≤ 255 ∧
    (memo3.setS 1 9).crewCores 9 = [1] ∧
    (memo3.setS 1 9).coreBusy 1 = false ∧
    releasedAt (releaseAt (acquireAt (releaseAt (memo3.setS 1 9) 0 5) 0 5) 1 5) 1 5 = true ∧
    (onNext (exec (.fenceRem 1 5) (memo3.setS 1 9)) fun t => t.pc == 4#64) = true :=
  ⟨by decide +kernel,
    gives_eq (by decide +kernel),
    gives_eq (by decide +kernel),
    by decide +kernel,
    by unfold ReleaseReady; decide +kernel,
    by and_intros <;> first | decide +kernel | rfl⟩

theorem witness_Fences_lines :
    reachLines ((memo.setS 1 0x17F).setS 2 2) (linesOf 0x17F 2) = .ok ((memo.setS 1 0x17F).setS 2 2, [⟨1, 0x17F, false, 0⟩, ⟨1, 0x180, false, 0⟩]) ∧
    ((∀ x ∈ [⟨1, 0x17F, false, 0⟩, (⟨1, 0x180, false, 0⟩ : Place)], flushHeld ([⟨1, 0x17F, false, 0⟩, ⟨1, 0x180, false, 0⟩].foldl (flushLine 5) ((memo.setS 1 0x17F).setS 2 2)) 5 x = false)) ∧
    (onNext (exec (.cflush 1 2 5) ((memo.setS 1 0x17F).setS 2 2)) fun t => t.pc == 4#64) = true ∧
    2 ≤ (2#2).toNat ∧
    Completes mgm (.pf 1 2 0 2) mgm.advance ∧
    (onNext (exec (.pf 1 2 0 0) (memo.setS 1 0xC0000100)) fun t => t.pc == 4#64) = true :=
  ⟨ok_eq (by decide +kernel),
    by decide +kernel,
    by decide +kernel,
    by decide +kernel,
    gives_eq (by decide +kernel),
    by decide +kernel⟩

theorem witness_VectorMemory_unit :
    Lanes vmem2 vmem2 ⟨vmem2.vectorSpace 1 0, .read, 4, 4, false⟩ 5 true [(0, 0x1000#64), (127, 0x11FC#64)] spots2 ∧
    (lanesOf (vmem2.active 1)).map (fun l => (l, vmem2.vectorBase 1 0 + vmem2.sreg 0 + BitVec.ofNat 64 (4 * l))) = [(0, 0x1000#64), (127, 0x11FC#64)] ∧
    (onNext (exec (.vld 2 0 1 1 0 0 5) vmem2) fun t => laneOf (t.vreg 2) 0 == 1#32 && laneOf (t.vreg 2) 127 == 128#32 && laneOf (t.vreg 2) 1 == 0#32) = true ∧
    Lanes vmem2 vmem2 ⟨vmem2.vectorSpace 1 0, .write, 4, 4, false⟩ 5 false [(0, 0x1000#64), (127, 0x11FC#64)] spots2 ∧
    ReleaseReady vmem2 5 ∧
    (onNext (exec (.vst 1 0 1 1 0 1 5) vmem2) fun t => cellsGet t.mm.mem 0x11F8 8 == leBytes 4 0 ++ leBytes 4 508) = true :=
  ⟨⟨rfl, rfl, ⟨by decide +kernel, ok_eq (by decide +kernel)⟩, by decide +kernel⟩,
    by decide +kernel,
    by decide +kernel,
    ⟨rfl, rfl, ⟨by decide +kernel, ok_eq (by decide +kernel)⟩, by decide +kernel⟩,
    by unfold ReleaseReady; decide +kernel,
    by decide +kernel⟩

theorem witness_VectorMemory_strided :
    Lanes (vmem2.setS 2 4) (vmem2.setS 2 4) ⟨vmem2.vectorSpace 1 0, .read, 4, 4, false⟩ 5 true [(0, 0x1000#64), (127, 0x11FC#64)] spots2 ∧
    (onNext (exec (.vlds 2 2 1 1 0 0 5) (vmem2.setS 2 4)) fun t => laneOf (t.vreg 2) 127 == 128#32) = true ∧
    Lanes (vmem2.setS 2 4) (vmem2.setS 2 4) ⟨vmem2.vectorSpace 1 0, .write, 4, 4, false⟩ 5 false [(0, 0x1000#64), (127, 0x11FC#64)] spots2 ∧
    (onNext (exec (.vsts 1 2 1 1 0 0 5) (vmem2.setS 2 4)) fun t => cellsGet t.mm.mem 0x11F8 8 == leBytes 4 0 ++ leBytes 4 508) = true :=
  ⟨⟨rfl, rfl, ⟨by decide +kernel, ok_eq (by decide +kernel)⟩, by decide +kernel⟩,
    by decide +kernel,
    ⟨rfl, rfl, ⟨by decide +kernel, ok_eq (by decide +kernel)⟩, by decide +kernel⟩,
    by decide +kernel⟩

theorem witness_VectorMemory_indexed :
    Lanes vmem2 vmem2 ⟨vmem2.vectorSpace 1 0, .read, 4, 4, false⟩ 5 true [(0, 0x1000#64), (127, 0x11FC#64)] spots2 ∧
    (lanesOf (vmem2.active 1)).map (fun l => (l, vmem2.vectorBase 1 0 + (laneOf (vmem2.vreg 1) l).zeroExtend 64)) = [(0, 0x1000#64), (127, 0x11FC#64)] ∧
    (onNext (exec (.vgath 2 1 1 1 0 0 5) vmem2) fun t => laneOf (t.vreg 2) 127 == 128#32) = true ∧
    (onNext (exec (.vscat 1 1 1 1 0 0 5) vmem2) fun t => cellsGet t.mm.mem 0x11F8 8 == leBytes 4 0 ++ leBytes 4 508) = true :=
  ⟨⟨rfl, rfl, ⟨by decide +kernel, ok_eq (by decide +kernel)⟩, by decide +kernel⟩,
    by decide +kernel,
    by decide +kernel,
    by decide +kernel⟩

theorem witness_VectorMemory_none :
    vmem.active 2 = 0#128 ∧
    NoArm vmem ∧
    ((∀ t ∈ vmem.myTxns, t.acq = none)) ∧
    Completes vmem (.vst 1 0 1 2 0 0 5) vmem.advance ∧
    Completes vmem (.vscat 1 1 1 2 0 0 5) vmem.advance :=
  ⟨by decide +kernel,
    rfl,
    by decide +kernel,
    gives_eq (by decide +kernel),
    gives_eq (by decide +kernel)⟩

theorem witness_VectorMemory_misaligned :
    (vmem2.setS 1 0x1002).mustWait [(0, 0x1002#64), (127, 0x11FE#64)] = false ∧
    ([(0, 0x1002#64), (127, 0x11FE#64)] : List (Nat × Word)).find? (fun x => decide (x.2.toNat % 4 ≠ 0)) = some (0, 0x1002#64) ∧
    Traps (vmem2.setS 1 0x1002) (.vld 2 0 1 1 0 0 5) (accessFault ⟨.global, .read, 4, 4, false⟩ causeAlignment 0x1002#64) ∧
    Traps (vmem2.setS 1 0x1002) (.vst 2 0 1 1 0 0 5) (accessFault ⟨.global, .write, 4, 4, false⟩ causeAlignment 0x1002#64) :=
  ⟨by decide +kernel,
    by decide +kernel,
    gives_eq (by decide +kernel),
    gives_eq (by decide +kernel)⟩

/-- A fragment of one lane that reaches one location of the host, or one of the device: s1 and s3 hold the addresses. -/
def vlane : State :=
  let s := ((paged vec).setS 1 0x40000100).setS 3 0x100
  { s with me := { s.me with frag := { s.me.frag with mask := 1#128 } } }.setV 4 7#4096

/-- Three lanes at the host, lanes 0 and 2 at 0x100 and lane 1 at 0x104: v6 holds the offsets, v4 and v5 the values. -/
def vthree : State :=
  let s := { vlane with me := { vlane.me with frag := { vlane.me.frag with mask := 7#128 } } }
  ((s.setV 4 (10#4096 + (20#4096 <<< 32) + (30#4096 <<< 64))).setV 5 (100#4096 + (7#4096 <<< 32) + (9#4096 <<< 64))).setV 6 (4#4096 <<< 32)

def at3 (pa : Nat) : Place := ⟨3, pa, false, 0⟩
def places3 : List (Nat × Word × Place) :=
  [(0, 0x40000100#64, at3 0x100), (1, 0x40000104#64, at3 0x104), (2, 0x40000100#64, at3 0x100)]

/-- The lanes of a vector register, the lowest three. -/
def lanes3 (v : VReg) : List (BitVec 32) := [laneOf v 0, laneOf v 1, laneOf v 2]

theorem witness_VectorAtomics_premises :
    NoArm vthree ∧
    Reaches vthree ⟨.global, .atomic, 4, 4, false⟩ (vthree.indexedLanes 6 1 0#2 vthree.mask) vthree (places3.map fun y => (y.1, .mem y.2.2)) ∧
    ((vthree.indexedLanes 6 1 0#2 vthree.mask).zip (places3.map fun y => (y.1, Spot.mem y.2.2))).filterMap laneOfSpot = places3 ∧
    (∀ y ∈ places3, wayBlocked (places3.foldl (fun s y => clearWay s y.2.2 6) vthree).markExt y.2.2 6 = false) ∧
    (∀ t ∈ vthree.net.txns, txnGroup t ≠ some vthree.ticket) ∧
    (∀ y ∈ vthree.net.lanesBack, y.1 ≠ vthree.ticket) ∧
    (∀ y ∈ places3, leavesCore y.2.2 6 = false) ∧
    (∀ y ∈ places3, y.2.2.apt = 0 → leavesCore y.2.2 6 = true) :=
  ⟨rfl, ⟨by decide +kernel, ok_eq (by decide +kernel)⟩, by and_intros <;> decide +kernel⟩

/-- ADD: one request for the two lanes of 0x100, whose second receives the first's sum; SWAP and VCAS one each. -/
theorem witness_VectorAtomics_here :
    (laneRequests 128 0 (fun l => laneOf (vthree.vreg 4) l) (fun _ => 0#32) places3).map (fun r => (r.va, r.lanes, r.v)) =
      [(0x40000100#64, [(0, 10#32), (2, 30#32)], 40#64), (0x40000104#64, [(1, 20#32)], 20#64)] ∧
    (onNext (exec (.vatom 4 6 1 0 0 6 0) vthree) fun t => cellsGet t.mm.hostMem 0x100 8 == leBytes 4 40 ++ leBytes 4 20 &&
      lanes3 (t.vreg 4) == [0, 0, 10] && t.pc == 4#64) = true ∧
    (onNext (exec (.vatom 4 6 1 9 1 6 0) vthree) fun t => cellsGet t.mm.hostMem 0x100 8 == leBytes 4 30 ++ leBytes 4 20 &&
      lanes3 (t.vreg 4) == [0, 0, 10]) = true ∧
    (onNext (exec (.vcas 2 6 1 0 6 0) (vthree.setV 4 (100#4096 <<< 64))) fun t =>
      cellsGet t.mm.hostMem 0x100 8 == leBytes 4 9 ++ leBytes 4 7 && lanes3 (t.vreg 4) == [0, 0, 100] &&
      lanes3 (t.vreg 5) == [100, 7, 9]) = true := by and_intros <;> decide +kernel

/-- The first lane's ADD alone, performed at the host. -/
theorem witness_VectorAtomics_perform :
    ∃ w, PerformAll 6 0 vthree.ticket [⟨[(0, 10#32)], 0x40000100#64, at3 0x100, 10#64, 0#64⟩] [0#64] vthree.markExt.nextTicket w :=
  ⟨_, _, Prod.ext (by decide +kernel) rfl, rfl⟩

/-- VCAS in the cluster cache, and a release: the buffered byte of another line is written first. -/
theorem witness_VectorAtomics_cluster :
    leavesCore ⟨0, 0x100, false, 0⟩ 2 = false ∧
    (onNext (exec (.vcas 2 6 4 0 2 0) ((vlane.setV 5 9#4096).setS 4 0xC0000100)) fun t => t.mm.cluDirty.length == 0 && laneOf (t.vreg 4) 0 == 0#32) = true ∧
    (onNext (exec (.vcas 2 6 4 0 2 0) (((vlane.setV 4 0#4096).setV 5 9#4096).setS 4 0xC0000100)) fun t =>
      t.mm.cluDirty.map (fun e => e.2) == [9#8, 0#8, 0#8, 0#8] && laneOf (t.vreg 4) 0 == 0#32) = true ∧
    (2#2 : BitVec 2).getLsbD 1 = true ∧
    ReleaseReady { vlane with mm := { vlane.mm with wcb := [⟨vlane.core, vlane.me.id, 0x180, 0xAA#8, 5, 0, false, 0⟩] } } 6 ∧
    (onNext (exec (.vatom 4 6 1 0 2 6 0) { vlane with mm := { vlane.mm with wcb := [⟨vlane.core, vlane.me.id, 0x180, 0xAA#8, 5, 0, false, 0⟩] } }) fun t =>
      t.mm.wcb == [] && cellGet t.mm.mem 0x180 == 0xAA#8 && cellsGet t.mm.hostMem 0x100 4 == leBytes 4 7) = true :=
  ⟨by decide +kernel, by decide +kernel, by decide +kernel, by decide +kernel, by unfold ReleaseReady; decide +kernel, by decide +kernel⟩

/-- Poison at the cluster cache's point: DATA_LOST, and VD as it was. -/
theorem witness_VectorAtomics_lost :
    (onNext (exec (.vatom 4 6 4 0 0 2 0) { (vlane.setS 4 0xC0000100) with mm := { vlane.mm with poison := [2] } }) fun t =>
      t.sch.records.map (fun r => (r.record.cause, r.record.addr)) == [(causeDataLost, 0xC0000100#64)] && laneOf (t.vreg 4) 0 == 7#32) = true := by
  decide +kernel

theorem witness_VectorAtomics_none :
    ({ vlane with me := { vlane.me with frag := { vlane.me.frag with mask := 0#128 } } } : State).mask = 0#128 ∧
    (onNext (exec (.vatom 4 5 1 0 0 6 0) { vlane with me := { vlane.me with frag := { vlane.me.frag with mask := 0#128 } } }) fun t => t.me.flights == [] && t.net.txns == []) = true := by and_intros <;> decide +kernel

theorem witness_VectorAtomics_away :
    Reaches vlane ⟨.global, .atomic, 4, 4, false⟩ (vlane.indexedLanes 6 3 0#2 vlane.mask) vlane [(0, .mem ⟨1, 0x100, false, 0⟩)] ∧
    leavesCore ⟨1, 0x100, false, 0⟩ 5 = true ∧ atomicPoint ⟨1, 0x100, false, 0⟩ 5 = .far ∧
    (onNext (exec (.vatom 4 6 3 0 0 5 0) vlane) fun t => t.me.pending == [.v 4] && t.net.txns.map (fun x => (x.va, x.kind)) == [(0x100#64, .lanes 4 [(0, 7#32)] 0 0)] &&
      t.net.packets.map (fun p => (p.pa, p.body)) == [(0x100, .fetchOp 7 0 1 0 false 0 5 false false)]) = true ∧
    (onNext (exec (.vcas 2 6 3 0 5 0) vlane) fun t => t.me.pending == [.v 4] && t.net.txns.length == 1) = true :=
  ⟨⟨by decide +kernel, ok_eq (by decide +kernel)⟩,
    by and_intros <;> decide +kernel⟩

/-! ### Witnesses: the vector engine -/

theorem witness_VectorElements :
    (4 : Nat) ∈ [4, 8, 16, 32] ∧
    (1023 : Nat) < 4096 / 4 ∧
    elemOf (mapElems 4 fun e => if e = 1023 then 0x1F else 0) 4 1023 = 15 ∧
    (127 : Nat) < 128 ∧
    laneOf (mergeLanes 0#4096 (BitVec.allOnes 4096) (1#128 <<< 127)) 127 = 0xFFFFFFFF#32 ∧
    laneOf (mergeLanes 0#4096 (BitVec.allOnes 4096) (1#128 <<< 127)) 126 = 0#32 ∧
    (1#4 : BitVec 4) ≠ 0#4 ∧
    (3#6 : VNum) ≠ 2#6 ∧
    (8 : Nat) ∈ [8, 16, 32] := by and_intros <;> decide +kernel

theorem witness_VectorElements_formats :
    e4m3 ∈ [fp32, fp16, bf16, e4m3, e5m2, e2m3, e3m2, e2m1] ∧
    (0x7E : Nat) < 2 ^ e4m3.width ∧
    e4m3.decode 0x7E ≠ .nan ∧
    e4m3.ofNum (vec.rounding 0 0) (e4m3.decode 0x7E) = 0x7E ∧
    fp32.spec = .ieee ∧
    fp32.decode 0x7F800001 = .nan ∧
    0x7F800001 / 2 ^ fp32.frac % 2 ^ fp32.exp = 2 ^ fp32.exp - 1 ∧
    0x7F800001 % 2 ^ fp32.frac ≠ 0 ∧
    fp16.subnormal 0x03FF = true ∧
    fp16.flush true 0x83FF = 0x8000 ∧
    fp16.subnormal 0x0400 = false ∧
    (5 : Nat) ≠ 0 := by and_intros <;> decide +kernel

/-- v1 holds 1.0 in every lane and v2 2.0 in FP32; p1 picks lane 127. -/
def vfp : State :=
  let s := (vec.setV 1 (mapElems 32 fun _ => 0x3F800000)).setV 2 (mapElems 32 fun _ => 0x40000000)
  { s with me := s.me.setPred 1 (1#128 <<< 127) }

theorem witness_VectorFloat :
    (0#3).toNat < 3 ∧
    vfp.me.rmode ≠ 4 ∧
    (onNext (exec (.fadd 3 1 2 1 0) vfp) fun t => laneOf (t.vreg 3) 127 == 0x40400000#32 && laneOf (t.vreg 3) 126 == 0#32) = true ∧
    (onNext (exec (.fmin 3 1 2 0 0) vfp) fun t => laneOf (t.vreg 3) 5 == 0x3F800000#32) = true ∧
    (7#6).toNat < 8 ∧
    3 ≤ (3#3).toNat ∧
    Traps vfp (.fadd 3 1 2 1 3) { cause := causeIllegalType } ∧
    8 ≤ (8#6).toNat ∧
    TrapsIllegal vfp (.funSpecial 3 1 8 1 0) ∧
    ({ vfp.me with fpctl := 4#4 } : Stream).rmode = 4 := by and_intros <;> first | decide +kernel | exact gives_eq (by decide +kernel)

/-- 1 / 4, the root of 4, 2^3 and log2 of 8 in FP32 (R282). -/
theorem witness_VectorFloat_functions :
    f32fun 0 0x40800000 = 0x3E800000 ∧
    f32fun 2 0x40800000 = 0x40000000 ∧
    f32fun 3 0x40400000 = 0x41000000 ∧
    f32fun 4 0x41000000 = 0x40400000 := by and_intros <;> decide +kernel

/-- v1 and v2 with bytes 0x80 and 0x7F everywhere. -/
def vint : State := (vec.setV 1 (mapElems 8 fun _ => 0x80)).setV 2 (mapElems 8 fun _ => 0x7F)

theorem witness_VectorInteger :
    intWidth 2 ≠ 4 ∧
    (onNext (exec (.iabs 3 1 0 2) vint) fun t => elemOf (t.vreg 3) 8 511 == 0x80) = true ∧
    (onNext (exec (.isubs 3 1 2 0 2) vint) fun t => elemOf (t.vreg 3) 8 0 == 0x80) = true ∧
    (onNext (exec (.iadds 3 1 2 0 2) vint) fun t => elemOf (t.vreg 3) 8 0 == 0xFF) = true ∧
    intWidth 7 = 4 ∧
    Traps vint (.iadd 3 1 2 0 7) { cause := causeIllegalType } ∧
    Traps vint (.iadd 3 1 2 0 3) { cause := causeIllegalType } ∧
    (1#1 : BitVec 1) = 1#1 ∧
    (onNext (exec (.shift 3 1 2 0 1 2) vint) fun t => elemOf (t.vreg 3) 8 0 == 0xFF) = true := by and_intros <;> first | decide +kernel | exact gives_eq (by decide +kernel)

theorem witness_VectorInteger_wide :
    intWidth 2 = 8 ∧
    (4#6).toNat + 3 < 32 ∧
    (onNext (exec (.imadw 4 1 2 0 2) vint) fun t => laneOf (t.vreg 7) 0 == BitVec.ofInt 32 (-16256)) = true ∧
    intWidth 0 = 32 ∧
    (4#6).toNat + 1 < 32 ∧
    (onNext (exec (.imadw 4 2 2 0 0) vint) fun t => elemOf (t.vreg 4) 32 0 + 2 ^ 32 * elemOf (t.vreg 5) 32 0 == 0x7F7F7F7F * 0x7F7F7F7F) = true ∧
    logicOf 5 0#4096 0#4096 = some (BitVec.allOnes 4096) ∧
    6 ≤ (6#3).toNat ∧
    TrapsIllegal vint (.logic 3 1 2 0 6) := by and_intros <;> first | decide +kernel | exact gives_eq (by decide +kernel)

theorem witness_PredicateForms :
    (onNext (exec (.fcmp 2 3 1 2 1 0) vfp) fun t => t.me.pred 3 == 1#128 <<< 127) = true ∧
    Traps vfp (.fcmp 0 3 1 2 1 7) { cause := causeIllegalType } ∧
    intWidth 6 = 8 ∧
    (onNext (exec (.icmp 2 3 1 2 0 6) vint) fun t => t.me.pred 3 == 0#128) = true ∧
    (onNext (exec (.icmp 2 3 1 2 0 2) vint) fun t => t.me.pred 3 == BitVec.allOnes 128) = true ∧
    Traps vint (.icmp 0 3 1 2 0 3) { cause := causeIllegalType } ∧
    ((∃ l < 128, (vfp.active 0).getLsbD l = true ∧ (vfp.me.pred 1).getLsbD l = true)) ∧
    (onNext (exec (.voteAny 3 1 0) vfp) fun t => t.me.pred 3 == BitVec.allOnes 128) = true ∧
    ((∀ l < 128, (vfp.active 0).getLsbD l = true → (vfp.me.pred 2).getLsbD l = false)) ∧
    (onNext (exec (.voteAny 3 2 0) vfp) fun t => t.me.pred 3 == 0#128) = true ∧
    ((∀ l < 128, (vfp.active 1).getLsbD l = true → (vfp.me.pred 1).getLsbD l = true)) ∧
    (onNext (exec (.voteAll 3 1 1) vfp) fun t => t.me.pred 3 == BitVec.allOnes 128) = true ∧
    ((∃ l < 128, (vfp.active 0).getLsbD l = true ∧ (vfp.me.pred 1).getLsbD l = false)) ∧
    (onNext (exec (.voteAll 3 1 0) vfp) fun t => t.me.pred 3 == 0#128) = true :=
  ⟨by decide +kernel,
    gives_eq (by decide +kernel),
    by decide +kernel,
    by decide +kernel,
    by decide +kernel,
    gives_eq (by decide +kernel),
    ⟨127, by decide +kernel, by decide +kernel, by decide +kernel⟩,
    by decide +kernel,
    by decide +kernel,
    by decide +kernel,
    by decide +kernel,
    by decide +kernel,
    ⟨0, by decide +kernel, by decide +kernel, by decide +kernel⟩,
    by decide +kernel⟩

theorem witness_VectorMoves :
    intWidth 2 ≠ 32 ∧
    (onNext (exec (.pack 3 1 2 0 2) vint) fun t => elemOf (t.vreg 3) 8 0 == 0x80 && elemOf (t.vreg 3) 8 1 == 0x7F) = true ∧
    (2#6).toNat + 1 < 32 ∧
    (onNext (exec (.unpk 2 1 0 2) vint) fun t => elemOf (t.vreg 3) 16 0 == 0xFF80) = true ∧
    Traps vint (.pack 3 1 2 0 0) { cause := causeIllegalType } ∧
    16 ≤ intWidth 1 ∧
    (onNext (exec (.shuf 3 1 2 0 1) vint) fun t => elemOf (t.vreg 3) 16 0 == 0) = true ∧
    intWidth 2 < 16 ∧
    Traps vint (.shuf 3 1 2 0 2) { cause := causeIllegalType } ∧
    vfp.me.whole = true ∧
    (onNext (exec (.part 3 1 2 1 0) vfp) fun t => laneOf (t.vreg 2) 0 == 1#32) = true ∧
    split.me.whole = false ∧
    TrapsIllegal split (.part 3 1 2 1 0) ∧
    Traps vfp (.part 3 1 2 1 1) { cause := causeIllegalType } ∧
    (onNext (exec (.vrot 1) vec) fun t => t.me.rrb == 31#5) = true ∧
    TrapsIllegal split (.vrot 1) := by and_intros <;> first | decide +kernel | exact gives_eq (by decide +kernel)

/-- v1 with 300 in every lane. -/
def vcv : State := vec.setV 1 (mapElems 32 fun _ => 300)

theorem witness_Conversions_cvt :
    (0#3 : BitVec 3) ≠ 5#3 ∧
    (0#3 : BitVec 3) ≠ 6#3 ∧
    cvtWidth 0 0 = cvtWidth 1 0 ∧
    (onNext (exec (.cvt 3 1 1 0 0 0 0) vcv) fun t => laneOf (t.vreg 3) 127 == 0x43960000#32) = true ∧
    TrapsIllegal vcv (.cvt 3 1 1 0 0 5 0) :=
  ⟨by decide +kernel,
    by decide +kernel,
    by decide +kernel,
    by decide +kernel,
    gives_eq (by decide +kernel)⟩

/-- R287: 16-bit integers to FP32 fill two registers, 32-bit integers to a 16-bit format take two. -/
theorem witness_Conversions_widths :
    cvtWidth 1 1 < cvtWidth 0 0 ∧
    (3#5).toNat + cvtWidth 0 0 / cvtWidth 1 1 ≤ 32 ∧
    (onNext (exec (.cvt 3 1 1 1 0 0 0) vcv) fun t => laneOf (t.vreg 3) 127 == 0x43960000#32 && t.vreg 4 == 0#4096) = true ∧
    cvtWidth 0 1 < cvtWidth 1 0 ∧
    (onNext (exec (.cvt 3 1 1 0 0 0 1) vcv) fun t => laneOf (t.vreg 3) 127 == 0x00005CB0#32) = true := by and_intros <;> decide +kernel

theorem witness_Conversions_req :
    (0#4).extractLsb' 1 3 = 0#3 ∧
    (onNext (exec (.req 4 1 2 0 2) ((vcv.setV 2 (mapElems 32 fun _ => 1)).setV 3 (mapElems 32 fun _ => 0))) fun t => laneOf (t.vreg 4) 0 == 127#32 && t.me.qstat != 0#35) = true ∧
    (2#4).extractLsb' 1 3 ≠ 0#3 ∧
    TrapsIllegal vcv (.req 4 1 2 2 2) ∧
    blockFormat false 1 = none ∧
    TrapsIllegal vcv (.qnt 3 1 2 0 1) ∧
    TrapsIllegal vcv (.dqn 3 1 2 0 1) ∧
    split.me.whole = false ∧
    TrapsIllegal split (.qnt 3 1 2 0 0) := by and_intros <;> first | decide +kernel | exact gives_eq (by decide +kernel)

theorem witness_Conversions_blocks :
    (blockFormat false 3).isSome = true ∧
    (0#4).getLsbD 1 = false ∧
    (0#4).extractLsb' 2 2 ≠ 3#2 ∧
    vec.me.whole = true ∧
    vec.me.qstat.getLsbD 34 = false ∧
    (onNext (exec (.qnt 3 1 2 0 3) vec) fun t => t.pc == 4#64 && t.vreg 3 == 0#4096) = true ∧
    (0#4).toNat / 2 < 4 ∧
    (onNext (exec (.dqn 3 1 2 0 3) vec) fun t => t.pc == 4#64) = true := by and_intros <;> decide +kernel

/-- The worked example of R288: block 0 holds 3.0, 20.0, -0.01 and 15.0, block 1 copies of 0.00001, both with scale 122; QSTAT.TRAP
is set. -/
def vtrap : State :=
  let s := vec.setV 2 (mapElems 32 fun l => if l < 32 then [0x40400000, 0x41A00000, 0xBC23D70A, 0x41700000].getD l 0
    else if l < 64 then 0x3727C5AC else 0)
  let s := s.setV 1 (mapElems 32 fun l => if l < 4 then 122 else 0)
  { s with me := { s.me with qstat := 1#35 <<< 34 } }

theorem witness_Conversions_trap :
    vtrap.me.qstat.getLsbD 34 = true ∧
    (blockFormat false 3).isSome = true ∧
    (onNext (exec (.qnt 3 2 1 0 3) vtrap) fun t => (List.range 5).map (elemOf (t.vreg 3) 8) == [0x6C, 0x7E, 0xAA, 0x7E, 0] && laneOf (t.vreg 3) 120 == 0x41A00000#32 && laneOf (t.vreg 3) 121 == 0x3727C5AC#32) = true ∧
    (onNext (exec (.qnt 3 2 1 0 3) vtrap) fun t => t.pc == 0#64 && (t.me.frag.parked.map fun p => p.disp) == some 1 && t.me.qstat.extractLsb' 0 32 == 2#32 && t.me.qstat.getLsbD 32) = true := by and_intros <;> decide +kernel

theorem witness_VectorReductions :
    (0#6).toNat < 3 ∧
    (8#6).toNat ≤ 13 ∧
    intWidth 0 ≠ 4 ∧
    (onNext (exec (.red 3 1 8 0 0) vcv) fun t => laneOf (t.vreg 3) 0 == 38400#32) = true ∧
    (onNext (exec (.scan 3 1 8 0 0) vcv) fun t => laneOf (t.vreg 3) 1 == 600#32 && laneOf (t.vreg 3) 127 == 38400#32) = true ∧
    (onNext (exec (.red 3 1 0 1 0) vfp) fun t => laneOf (t.vreg 3) 3 == 0x3F800000#32) = true ∧
    reductionOp 3 = false ∧
    reductionOp 14 = false ∧
    TrapsIllegal vcv (.scan 3 1 14 0 0) := by and_intros <;> first | decide +kernel | exact gives_eq (by decide +kernel)

/-- A fragment of lane 0 alone, with its pages held and offset 0 in v2, the weights at 0 (R355). -/
def vmxS : State :=
  let s := paged vec
  { s with me := { s.me with frag := { s.me.frag with mask := 1#128 } } }

theorem witness_VectorReductions_vmx :
    badOffsets (vmxS.vreg 2) vmxS.mask = 0#128 ∧
    distinctOffsets (vmxS.vreg 2) vmxS.mask = [0] ∧
    vmxS.mustWait ((rangePieces 10 0 (matrixBytes 0)).map fun x => (0, BitVec.ofNat 64 x.1)) = false ∧
    checkPieces none vmxS (sortBy (fun (x y : Nat × Nat) => decide (x.1 ≤ y.1))
      ([0].flatMap fun k => rangePieces 10 (0#64 + BitVec.ofNat 64 k).toNat (matrixBytes 0)).eraseDups) = .ok vmxS ∧
    ReadsMatrices 0#64 (matrixBytes 0) [0] vmxS [(0, List.replicate (matrixBytes 0) 0#8)] (readOf vmxS 1 0#64 (matrixBytes 0)) ∧
    (onNext (exec (.vmx 3 1 2 4 0) vmxS) fun t => t.pc == 4#64) = true ∧
    (lanesOf (badOffsets ((vmxS.setV 2 1#4096).vreg 2) vmxS.mask)).head? = some 0 ∧
    Traps (vmxS.setV 2 1#4096) (.vmx 3 1 2 4 0) { cause := causeVmxOperand, addr := 1#64, lanes := some 1#128 } :=
  ⟨by decide +kernel,
    by decide +kernel,
    by decide +kernel,
    done_eq (by decide +kernel),
    ⟨_, _, _, bytes_eq (by decide +kernel), rfl, rfl, rfl⟩,
    by decide +kernel,
    by decide +kernel,
    gives_eq (by decide +kernel)⟩

/-- v1 with the least subnormal of FP32 in every lane, FTZ set (R271). -/
def vsub : State :=
  let s := vec.setV 1 (mapElems 32 fun _ => 1)
  { s with me := { s.me with fpctl := 0x8 } }

theorem witness_VectorReductions_ftz :
    (1#6).toNat < 3 ∧
    (0#3).toNat < 3 ∧
    vsub.me.ftz = true ∧
    (onNext (exec (.scan 3 1 1 0 0) vsub) fun t => laneOf (t.vreg 3) 0 == 0#32) = true ∧
    (onNext (exec (.red 3 1 1 0 0) vsub) fun t => laneOf (t.vreg 3) 0 == 0#32) = true := by and_intros <;> decide +kernel

/-- Every trap of a job's stream puts a turn on the agenda, so that no completion is one (for `VectorFrame`). -/
theorem takeFault_agenda (f : FaultInfo) : (takeFault vint f).agenda ≠ [] := by
  have h : snapTrigger vint 2 = vint := by decide +kernel
  have hm : vint.isMgmt = false := by decide +kernel
  unfold takeFault takePark
  simp only [h, ite_self, hm, State.postLater, State.event, State.later]
  split <;> simp

theorem witness_VectorFrame :
    (vint.active 0, 1, Instr.iadd 3 1 2 0 2) ∈ laneForms vint 3 1 2 0 0 0 2 0 0 0 0 0 0 0 0 0 ∧
    exec (.iadd 3 1 2 0 2) vint = .next (after (exec (.iadd 3 1 2 0 2) vint) vint) ∧
    (∀ f, after (exec (.iadd 3 1 2 0 2) vint) vint ≠ takeFault vint f) ∧
    NoLoopEnd vint ∧
    NoReconvergence vint (vint.pc + 4#64) ∧
    (∀ j < 1, vint.me.rotate (4#5).toNat ≠ vint.me.rotate ((3#5).toNat + j)) :=
  ⟨by decide +kernel,
    gives_eq (by decide +kernel),
    fun f h => takeFault_agenda f (h ▸ by decide +kernel),
    by unfold NoLoopEnd; decide +kernel,
    by unfold NoReconvergence; decide +kernel,
    by decide +kernel⟩

/-- One lane is outside p1, and a form of two registers keeps that lane in both (R317, R320). -/
theorem witness_VectorFrame_wide :
    (vint.active 1, 2, Instr.imadw 4 1 2 1 0) ∈ laneForms vint 4 1 2 1 0 0 0 0 0 0 0 0 0 0 0 0 ∧
    exec (.imadw 4 1 2 1 0) vint = .next (after (exec (.imadw 4 1 2 1 0) vint) vint) ∧
    (∀ f, after (exec (.imadw 4 1 2 1 0) vint) vint ≠ takeFault vint f) ∧
    (vint.active 1).getLsbD 127 = false :=
  ⟨by decide +kernel,
    gives_eq (by decide +kernel),
    fun f h => takeFault_agenda f (h ▸ by decide +kernel),
    by decide +kernel⟩

theorem witness_VectorFrame_part :
    exec (.part 3 1 2 1 0) vint = .next (after (exec (.part 3 1 2 1 0) vint) vint) ∧
    (∀ f, after (exec (.part 3 1 2 1 0) vint) vint ≠ takeFault vint f) ∧
    vint.after 4 ≠ vint.after 3 ∧
    vint.after 4 ≠ vint.after 2 :=
  ⟨gives_eq (by decide +kernel),
    fun f h => takeFault_agenda f (h ▸ by decide +kernel),
    by decide +kernel,
    by decide +kernel⟩

theorem witness_Divergence_whole :
    (vfp.mask &&& vfp.me.pred 2) = 0#128 ∧
    Completes vfp (.vbr 2 4 8) vfp.advance ∧
    (vfp.mask &&& vfp.me.pred 0) ≠ 0#128 ∧
    (vfp.mask &&& ~~~ vfp.me.pred 0) = 0#128 ∧
    vfp.targetOk (vfp.pc + 4#64 * (4#11).signExtend 64) = true ∧
    Completes vfp (.vbr 0 4 8) (vfp.goto 16#64) ∧
    vfp.targetOk (vfp.pc + 4#64 * (0x7FF#11).signExtend 64) = false ∧
    TrapsIllegal vfp (.vbr 0 0x7FF 8) := by and_intros <;> first | decide +kernel | exact gives_eq (by decide +kernel)

theorem witness_Divergence_split :
    (vfp.mask &&& vfp.me.pred 1) ≠ 0#128 ∧
    (vfp.mask &&& ~~~ vfp.me.pred 1) ≠ 0#128 ∧
    vfp.targetOk (vfp.pc + 4#64 * (1023#10).zeroExtend 64) = true ∧
    vfp.me.bracket = none ∧
    vfp.me.frag.depth < 63 ∧
    vfp.forbiddenLoopEnd = false ∧
    NoLoopEnd vfp ∧
    vfp.me.entries ≤ 252 ∧
    NoReconvergence vfp 16#64 ∧
    ((∀ g ∈ vfp.me.frags, g.id ≠ vfp.me.frag.id)) ∧
    (onNext (exec (.vbr 1 4 1023) vfp) fun t => t.pc == 4#64 && t.me.frags.map (fun f => (f.pc, f.depth)) == [(16#64, 1)] && t.me.regions.map (fun r => r.reconv) == [4092#64]) = true ∧
    ({ vfp with me := { vfp.me with frag := { vfp.me.frag with depth := 63 } } } : State).me.frag.depth = 63 ∧
    TrapsIllegal { vfp with me := { vfp.me with frag := { vfp.me.frag with depth := 63 } } } (.vbr 1 4 8) :=
  ⟨by decide +kernel,
    by decide +kernel,
    by decide +kernel,
    by decide +kernel,
    by decide +kernel,
    by decide +kernel,
    by unfold NoLoopEnd; decide +kernel,
    by decide +kernel,
    by unfold NoReconvergence; decide +kernel,
    by decide +kernel,
    by decide +kernel,
    by decide +kernel,
    gives_eq (by decide +kernel)⟩

theorem witness_Divergence_exits :
    vfp.me.frag.depth < (1#6).toNat + 1 ∧
    TrapsIllegal vfp (.vexit 1) ∧
    TrapsIllegal vfp (.vexit 0) ∧
    (1#6).toNat < ({ split.me with frag := { split.me.frag with depth := 2 } } : Stream).frag.depth ∧
    split.me.frag.depth = 1 ∧
    regionFor split.me.regions 1 split.mask = some ⟨0x40#64, 1, BitVec.allOnes 128, 0#128, none, 0⟩ ∧
    ((BitVec.allOnes 128) &&& ~~~split.mask) ≠ 0#128 ∧
    (arriveAtDepth split.me 1).frag.id = 1 := by and_intros <;> first | decide +kernel | exact gives_eq (by decide +kernel)

theorem witness_Divergence_brackets :
    vec.me.bracket = none ∧
    vec.me.isVector = true ∧
    vec.me.frags = [] ∧
    vec.me.ended = false ∧
    vec.me.frag.atWhole = false ∧
    NoLoopEnd vec ∧
    (onNext (exec .whole vec) fun t => t.me.bracket.isSome && t.pc == 4#64 && t.me.whole) = true ∧
    TrapsIllegal vec .endwhole ∧
    (after (exec .whole vec) vec).me.bracket = some ⟨[{ vec.me.frag with wait := .whole 0, run := 64 }], []⟩ ∧
    (after (exec .whole vec) vec).me.regions = [] ∧
    (onNext (exec .endwhole (after (exec .whole vec) vec)) fun t => t.me.bracket == none && t.pc == 8#64) = true ∧
    TrapsIllegal (after (exec .whole vec) vec) .whole :=
  ⟨by decide +kernel,
    by decide +kernel,
    by decide +kernel,
    by decide +kernel,
    by decide +kernel,
    by unfold NoLoopEnd; decide +kernel,
    by decide +kernel,
    gives_eq (by decide +kernel),
    by decide +kernel,
    by decide +kernel,
    by decide +kernel,
    gives_eq (by decide +kernel)⟩

/-! ### Witnesses: the matrix and the copy stream -/

/-- Two FP32 streams of 64 rows and 64 columns in the local scratchpad; GA asks for two K-steps. -/
def streamA : StreamReg := { StreamReg.zero with base := 0x100#64, rstride := 256#32, exti := 64#32, extk := 64#32, kcount := 2#32, ctl := 0x51#8 }
def streamB : StreamReg := { streamA with base := 0x4100#64 }

/-- A matrix stream with four panels, its pages held, stream A in g1 and stream B in g2. -/
def mats : State :=
  let s := paged mat
  let s := { s with myJob := { s.myJob with pword := 0x00010101#32 } }
  ((s.setGreg 1 streamA).setGreg 2 streamB).setS 1 0x0000000100000002#64

/-- The same in crew 9 at rank 2, beside rank 0, with COOP in g1. -/
def coops (coop : BitVec 8) : State :=
  let s := mats.setGreg 1 { streamA with coop := coop }
  { s with
    sch := { s.sch with launches := [launch0 2] }
    myJob := { s.myJob with crews := [⟨9, 2⟩], current := some 9 }
    jobs := [{ s.myJob with id := ⟨0, 0, 1⟩, core := some 1, crews := [⟨9, 0⟩], current := some 9 }] }

theorem witness_StreamRegisters_gset :
    8 < gsetFields.length ∧
    (8#4).toNat = 8 ∧
    (onNext (exec (.gset 1 3 8) (mats.setS 3 0xAABBCCDD11223344)) fun t => (t.greg 1).curi == 0x11223344#32 && (t.greg 1).curk == 0#32 && t.greg 2 == streamB) = true ∧
    (onNext (exec (.gset 1 3 13) (mats.setS 3 0xAABBCCDD11223344)) fun t => t.greg 1 == { streamA with coop := 0x44#8 }) = true ∧
    14 ≤ (14#4).toNat ∧
    TrapsIllegal mats (.gset 1 3 14) ∧
    (onNext (exec (.gadv 1 3 3) (mats.setS 3 0xFFFFFFFF)) fun t => (t.greg 1).curi == 0xFFFFFFFF#32 && (t.greg 1).curk == 0xFFFFFFFF#32) = true := by and_intros <;> first | decide +kernel | exact gives_eq (by decide +kernel)

theorem witness_StreamRegisters_image :
    Single (mats.setS 1 0x1C0) (mats.setS 1 0x1C0) (imageReq 0 .read) 0x1C0#64 (.mem ⟨1, 0x1C0, false, 0⟩) ∧
    Readable (mats.setS 1 0x1C0) 5 64 (.mem ⟨1, 0x1C0, false, 0⟩) ∧
    (onNext (exec (.gld 1 1 0 5 0) (mats.setS 1 0x1C0)) fun t => t.greg 1 == StreamReg.zero) = true ∧
    Single (mats.setS 1 0xFFC0) (mats.setS 1 0xFFC0) (imageReq 1 .write) 0xFFC0#64 (.pool probeId 0xFFC0) ∧
    Writable (mats.setS 1 0xFFC0) 1 64 (.pool probeId 0xFFC0) ∧
    (onNext (exec (.gst 1 1 0 5 1) (mats.setS 1 0xFFC0)) fun t => t.poolNat probeId 0xFFC0 8 == 0x100 && t.poolNat probeId 0xFFE4 4 == 64 && t.poolNat probeId 0xFFF9 1 == 0x51) = true ∧
    NoArm (mats.setS 1 0x20) ∧
    (mats.setS 1 0x20).mustWait [(0, 0x20#64)] = false ∧
    ((mats.setS 1 0x20).sreg 1 + (mats.setS 1 0x20).sreg 0).toNat % 64 ≠ 0 ∧
    Traps (mats.setS 1 0x20) (.gld 1 1 0 5 0) (accessFault (imageReq 0 .read) causeAlignment 0x20#64) :=
  ⟨single_eq (by decide +kernel),
    by unfold Readable; decide +kernel,
    by decide +kernel,
    single_eq (by decide +kernel),
    by unfold Writable; decide +kernel,
    by decide +kernel,
    rfl,
    by decide +kernel,
    by decide +kernel,
    gives_eq (by decide +kernel)⟩

theorem witness_MatrixCommands_zero :
    mats.myJob.grantsPanels (MatrixCmd.blank mats (.zero 0xF) 0).panels = true ∧
    EngineRoom mats [] ∧
    mats.myJob.queued < 8 ∧
    (onNext (exec (.mzero 0xF) mats) fun t => t.myJob.mcmds.length == 1 && t.pc == 4#64) = true ∧
    mats.myJob.grantsPanels (MatrixCmd.blank mats (.zero 0x10) 0).panels = false :=
  ⟨by decide +kernel,
    by unfold EngineRoom; decide +kernel,
    by decide +kernel,
    by decide +kernel,
    by decide +kernel⟩

theorem witness_MatrixCommands_products :
    mats.myJob.grantsPanels ((List.range 4).map fun n => (0#4 : BitVec 4).toNat + n) = true ∧
    StreamsPass mats [mats.greg 1, mats.greg 2] (fun _ => true) false ∧
    badKcount (mats.greg 1) 0 = false ∧
    EngineRoom mats (productLocks (mats.greg 1) (mats.greg 2) 2 2 0 0 0 2) ∧
    (onNext (exec (.mstep 0 1 2 3 1 0) mats) fun t => t.myJob.mcmds.map (fun c => (c.op, c.md, c.shape, c.acc, c.count)) == [(.step, 0, 3, true, 2)] && t.locks.length == 2 && t.greg 1 == streamA) = true ∧
    (onNext (exec (.mloop 0 1 2 3 0 7) mats) fun t => t.myJob.mcmds.map (fun c => (c.op, c.acc, c.count)) == [(.loop, false, 7)] && (t.greg 1).curk == 7#32 && (t.greg 2).curk == 7#32) = true ∧
    mats.myJob.grantsPanels [(1#4 : BitVec 4).toNat + 3] = false ∧
    TrapsIllegal mats (.mstep 1 1 2 3 1 0) ∧
    TrapsIllegal mats (.mloopC 1 1 2 3 1 0) :=
  ⟨by decide +kernel,
    ⟨⟨.ieee, by decide +kernel⟩, by decide +kernel⟩,
    by decide +kernel,
    by unfold EngineRoom; decide +kernel,
    by decide +kernel,
    by decide +kernel,
    by decide +kernel,
    gives_eq (by decide +kernel),
    gives_eq (by decide +kernel)⟩

theorem witness_MatrixCommands_coop :
    (coops 8).myJob.grantsPanels [0] = true ∧
    StreamsPass (coops 8) [(coops 8).greg 1, (coops 8).greg 2] (fun _ => true) false ∧
    coopCols ((coops 8).greg 1) = 3 ∧
    (coops 8).myRank = some (9, 2) ∧
    coopRows ((coops 8).greg 1) * coopCols ((coops 8).greg 1) * coopParts ((coops 8).greg 1) = 3 ∧
    EngineRoom (coops 8) (productLocks ((coops 8).greg 1) ((coops 8).greg 2) 1 1 0 128 0 2) ∧
    (onNext (exec (.mloopC 0 1 2 0 1 0) (coops 8)) fun t => t.myJob.mcmds.map (fun c => (c.op, c.tile, c.part)) == [(.coop, 2, 0)] && (t.greg 1).curk == 2#32) = true :=
  ⟨by decide +kernel,
    ⟨⟨.ieee, by decide +kernel⟩, by decide +kernel⟩,
    by decide +kernel,
    by decide +kernel,
    by decide +kernel,
    by unfold EngineRoom; decide +kernel,
    by decide +kernel⟩

/-- Rank 2 of three parts of tile 0, whose origin, rank 0, has accepted it under its command 5. -/
def answered : State := (coops 0x40).setJob fun j => { j with coopAsk := some ⟨⟨0, 0, 1⟩, 9, 0, 2, 0, 2, 0x40#8, 0#8, 0#8, some (some 5)⟩ }

theorem witness_MatrixCommands_part :
    answered.myRank = some (9, 2) ∧
    coopParts (answered.greg 1) = 3 ∧
    StreamsPass answered [answered.greg 1, answered.greg 2] (fun _ => true) false ∧
    (answered.member 9 0).map (fun o => o.id) = some ⟨0, 0, 1⟩ ∧
    answered.myJob.coopAnswer ⟨⟨0, 0, 1⟩, 9, 0, 2, 0, 2, 0x40#8, 0#8, 0#8, none⟩ = some (some (some 5)) ∧
    EngineRoom answered (productLocks (answered.greg 1) (answered.greg 2) 1 1 0 0 1 1) ∧
    (onNext (exec (.mloopC 0 1 2 0 1 0) answered) fun t => t.myJob.mcmds.map (fun c => (c.tile, c.part, c.origin)) == [(0, 2, some (⟨0, 0, 1⟩, 5))] && t.myJob.coopAsk == none) = true :=
  ⟨by decide +kernel,
    by decide +kernel,
    ⟨⟨.ieee, by decide +kernel⟩, by decide +kernel⟩,
    by decide +kernel,
    by decide +kernel,
    by unfold EngineRoom; decide +kernel,
    by decide +kernel⟩

theorem witness_MatrixCommands_transfers :
    mats.myJob.grantsPanels [(3#4 : BitVec 4).toNat] = true ∧
    StreamsPass mats [mats.greg 1] (fun f => decide (f ≤ 2)) true ∧
    StreamsPass mats [mats.greg 1] (fun f => f == 0) true ∧
    EngineRoom mats ((mats.greg 1).boxes 2 65 1 64 true) ∧
    EngineRoom mats ((mats.greg 1).boxes 2 65 1 1 false) ∧
    (onNext (exec (.mdrain 3 1 1 1) mats) fun t => t.myJob.mcmds.map (fun c => (c.op, c.md)) == [(.drain true, 3)] && t.myJob.segment.scope == 5 && t.locks.map (fun l => (l.lo, l.hi, l.write)) == [(0x304, 0x4100, true)]) = true ∧
    (onNext (exec (.mlda 3 1 1) mats) fun t => t.myJob.mcmds.map (fun c => c.op) == [.lda]) = true ∧
    (onNext (exec (.mrescRow 3 1 1) mats) fun t => t.myJob.mcmds.map (fun c => c.op) == [.resc 1]) = true ∧
    (onNext (exec (.mrescCol 3 1 1) mats) fun t => t.myJob.mcmds.map (fun c => c.op) == [.resc 2]) = true ∧
    (onNext (exec (.mrescS 3 1) mats) fun t => t.myJob.mcmds.map (fun c => (c.op, c.scalar)) == [(.resc 0, 0x0000000100000002#64)]) = true ∧
    mats.myJob.grantsPanels [(4#4 : BitVec 4).toNat] = false ∧
    TrapsIllegal mats (.mlda 4 1 1) ∧
    TrapsIllegal mats (.mrescS 4 1) :=
  ⟨by decide +kernel,
    ⟨⟨.ieee, by decide +kernel⟩, by decide +kernel⟩,
    ⟨⟨.ieee, by decide +kernel⟩, by decide +kernel⟩,
    by unfold EngineRoom; decide +kernel,
    by unfold EngineRoom; decide +kernel,
    by and_intros <;> first | decide +kernel | exact gives_eq (by decide +kernel)⟩

/-- A command of segment 0, tagged 3, is queued. -/
def pending : State := mats.setJob fun j => { j with segments := [⟨0, 3, none, false, 1⟩], mcmds := [MatrixCmd.blank mats (.zero 1) 0] }

theorem witness_MatrixControl :
    (mats.stream ⟨.job mats.myJob.id, matrixStrm⟩).map (fun t => t.ended) = some false ∧
    (onNext (exec (.mbatch 2 1 3) mats) fun t => t.myJob.segs.map (fun g => (g.no, g.batch, g.give, g.closed)) == [(1, 3, some 2, false)]) = true ∧
    pending.myJob.segmentBusy pending.myJob.segment = true ∧
    (onNext (exec (.mbatch 2 1 4) pending) fun t => t.myJob.segs.map (fun g => (g.no, g.batch, g.closed)) == [(0, 3, true), (1, 4, false)]) = true ∧
    mats.myJob.batchBusy (0#3 : BitVec 3).toNat = false ∧
    (onNext (exec (.mwait 0) mats) fun t => t.pc == 4#64) = true ∧
    pending.myJob.batchBusy (3#3 : BitVec 3).toNat = true ∧
    Completes pending (.mwait 3) pending.stall ∧
    mats.myJob.mcmds = [] ∧
    (onNext (exec .mwaitAll mats) fun t => t.pc == 4#64) = true ∧
    pending.myJob.mcmds ≠ [] ∧
    Completes pending .mwaitAll pending.stall ∧
    (onNext (exec (.mmigWait 1) mats) fun t => t.myJob.mpolicy == some 2) = true := by and_intros <;> first | decide +kernel | exact gives_eq (by decide +kernel)

/-- A copy stream whose pages are held: g1 views its scratchpad at 0x1000, g2 at 0x4000, by rows of 256 bytes and planes of 4,096. -/
def viewD : StreamReg := { StreamReg.zero with base := 0x1000#64, rstride := 256#32, sstride := 4096#32, ctl := 1#8 }
def viewS : StreamReg := { viewD with base := 0x4000#64 }
def copies : State := ((paged cpy).setGreg 1 viewD).setGreg 2 viewS

/-- With the shape word of 2 planes of 3 rows of 16 bytes in s1, and of 1 plane in s2. -/
def shaped : State := ((copies.setS 1 0x0000020003000010#64).setS 2 0x0000000003000010#64).setS 3 16

theorem witness_CopyOps_ranges :
    byteShape (shaped.sreg 3) = some ⟨1, 1, 16⟩ ∧
    wordShape false (shaped.sreg 2) = some ⟨1, 3, 16⟩ ∧
    wordShape true (shaped.sreg 1) = some ⟨2, 3, 16⟩ ∧
    (shaped.greg 1).space = 1 ∧
    (shaped.greg 2).space = 1 ∧
    NoArm shaped ∧
    EngineRoom shaped [⟨.scratch, 0x4000, 0x5210, false⟩, ⟨.scratch, 0x1000, 0x2210, true⟩] ∧
    shaped.myJob.copiesQueued < 16 ∧
    (viewS.span ⟨2, 3, 16⟩) = (0x4000, 0x5210) ∧
    (⟨.scratch, 0x4000, 0x5210, false⟩ : CopyRange).refused shaped = false ∧
    (⟨.scratch, 0x1000, 0x2210, true⟩ : CopyRange).refused shaped = false :=
  ⟨by decide +kernel,
    by decide +kernel,
    by decide +kernel,
    by decide +kernel,
    by decide +kernel,
    rfl,
    by unfold EngineRoom; decide +kernel,
    by decide +kernel,
    by decide +kernel,
    by decide +kernel,
    by decide +kernel⟩

theorem witness_CopyOps_transfers :
    (onNext (exec (.cp 1 2 3 5 7) shaped) fun t => t.myJob.copies.map (fun c => (c.op, c.rowBytes, c.scope, c.tag)) == [(.linear, 16, 5, 7)] && t.locks.map (fun l => (l.lo, l.hi, l.write)) == [(0x4000, 0x4010, false), (0x1000, 0x1010, true)] && t.pc == 4#64) = true ∧
    (onNext (exec (.cp2d 1 2 2 5 7) shaped) fun t => t.myJob.copies.map (fun c => (c.op, c.planes, c.rows)) == [(.plane, 1, 3)]) = true ∧
    (onNext (exec (.cp3d 1 2 1 5 7) shaped) fun t => t.myJob.copies.map (fun c => (c.op, c.planes, c.rows)) == [(.volume, 2, 3)]) = true ∧
    (onNext (exec (.cpFill 1 3 1 5 7) shaped) fun t => t.myJob.copies.map (fun c => c.op) == [.fill 16]) = true ∧
    (onNext (exec (.cpY 1 2 3 5 3 0) shaped) fun t => t.myJob.copies.map (fun c => (c.op, c.tag)) == [(.linear, 16)] && t.pc == 0#64 && t.me.frag.wait == .copy shaped.ticket 12#64) = true ∧
    2 ^ 32 < ((shaped.setS 3 0x100000001).sreg 3).toNat ∧
    TrapsIllegal (shaped.setS 3 0x100000001) (.cp 1 2 3 5 7) ∧
    bitsOf ((shaped.setS 3 0x0100000000000000).sreg 3) 63 56 ≠ 0 ∧
    TrapsIllegal (shaped.setS 3 0x0100000000000000) (.cp2d 1 2 3 5 7) ∧
    byteShape 0x100000000#64 = some ⟨1, 1, 0x100000000⟩ := by and_intros <;> first | decide +kernel | exact gives_eq (by decide +kernel)

/-- g1 is indexed by a list of rows 5, 1 and 5 at 0x100 of the scratchpad. -/
def listed : State :=
  (shaped.setGreg 1 { viewD with sideBase := 0x100#64 }).poolWrite probeId 0x100 (leBytes 4 5 ++ leBytes 4 1 ++ leBytes 4 5)

theorem witness_CopyOps_scatter :
    wordShape false (listed.sreg 2) = some ⟨1, 3, 16⟩ ∧
    (listed.greg 1).sideBase.toNat % 4 = 0 ∧
    readIndices listed ⟨listed.myJob.current, listed.fragOp⟩ (listed.greg 1) 3 5 = (.ok [5, 1, 5], listed) ∧
    ((listed.greg 1).indexSpan 16 [5, 1, 5]) = (0x1100, 0x1510) ∧
    EngineRoom listed [⟨.scratch, 0x4000, 0x4210, false⟩, ⟨.scratch, 0x100, 0x10C, false⟩, ⟨.scratch, 0x1100, 0x1510, true⟩] ∧
    (onNext (exec (.cpG 1 2 2 5 7 1) listed) fun t => t.myJob.copies.map (fun c => (c.op, c.index)) == [(.indexed true, some [5, 1, 5])] && t.locks.map (fun l => (l.lo, l.hi, l.write)) == [(0x100, 0x10C, false), (0x4000, 0x4210, false), (0x1100, 0x1510, true)]) = true :=
  ⟨by decide +kernel,
    by decide +kernel,
    reads_eq (by decide +kernel),
    by decide +kernel,
    by unfold EngineRoom; decide +kernel,
    by decide +kernel⟩

/-- g1 views the scratchpad of rank 1 of crew 9, with its semaphore at 0x40. -/
def casting : State :=
  let s := shaped.setGreg 1 { viewD with ctl := 2#8, sclBase := 2#64, sstride := 0x40#32 }
  { s with
    sch := { s.sch with launches := [launch0 2] }
    myJob := { s.myJob with crews := [⟨9, 2⟩], current := some 9 }
    jobs := [{ s.myJob with id := ⟨0, 0, 1⟩, core := some 1, crews := [⟨9, 1⟩], current := some 9 }] }

/-- The mask names rank 5, which no job holds. -/
def casting5 : State := casting.setGreg 1 { viewD with ctl := 2#8, sclBase := 32#64 }

theorem witness_CopyOps_multicast :
    mcastRanks (casting.greg 1) = [1] ∧
    (casting.member 9 1).map (fun j => j.id) = some ⟨0, 0, 1⟩ ∧
    (casting.greg 1).space = 2 ∧
    (casting.greg 1).sstride.toNat % 8 = 0 ∧
    (⟨.peer 1, 0x1000, 0x1210, true⟩ : CopyRange).refused casting = false ∧
    (⟨.peer 1, 0x40, 0x44, true⟩ : CopyRange).refused casting = false ∧
    EngineRoom casting [⟨.scratch, 0x4000, 0x4210, false⟩, ⟨.peer 1, 0x1000, 0x1210, true⟩] ∧
    (onNext (exec (.cpMc 1 2 2 5 7 1) casting) fun t => t.myJob.copies.map (fun c => (c.op, c.targets)) == [(.multicast true, [⟨1, 0, false⟩])] && t.myJob.ext) = true ∧
    mcastRanks (casting5.greg 1) = [5] ∧
    casting5.member 9 5 = none ∧
    Traps casting5 (.cpMc 1 2 2 5 7 0) { cause := causeMcastPartition, space := 2, lanes := some 32#128 } ∧
    mcastRanks { viewD with sideBase := 1#64 <<< 63 } = [127] :=
  ⟨by decide +kernel,
    by decide +kernel,
    by decide +kernel,
    by decide +kernel,
    by decide +kernel,
    by decide +kernel,
    by unfold EngineRoom; decide +kernel,
    by decide +kernel,
    by decide +kernel,
    by decide +kernel,
    gives_eq (by decide +kernel),
    by decide +kernel⟩

/-- An operation of tag 7 is in the queue. -/
def copying : State := shaped.setJob fun j => { j with copies := [CopyCmd.make shaped .linear viewD viewS ⟨1, 1, 16⟩ 5#3 7] }

/-- One of tag 7 at .dev has completed. -/
def copied : State := shaped.setJob fun j => { j with cdone := [(7, 5)] }

theorem witness_CopyOps_control :
    (casting.greg 1).space % 3 ≠ 0 ∧
    (casting.greg 1).start (casting.greg 1).base % 8 = 0 ∧
    EngineRoom casting [] ∧
    (⟨.peer 0, 0x1000, 0x1004, true⟩ : CopyRange).refused casting = true ∧
    (⟨.scratch, 0x1000, 0x1004, true⟩ : CopyRange).refused copying = false ∧
    (onNext (exec (.cpSem 1 3 7 0) copying) fun t => t.myJob.copies.map (fun c => (c.tag, c.scope)) == [(7, 5), (7, 5)] && (t.myJob.copies.map fun c => c.op).getLast? == some (.sem 16#32 [copying.ticket]) && t.myJob.ext) = true ∧
    copied.myJob.covered 7 0 = [] ∧
    (onNext (exec (.cpWait 7 0) copied) fun t => t.myJob.cdone == [] && t.pc == 4#64) = true ∧
    copying.myJob.covered 0 1 ≠ [] ∧
    Completes copying (.cpWait 0 1) copying.stall ∧
    copying.myJob.covered 6 0 = [] :=
  ⟨by decide +kernel,
    by decide +kernel,
    by unfold EngineRoom; decide +kernel,
    by and_intros <;> first | decide +kernel | exact gives_eq (by decide +kernel)⟩

/-! ### Witnesses: rays, textures, passes, the ring -/

theorem withReadBy_eq {s u : State} {sc : Nat} {a : Word} {n : Nat} {bs : List Byte} (h : ReadsBytes s sc a n bs u)
    (e : Option Nat) (k : State → List Byte → Result) : withReadBy e s sc a n k = k u bs := by
  unfold ReadsBytes at h
  simp [withReadBy, h]

theorem withRead_eq {s u : State} {sc : Nat} {a : Word} {n : Nat} {bs : List Byte} (h : ReadsBytes s sc a n bs u)
    (k : State → List Byte → Result) : withRead s sc a n k = k u bs := withReadBy_eq h none k

theorem recordsPass_of {s u : State} {k : AccessKind} {lanes : List (Nat × Word)} {ps : List (Nat × Spot)}
    (hw : s.mustWait lanes = false) (hc : checkAccess s (recordReq k) lanes = .ok (u, ps))
    (hh : (ps.any fun p => spotHeld u 1 true p.2 256) = false)
    (hp : (lanes.zip ps).find? (fun x => spotPoisoned u 1 x.2.2 256) = none) : RecordsPass s k lanes u := by
  intro go
  simp only [withRecords, hw, hc, hh, hp, Bool.false_eq_true, if_false]

theorem readRays_one {s u v : State} {l : Nat} {a : Word} {r d : List Byte} (h : ReadsBytes s 1 a 256 r u)
    (hd : (BitVec.ofNat 64 (imageField r 0x20 8)).toNat % 64 = 0)
    (h2 : ReadsBytes u 5 (BitVec.ofNat 64 (imageField r 0x20 8)) 64 d v) (k : State → List Ray → Result) :
    readRays s [(l, a)] k = k v [newRay v l a r d] := by
  simp only [readRays, withRead_eq h, hd, withRead_eq h2, ne_eq, not_true_eq_false, if_false]

theorem readStates_one {s u : State} {l : Nat} {a : Word} {bs : List Byte} (h : ReadsBytes s 1 (a + 0x2C#64) 4 bs u)
    (k : State → List (Nat × Word × Nat) → Result) : readStates s [(l, a)] k = k u [(l, a, leNat bs)] := by
  simp only [readStates, withRead_eq h]

theorem readParked_one {s u : State} {w : Nat → Nat → Nat} {l d : Nat} {r q : Ray} {bs : List Byte}
    (h : ReadsBytes s 1 r.record 256 bs u) (hq : r.ofRecord bs = q) (hd : w 0 l / 2 ^ 24 = d)
    (k : State → List (Nat × Ray × Nat) → Result) : readParked s w [(l, r)] k = k u [(l, q, d)] := by
  simp only [readParked, withRead_eq h, hq, hd]

theorem readTriangles_one {s u : State} {w : Nat → Nat → Nat} {l : Nat} {r : Ray} {e : Nat} {bs : List Byte} (he : e ≠ 3)
    (h : ReadsBytes s 5 (BitVec.ofNat 64 (r.tris.toNat + 48 * w 2 l)) 48 bs u)
    (k : State → List (Nat × List Byte) → Result) : readTriangles s w [(l, r, e)] k = k u [(l, bs)] := by
  simp only [readTriangles, withRead_eq h, he, if_false]

theorem readTexels_one {s u : State} {n a : Nat} {bs : List Byte} (h : ReadsBytes s 1 (BitVec.ofNat 64 a) n bs u)
    (k : State → List (Nat × List Byte) → Result) : readTexels s n [a] k = k u [(a, bs)] := by
  simp only [readTexels, withReadBy_eq h]

/-- A record at 0x2000 whose ray starts at (0.25, 0.25, -1) along z, with tmin 0 and tmax 100, and names the descriptor at
0x3000: version 1, nodes at 0x4000, triangles at 0x5000, root node 0 in entry 0. -/
def recordBytes0 : List Byte :=
  leBytes 4 0x3E800000 ++ leBytes 4 0x3E800000 ++ leBytes 4 0xBF800000 ++ leBytes 4 0 ++ leBytes 8 0 ++
    leBytes 4 0x3F800000 ++ leBytes 4 0x42C80000 ++ leBytes 8 0x3000

def bvhBytes : List Byte := leBytes 8 1 ++ leBytes 8 0x4000 ++ leBytes 16 0x5000 ++ leBytes 8 1

/-- The unit triangle of the plane z = 0, opaque, with primitive identifier 7. -/
def triangleBytes : List Byte :=
  leBytes 12 0 ++ leBytes 12 0x3F800000 ++ leBytes 4 0 ++ leBytes 8 0x3F800000 ++ leBytes 4 7 ++ leBytes 8 1

/-- Lane 0 alone is active under p1, and s1 is the record's address. -/
def raysS : State :=
  let s := (paged vec).setS 1 0x2000
  let m := cellsSet (cellsSet (cellsSet [] 0x2000 recordBytes0) 0x3000 bvhBytes) 0x5000 triangleBytes
  { s with mm := { s.mm with mem := m }, me := s.me.setPred 1 1#128 }

def lane0 : List (Nat × Word) := [(0, 0x2000#64)]

/-- The ray, and the state once the record and the descriptor are read. -/
def rayMid : State := (readVia raysS (raysS.viaMe 1) 0x2000#64 256).2
def rayRead0 : State := (readVia rayMid (rayMid.viaMe 5) 0x3000#64 64).2
def ray0 : Ray := newRay rayRead0 0 0x2000#64 (cellsGet raysS.mm.mem 0x2000 256) (cellsGet raysS.mm.mem 0x3000 64)
def pinned : State := (pinVersion rayRead0 ray0.job.part ray0.ctx ray0.desc ray0.version).getD rayRead0

/-- The ray of that record in the unit, in a phase. -/
def ray3 (p : RayPhase) : Ray := { ray0 with id := 3, stack := [.run 0 0 0 1], phase := p }

/-- The unit holds it. -/
def holding (p : RayPhase) : State :=
  let s := (((raysS.setV 4 0x01000000#4096).setV 5 0x3F800000#4096).setV 6 0#4096)
  s.setRays [ray3 p]

/-- It has met triangle 9 at t = 1, u = v = 0.25, of hit group 6 and primitive 7. -/
def candidate (shown : Bool) : RayPhase := .candidate 0x3F800000#32 9#32 0x3E800000#32 0x3E800000#32 6#8 7#32 shown

def metState : State := (readVia (holding (candidate false)) ((holding (candidate false)).viaMe 1) 0x202C#64 4).2

/-- The unit has parked it: its record holds its traversal state, with a hit at t = 2. -/
def parkedS : State := parkRay (holding .traversing) { ray3 .traversing with best := some (0x40000000#32, 1#32, 0#32, 0#32) }
def parkedRead : State := readOf parkedS 1 0x2000#64 256
def parkedRay : Ray := (ray3 .parked).ofRecord (cellsGet parkedS.mm.mem 0x2000 256)
def triState : State := readOf parkedRead 5 0x5000#64 48

theorem witness_RayForms_submit :
    laneAddrs raysS 3 1 (raysS.active 1 &&& ~~~ raysS.me.frag.rayLanes) = lane0 ∧
    RecordsPass raysS .write lane0 raysS ∧
    ((∀ k, readRays raysS lane0 k = k rayRead0 [ray0])) ∧
    rayRead0.raysHeld rayRead0.core < 256 ∧
    pinVersion rayRead0 ray0.job.part ray0.ctx ray0.desc ray0.version = some pinned ∧
    (onNext (exec (.rayQ 4 3 1 1) raysS) fun t => laneOf (t.vreg 4) 0 == 1#32 && t.guide.rays.map (fun r => (r.lane, r.stack)) == [(0, [.node 0 0])] && t.guide.versions.map (fun e => (e.version, e.pins)) == [(1#32, 1)]) = true :=
  ⟨by decide +kernel,
    recordsPass_of (ps := [(0, .mem ⟨1, 0x2000, false, 0⟩)]) (by decide +kernel) (ok_eq (by decide +kernel)) (by decide +kernel) (by decide +kernel),
    readRays_one (u := rayMid) (v := rayRead0) (bytes_eq (by decide +kernel)) (by decide +kernel) (bytes_eq (by decide +kernel)),
    by decide +kernel,
    by decide +kernel,
    by decide +kernel⟩

/-- The unit of the core is full. -/
def turnedAway : State := raysS.setRays ((List.range 256).map fun n => { ray0 with id := n, record := 0x9000#64 })
def crowdMid : State := (readVia turnedAway (turnedAway.viaMe 1) 0x2000#64 256).2
def crowdRead : State := (readVia crowdMid (crowdMid.viaMe 5) 0x3000#64 64).2

theorem witness_RayForms_full :
    RecordsPass turnedAway .write lane0 turnedAway ∧
    ((∀ k, readRays turnedAway lane0 k = k crowdRead [newRay crowdRead 0 0x2000#64 (cellsGet raysS.mm.mem 0x2000 256) (cellsGet raysS.mm.mem 0x3000 64)])) ∧
    256 ≤ crowdRead.raysHeld crowdRead.core ∧
    (onNext (exec (.rayQ 4 3 1 1) turnedAway) fun t => t.pc == turnedAway.pc && t.me.frag.wait == .stalled 0) = true :=
  ⟨recordsPass_of (ps := [(0, .mem ⟨1, 0x2000, false, 0⟩)]) (by decide +kernel) (ok_eq (by decide +kernel)) (by decide +kernel) (by decide +kernel),
    readRays_one (u := crowdMid) (v := crowdRead) (bytes_eq (by decide +kernel)) (by decide +kernel) (bytes_eq (by decide +kernel)),
    by decide +kernel,
    by decide +kernel⟩

/-- The unit has one slot for two lanes: lane 0 is submitted, the form stalls with lane 1 left, and finds it full when it goes on (R415). -/
def lastSlot : State :=
  let s := raysS.setRays ((List.range 255).map fun n => { ray0 with id := n, record := 0x9000#64 })
  { s with me := s.me.setPred 1 3#128 }

theorem witness_RayForms_lanes :
    (onNext (exec (.rayQ 4 3 1 1) lastSlot) fun t => t.pc == lastSlot.pc && t.me.frag.rayLanes == 1#128 && t.raysHeld t.core == 256 &&
      laneOf (t.vreg 4) 0 == 1#32) = true := by decide +kernel

theorem witness_RayForms_hit :
    RecordsPass (holding (candidate false)) .read lane0 (holding (candidate false)) ∧
    ((∀ k, readStates (holding (candidate false)) lane0 k = k metState [(0, 0x2000#64, 0)])) ∧
    rayEvent metState 0 0x2000#64 0 = some [0x601, 0x3F800000, 9, 0x34003400] ∧
    (onNext (exec (.rayHit 8 3 1 1) (holding (candidate false))) fun t => (List.range 4).map (fun k => laneOf (t.me.vreg (8 + k)) 0) == [0x601#32, 0x3F800000#32, 9#32, 0x34003400#32] && t.guide.rays.map (fun r => r.phase) == [candidate true]) = true :=
  ⟨recordsPass_of (ps := [(0, .mem ⟨1, 0x2000, false, 0⟩)]) (by decide +kernel) (ok_eq (by decide +kernel)) (by decide +kernel) (by decide +kernel),
    readStates_one (u := metState) (bs := [0, 0, 0, 0]) (bytes_eq (by decide +kernel)),
    by decide +kernel,
    by decide +kernel⟩

/-- Of the triangle of R418's test, t = 1, u = v = 0.25. -/
theorem witness_RayForms_resolve :
    (∀ x ∈ lane0, elemOf (parkedS.vregAt 4 0) 32 x.1 / 2 ^ 24 < 4) ∧
    RecordsPass parkedS .write lane0 parkedS ∧
    (lane0.all fun x => (parkedS.rayAt x.2).all fun r => r.phase != .parking) = true ∧
    parkedLanes parkedS lane0 = [(0, ray3 .parked)] ∧
    parkedS.raysHeld parkedS.core + [(0, ray3 .parked)].length ≤ 256 ∧
    (∀ k, readParked parkedS (fun n l => elemOf (parkedS.vregAt 4 n) 32 l) [(0, ray3 .parked)] k = k parkedRead [(0, parkedRay, 1)]) ∧
    (∀ k, readTriangles parkedRead (fun n l => elemOf (parkedS.vregAt 4 n) 32 l) [(0, parkedRay, 1)] k = k triState [(0, triangleBytes)]) ∧
    hitOf ray0 triangleBytes = some (0x3F800000, 0x3E800000, 0x3E800000) ∧
    (onNext (exec (.rayRes 4 3 1 1) parkedS) fun t => t.guide.rays.map (fun r => (r.phase, r.best)) == [(.traversing, some (0x3F800000#32, 7#32, 0x3E800000#32, 0x3E800000#32))]) = true ∧
    (onNext (exec (.rayRes 4 3 1 1) (holding (candidate true))) fun t => t.guide.rays.map (fun r => r.best) == [some (0x3F800000#32, 7#32, 0x3E800000#32, 0x3E800000#32)]) = true ∧
    TrapsIllegal ((holding .parked).setV 4 0x04000000#4096) (.rayRes 4 3 1 1) :=
  ⟨by decide +kernel,
    recordsPass_of (ps := [(0, .mem ⟨1, 0x2000, false, 0⟩)]) (by decide +kernel) (ok_eq (by decide +kernel)) (by decide +kernel) (by decide +kernel),
    by decide +kernel,
    by decide +kernel,
    by decide +kernel,
    readParked_one (bs := cellsGet parkedS.mm.mem 0x2000 256) (bytes_eq (by decide +kernel)) (by rw [parkedRay]) (by decide +kernel),
    readTriangles_one (u := triState) (by decide) (bytes_eq (by decide +kernel)),
    by decide +kernel,
    by decide +kernel,
    by decide +kernel,
    gives_eq (by decide +kernel)⟩

/-- A texture of 2 x 2 FP32 texels, 1, 2, 3 and 4, clamped and filtered linearly, its descriptor at 0x1000; the coordinates stand
in v1 to v3. -/
def texBytes : List Byte :=
  leBytes 8 0x4000 ++ leBytes 2 1 ++ leBytes 2 1 ++ leBytes 4 0 ++ leBytes 8 16 ++ leBytes 4 8 ++ leBytes 1 0 ++ leBytes 3 1

def texS : State :=
  let s := (paged vec).setS 1 0x1000
  let ts := leBytes 4 0x3F800000 ++ leBytes 4 0x40000000 ++ leBytes 4 0x40400000 ++ leBytes 4 0x40800000
  { s with mm := { s.mm with mem := cellsSet (cellsSet [] 0x1000 texBytes) 0x4000 ts }, me := s.me.setPred 1 1#128 }

/-- The coordinates (0.5, 0.5) in lane 0. -/
def texMid : State := (texS.setV 1 0x3F000000#4096).setV 2 0x3F000000#4096

def texU : State := (readVia texS (texS.viaMe 1) 0x1000#64 32).2
def texW : State := (readVia texU (texU.viaMe 1) 0x4000#64 4).2

/-- The same with a format that R186 reserves. -/
def texBad : State := { texS with mm := { texS.mm with mem := cellsSet texS.mm.mem 0x100E [5] } }

theorem witness_TextureForms :
    (texS.sreg 1).toNat % 32 = 0 ∧
    ReadsBytes texS 1 (texS.sreg 1) 32 texBytes texU ∧
    texU.me = texS.me ∧
    (Texture.ofBytes texBytes).reserved = false ∧
    (Texture.ofBytes texBytes).comps = 1 ∧
    (filtered (Texture.ofBytes texBytes) 2 [.fin false 0 0, .fin false 0 0]).spots.eraseDups = [0x4000] ∧
    (filtered (Texture.ofBytes texBytes) 3 [.fin false 0 0, .fin false 0 0, .fin false 0 0]).spots.eraseDups = [0x4000] ∧
    (Sample.texel ((Texture.ofBytes texBytes).spot 0 0 0)).spots = [0x4000] ∧
    rangePieces 2 0x4000 4 = [(0x4000, 4)] ∧
    texU.mustWait [(0, 0x4000#64)] = false ∧
    checkPieces textureUnit texU [(0x4000, 4)] = .ok texU ∧
    ((∀ k, readTexels texU 4 [0x4000] k = k texW [(0x4000, leBytes 4 0x3F800000)])) :=
  ⟨by decide +kernel,
    bytes_eq (by decide +kernel),
    by decide +kernel,
    by decide +kernel,
    by decide +kernel,
    by decide +kernel,
    by decide +kernel,
    by decide +kernel,
    by decide +kernel,
    by decide +kernel,
    done_eq (by decide +kernel),
    readTexels_one (bytes_eq (by decide +kernel))⟩

/-- Texel (1, 1) of a fetch; the mean of the four texels; NaN for a NaN coordinate. -/
theorem witness_TextureForms_values :
    (onNext (exec (.tex2d 4 1 1 1) texS) fun t => laneOf (t.vreg 4) 0 == 0x3F800000#32) = true ∧
    (onNext (exec (.tex3d 4 1 1 1) texS) fun t => laneOf (t.vreg 4) 0 == 0x3F800000#32) = true ∧
    (onNext (exec (.texFetch 4 1 1 1) ((texS.setV 1 1#4096).setV 2 1#4096)) fun t => laneOf (t.vreg 4) 0 == 0x40800000#32) = true ∧
    (onNext (exec (.tex2d 4 1 1 1) texMid) fun t => laneOf (t.vreg 4) 0 == 0x40200000#32) = true ∧
    (onNext (exec (.tex2d 4 1 1 1) (texS.setV 1 0x7F800001#4096)) fun t => laneOf (t.vreg 4) 0 == 0x7FC00000#32) = true ∧
    (Texture.ofBytes (cellsGet texBad.mm.mem 0x1000 32)).reserved = true ∧
    (onNext (exec (.texFetch 4 1 1 1) texBad) fun t => t.sch.records.map (fun r => r.record.cause) == [causeIllegalType]) = true ∧
    (Texture.ofBytes (cellsGet { texS with mm := { texS.mm with mem := cellsSet texS.mm.mem 0x100E [2] } }.mm.mem 0x1000 32)).comps = 4 ∧
    (onNext (exec (.texFetch 6 1 1 1) { texS with mm := { texS.mm with mem := cellsSet texS.mm.mem 0x100E [2] } }) fun t => t.sch.records.map (fun r => r.record.cause) == [causeIllegalInstruction]) = true := by and_intros <;> decide +kernel

/-- A pass of 64 x 33 pixels with two emitters, its descriptor at 0x1000 and its draw table at 0x1100. -/
def passBytes : List Byte :=
  leBytes 4 9 ++ leBytes 2 64 ++ leBytes 2 33 ++ leBytes 8 2 ++ leBytes 8 0x10000 ++ leBytes 8 0x10000 ++ leBytes 32 0x1100

def passS : State :=
  let s := (paged ctl).setS 1 0x1000
  { s with mm := { s.mm with mem := cellsSet [] 0x1000 passBytes } }

/-- The pass as an open one, and one whose bins are resolved, with the identifier 5 at pixel 3 of bin 1 in a store. -/
def pass0 : Pass :=
  { id := 8, part := 0, gd := 4, seq := 9#32, desc := 0x1000#64, ctx := 0#12, user := true, width := 64, height := 33,
    emitters := 2, ended := 0, buf := 0x10000#64, size := 0x10000, drawTab := List.replicate 256 0#8, used := 32,
    full := false, closed := false, told := false, prims := [], nextBin := 0 }

def passOpen (s : State) : State := s.setPasses [pass0]

def store1 : VisStore := ⟨4, 0, 0, 8, 1, [(3, BitVec.ofNat 96 (5 + 2 ^ 32 * 0x3F000000 + 2 ^ 64 * 0x1234 + 2 ^ 80 * 0x5678))]⟩

def resolved : State :=
  ((vec.setPasses [{ pass0 with closed := true, nextBin := 2 }]).setStores [store1]).setS 1 0x0000000900000001#64
    |>.setV 1 3#4096

/-- After the descriptor is read, and after the draw table. -/
def passU (s : State) : State := readOf s 5 (s.sreg 1) 64
def passV (s : State) : State := readOf (passU s) 5 (BitVec.ofNat 64 (imageField passBytes 0x20 8)) 256

theorem witness_PassForms_open :
    passS.me.isVector = false ∧
    (passS.sreg 1).toNat % 64 = 0 ∧
    ReadsBytes passS 5 (passS.sreg 1) 64 passBytes (passU passS) ∧
    ReadsBytes (passU passS) 5 (BitVec.ofNat 64 (imageField passBytes 0x20 8)) 256 (List.replicate 256 0#8) (passV passS) ∧
    (passOf (passV passS) 0x1000#64 passBytes (List.replicate 256 0#8)).map (fun q => (q.seq, q.bins, q.emitters)) = some (9#32, 4, 2) ∧
    (passV passS).openPass (passV passS).part = none ∧
    (onNext (exec (.primOpen 1) passS) fun t => t.guide.passes.map (fun q => (q.seq, q.used)) == [(9#32, 32)]) = true ∧
    ReadsBytes (passOpen passS) 5 ((passOpen passS).sreg 1) 64 passBytes (passU (passOpen passS)) ∧
    ((passV (passOpen passS)).openPass (passV (passOpen passS)).part).isSome = true ∧
    (onNext (exec (.primOpen 1) (passOpen passS)) fun t => t.sch.records.map (fun r => r.record.cause) == [causePermission]) = true := by and_intros <;> first | decide +kernel | exact reads_eq (by decide +kernel)

theorem witness_PassForms_emit :
    ((passOpen vmem2).openPass (passOpen vmem2).part).isSome = true ∧
    (onNext (exec (.primEmit 1 2 3 1) (passOpen vmem2)) fun t => t.guide.arrivals.map (fun q => (q.ends, q.ident, q.xs.length)) == [(false, 0#32, 9), (false, 508#32, 9)]) = true ∧
    (onNext (exec .primEnd (passOpen ctl)) fun t => t.guide.arrivals.map (fun q => q.ends) == [true]) = true ∧
    vec.openPass vec.part = none ∧
    Traps vec (.primEmit 1 2 3 0) { cause := causePermission } ∧
    split.me.whole = false ∧
    TrapsIllegal split (.primOpen 1) ∧
    TrapsIllegal split (.guideOut 1 2 3) := by and_intros <;> first | decide +kernel | exact gives_eq (by decide +kernel)

theorem witness_PassForms_load :
    (resolved.guide.passes.reverse.find? fun q => q.part == resolved.part && q.seq.toNat == bitsOf (resolved.sreg 1) 63 32).map (fun q => q.id) = some 8 ∧
    bitsOf (resolved.sreg 1) 15 0 < ({ pass0 with closed := true, nextBin := 2 } : Pass).binsWide ∧
    resolved.guide.stores.find? (fun y => y.pass == 8 && y.bin == 1) = some store1 ∧
    (onNext (exec (.visLd 4 1 1 0) resolved) fun t => laneOf (t.vreg 4) 0 == 5#32 && laneOf (t.vreg 5) 0 == 0x3F000000#32 && laneOf (t.vreg 6) 0 == 0x56781234#32 && laneOf (t.vreg 4) 1 == 0xFFFFFFFF#32 && t.guide.stores == [store1]) = true ∧
    (onNext (exec (.visLdRel 4 1 1 0) resolved) fun t => laneOf (t.vreg 4) 0 == 5#32 && t.guide.stores == []) = true ∧
    vec.guide.passes = [] ∧
    Traps vec (.visLd 4 1 1 0) { cause := causePermission } := by and_intros <;> first | decide +kernel | exact gives_eq (by decide +kernel)

/-- A job of guide core 448 whose ring, at 0x20 of its pool, names job 1 of its launch on core 1: two slots at 0 of the consumer,
tags at 0x8000, full semaphore at 0x9000; its free semaphore, at 0x60, counts 2. -/
def ringed : State :=
  let s := (twoJobs.setS 1 0x20).setS 2 0x4000
  let s := { s with myJob := { s.myJob with core := some 448, guide := true } }
  let s := s.poolWrite probeId 0x20 (leBytes 4 0 ++ leBytes 4 1 ++ leBytes 4 0 ++ leBytes 4 0x8000 ++ leBytes 4 0x9000 ++
    leBytes 4 0x60 ++ leBytes 4 2 ++ leBytes 4 1)
  s.poolWrite probeId 0x60 (leBytes 8 2)

theorem witness_PassForms_ring :
    ringed.me.isVector = false ∧
    checkAccess ringed ⟨.scratch, .write, 32, 32, false⟩ [(0, ringed.sreg 1)] = .ok (ringed, [(0, .pool ringed.myJob.id 0x20)]) ∧
    checkAccess ringed ⟨.scratch, .read, 16384, 256, false⟩ [(0, ringed.sreg 2)] = .ok (ringed, [(0, .pool ringed.myJob.id 0x4000)]) ∧
    (Ring.ofBytes (ringed.poolRead ringed.myJob.id 0x20 32)).wellFormed = true ∧
    (Ring.ofBytes (ringed.poolRead ringed.myJob.id 0x20 32)).freeOff + 8 ≤ ringed.myJob.grant ∧
    ((ringed.poolRead ringed.myJob.id 0x20 32).drop 0x1A).take 2 = [0#8, 0#8] ∧
    (namedJob ringed ringed.part 0 1).map (fun x => (x.2.1, x.2.2.map fun j => (j.away, j.core, j.grant))) = some (⟨0, 0, 1⟩, some (false, some 1, 65536)) ∧
    aditJoins (coreDie ringed.core) (coreDie 1) = true ∧
    (Ring.ofBytes (ringed.poolRead ringed.myJob.id 0x20 32)).fits 65536 = true ∧
    ringed.poolNat ringed.myJob.id 0x60 4 = 2 ∧
    ringed.behind (semTicket 0x60) = false ∧
    EngineRoom ringed [⟨.scratch, 0x4000, 0x8000, false⟩] ∧
    (onNext (exec (.guideOut 3 1 2) ringed) fun t => t.guide.sends.map (fun r => (r.slot, r.tagOff, r.srcOff)) == [(1, 0x8000, 0x4000)] && t.poolNat probeId 0x60 4 == 1 && t.poolNat probeId 0x3C 4 == 0 && t.locks.length == 1) = true :=
  ⟨by decide +kernel,
    ok_eq (by decide +kernel),
    ok_eq (by decide +kernel),
    by decide +kernel,
    by decide +kernel,
    by decide +kernel,
    by decide +kernel,
    by decide +kernel,
    by decide +kernel,
    by decide +kernel,
    by decide +kernel,
    by unfold EngineRoom; decide +kernel,
    by decide +kernel⟩

/-! ### Witnesses: steps, exceptions, whole steps of the part -/

/-- A module whose next instruction has this word, and the stream that issues it. -/
def fetched (w : Nat) : State := State.reset.withFetchWord 32 w

/-- The same for an engine that need not be the first to know the word. -/
def fetchedBy (e : Engine) (w : Nat) : State :=
  { State.reset with
    agenda := [.issue ⟨.job probeId, probeStrm e⟩ 0], me := Stream.start ⟨.job probeId, probeStrm e⟩ e (BitVec.allOnes 128) 0#64,
    myJob := probeJob e w }

def turn (w : Nat) : State := { fetched w with agenda := [] }.select (fetched w).me.id 0

def residentIn (r : Residence) (s : State) : State :=
  match r with
  | .ready v => v
  | .wants _ _ _ => s
  | .waits => s

def isReady (r : Residence) : Bool :=
  match r with
  | .ready _ => true
  | .wants _ _ _ => false
  | .waits => false

theorem residence_ready {r : Residence} {s : State} (h : isReady r = true) : r = .ready (residentIn r s) := by
  cases r with
  | ready v => rfl
  | wants _ _ _ => cases h
  | waits => cases h

/-- ADD s1, s2, s3 stands where step fetches. -/
def stepsAdd : State := fetched 0x02084180

/-- FADD.F32 v4, v5, v6, p2 stands where step fetches. -/
def stepsFadd : State := fetchedBy .vector 0x8020A310
def turnV : State := { stepsFadd with agenda := [] }.select stepsFadd.me.id 0

/-- The word of a unit that a tile lacks, on a vector stream of core 0. -/
def stepsGuide : State := fetchedBy .vector 0xE4000000

/-- Its fragment waits, and is only offered. -/
def stepsPoll : State := { stepsAdd with me := { stepsAdd.me with frag := { stepsAdd.me.frag with wait := .peer probeId 0 } } }

theorem witness_StepRunsDecoded_scalar :
    stepsAdd.agenda = [.issue stepsAdd.me.id 0] ∧
    ({ stepsAdd with agenda := [] } : State).stream stepsAdd.me.id = some stepsAdd.me ∧
    (stepsAdd.me.frag :: stepsAdd.me.frags).find? (fun g => g.id == 0) = some stepsAdd.me.frag ∧
    ({ stepsAdd with agenda := [] } : State).mayIssue stepsAdd.me stepsAdd.me.frag = true ∧
    (turn 0x02084180).fetch = some (leBytes 4 0x02084180) ∧
    decodeBytes (coreKind (turn 0x02084180).core) (turn 0x02084180).me.engine (leBytes 4 0x02084180) = .instr (.add 1 2 3) ∧
    (turn 0x02084180).scoreboardHolds (.add 1 2 3) = false ∧
    (turn 0x02084180).me.isVector = false ∧
    stepsAdd.me.isVector = false ∧
    ({ stepsAdd with agenda := [] } : State).offered stepsAdd.me.id 0 = none ∧
    ({ stepsPoll with agenda := [] } : State).offered stepsPoll.me.id 0 = some (stepsPoll.me, stepsPoll.me.frag) ∧
    ({ stepsPoll with agenda := [] } : State).mayIssue stepsPoll.me stepsPoll.me.frag = true ∧
    (onNext (step stepsPoll) fun t => t.me.frag.woken && t.pc == 0#64) = true ∧
    (onNext (step stepsAdd) fun t => t.pc == 4#64) = true := by and_intros <;> decide +kernel

theorem witness_StepRunsDecoded_vector :
    ({ stepsFadd with agenda := [] } : State).mayIssue stepsFadd.me stepsFadd.me.frag = true ∧
    turnV.fetch = some (leBytes 4 0x8020A310) ∧
    decodeBytes (coreKind turnV.core) turnV.me.engine (leBytes 4 0x8020A310) = .instr (.fadd 4 5 6 2 0) ∧
    turnV.scoreboardHolds (.fadd 4 5 6 2 0) = false ∧
    turnV.me.isVector = true ∧
    turnV.me.wantsEntry = none ∧
    (turnV.me.frag.ready && turnV.forbiddenLoopEnd && turnV.fallsThrough (.fadd 4 5 6 2 0)) = false ∧
    turnV.splitNeed (.fadd 4 5 6 2 0) = none ∧
    ({ stepsFadd with agenda := [] } : State).offered stepsFadd.me.id 0 = none ∧
    residence 64 turnV (turnV.needs (.fadd 4 5 6 2 0)) = .ready (residentIn (residence 64 turnV (turnV.needs (.fadd 4 5 6 2 0))) stepsFadd) ∧
    (onNext (step stepsFadd) fun t => t.pc == 4#64) = true := by and_intros <;> first | decide +kernel | exact residence_ready (by decide +kernel)

theorem witness_StepRunsDecoded_rejects :
    (turn 0).fetch = some (leBytes 4 0) ∧
    decodeBytes (coreKind (turn 0).core) (turn 0).me.engine (leBytes 4 0) = .reject .blankWord ∧
    (onNext (step (fetched 0)) fun t => t.sch.records.map (fun r => r.record.cause) == [causeIllegalInstruction]) = true ∧
    ({ stepsGuide with agenda := [] } : State).fetch = some (leBytes 4 0xE4000000) ∧
    coreKind stepsGuide.core = .guide ∧
    decodeBytes .tile .vector (leBytes 4 0xE4000000) = .reject .absentUnit ∧
    stepsGuide.me.wantsEntry = none := by and_intros <;> decide +kernel

/-- The same job on tile core 0. -/
def stepsAbsent : State := { stepsGuide with myJob := { stepsGuide.myJob with core := some 0 } }

/-- s2 has a load on its way. -/
def stepsWait : State := { stepsAdd with me := { stepsAdd.me with pending := [.s 2] } }

theorem witness_StepRunsDecoded_absent :
    ({ stepsAbsent with agenda := [] } : State).mayIssue stepsAbsent.me stepsAbsent.me.frag = true ∧
    ({ stepsAbsent with agenda := [] } : State).select stepsAbsent.me.id 0 = { stepsAbsent with agenda := [] } ∧
    decodeBytes (coreKind stepsAbsent.core) stepsAbsent.me.engine (leBytes 4 0xE4000000) = .reject .absentUnit ∧
    stepsAbsent.me.wantsEntry = none ∧
    (onNext (step stepsAbsent) fun t => t.sch.records.map (fun r => r.record.cause) == [causeIllegalUnit]) = true ∧
    stepsWait.scoreboardHolds (.add 1 2 3) = true ∧
    ({ stepsWait with agenda := [] } : State).mayIssue stepsWait.me stepsWait.me.frag = true ∧
    (onNext (step stepsWait) fun t => t.pc == 0#64 && t.sch.records == []) = true := by and_intros <;> decide +kernel

/-- Its end word is behind it, and the LOOPX slot that ends there waits for s1, or no longer does (R299). -/
def stepsLoop (r : RegName) : State :=
  { stepsAdd with me := { stepsAdd.me with
      loops := [⟨0, 0#64, 0#64, .conditional 1⟩], pending := [r], frag := { stepsAdd.me.frag with wait := .loopEnd } } }

theorem witness_StepRunsDecoded_loopEnd :
    (stepsLoop (.s 1)).me.frag.wait = .loopEnd ∧
    ({ stepsLoop (.s 1) with agenda := [] } : State).mayIssue (stepsLoop (.s 1)).me (stepsLoop (.s 1)).me.frag = true ∧
    (({ stepsLoop (.s 1) with agenda := [] } : State).select (stepsLoop (.s 1)).me.id 0).me.loopPending = true ∧
    (({ stepsLoop (.s 2) with agenda := [] } : State).select (stepsLoop (.s 2)).me.id 0).me.loopPending = false ∧
    (onNext (step (stepsLoop (.s 2))) fun t => t.pc == 4#64 && t.me.loops == []) = true := by
  and_intros <;> decide +kernel

/-- The module while management core 0's firmware runs and nothing stands on the agenda. -/
def idle : State := { mgm with sys := { mgm.sys with boot := .good } }

theorem witness_StepRunsDecoded_rest :
    State.reset.agenda = [.event .moduleReset {}] ∧
    idle.agenda = [] ∧
    idle.sys.boot ≠ .off ∧
    mgm.agenda = [] ∧
    mgm.sys.boot = .off ∧
    step mgm = .fault .unpowered ∧
    ({ mgm with agenda := [] } : State).stream ⟨.job probeId, 0⟩ = none ∧
    step { mgm with agenda := [.issue ⟨.job probeId, 0⟩ 0] } = .next mgm := by and_intros <;> first | decide +kernel | exact gives_eq (by decide +kernel) | rfl

theorem splitForm_of {fs : List Frag} {rs : List Region} (h1 : (fs.map fun f => f.id).Nodup)
    (h2 : ∀ f ∈ fs, f.mask ≠ 0#128 ∧ f.depth ≤ 63) (h3 : fs.Pairwise fun f g => f.mask &&& g.mask = 0#128)
    (h4 : ∀ f ∈ fs, ∀ r ∈ rs, f.mask &&& r.arrived = 0#128)
    (h5 : rs.Pairwise fun q r => q.arrived &&& r.arrived = 0#128 ∧ (q.depth = r.depth → q.waiting &&& r.waiting = 0#128))
    (h6 : ∀ r ∈ rs, 1 ≤ r.depth ∧ r.depth ≤ 63 ∧ r.waiting ≠ 0#128 ∧ r.waiting &&& r.arrived = 0#128)
    (h7 : ∀ f ∈ fs, ∀ k < f.depth + 1, 1 ≤ k → ∃ r ∈ rs, r.depth = k ∧ f.mask &&& ~~~r.waiting = 0#128)
    (h8 : ∀ q ∈ rs, ∀ k < q.depth, 1 ≤ k → ∃ r ∈ rs, r.depth = k ∧ (q.waiting ||| q.arrived) &&& ~~~r.waiting = 0#128)
    (h9 : ∀ r ∈ rs, ∀ l < 128, r.waiting.getLsbD l = true →
      (∃ f ∈ fs, r.depth ≤ f.depth ∧ f.mask.getLsbD l = true) ∨ (∃ q ∈ rs, r.depth < q.depth ∧ q.arrived.getLsbD l = true)) :
    SplitForm fs rs :=
  ⟨h1, h2, h3, h4, h5, h6, fun f hf k a b => h7 f hf k (Nat.lt_succ_of_le b) a, fun q hq k a b => h8 q hq k b a, h9⟩

theorem jobForm_of {j : Job} (ht : j.tokens = []) (hc : j.crews = []) : JobForm j :=
  ⟨fun k => by simp [Job.token, ht, tableGet, tableFind], by simp [hc], by simp [hc]⟩

theorem split_agentForm : AgentForm split := by
  have hs : ∀ st ∈ split.streams, st.loops = [] ∧ st.isVector = false := by decide +kernel
  have hj : split.jobs = [] := by decide +kernel
  refine ⟨?_, ?_, ?_⟩
  · intro st h
    rcases List.mem_cons.mp h with rfl | h
    case inr =>
      obtain ⟨hl, hv⟩ := hs st h
      exact ⟨by simp [hl], by simp [hl], fun h => by simp [hv] at h⟩
    refine ⟨by decide +kernel, by decide +kernel, fun _ _ => ⟨fun _ => ?_, fun b hb => ?_⟩⟩
    · exact splitForm_of (by decide +kernel) (by decide +kernel) (by decide +kernel) (by decide +kernel) (by decide +kernel)
        (by decide +kernel) (by decide +kernel) (by decide +kernel) (by decide +kernel)
    · have : split.me.bracket = none := by decide +kernel
      rw [this] at hb
      cases hb
  · rw [hj]
    intro j h
    rw [List.mem_singleton.mp h]
    exact jobForm_of (by decide +kernel) (by decide +kernel)
  · rw [hj]
    exact List.pairwise_singleton _ _

theorem witness_StateFormKept :
    MemoryForm stepsAdd ∧
    step stepsAdd = .next (after (step stepsAdd) stepsAdd) ∧
    AgentForm split ∧
    split.me.frags ≠ [] :=
  ⟨by unfold MemoryForm; decide +kernel,
    gives_eq (by decide +kernel),
    split_agentForm,
    by decide +kernel⟩

theorem witness_FaultEntryAndReturn_entry :
    InJob vec ∧
    vec.field (snpReg 0x010) causeTranslation causeTranslation ≠ 1 ∧
    dispOf causeTranslation < 2 ∧
    dispOf causeDataLost = 2 ∧
    vec.me.isVector = true ∧
    ctl.me.isVector = false ∧
    InJob ctl := by and_intros <;> first | decide +kernel | rfl

/-- A stream whose fragment is parked for replay, and behind a failed reply. -/
def parkedAt (disp : Nat) : State := { ctl with me := { ctl.me with frag := { ctl.me.frag with parked := some ⟨disp, 0#64, 0, false, 0⟩ } } }

/-- The same with a second park behind the first. -/
def parkedTwice : State :=
  let s := parkedAt 1
  { s with me := { s.me with frag := { s.me.frag with behind := [⟨3, 5#64, 0, false, 7⟩] } } }

theorem witness_FaultEntryAndReturn_return :
    (parkedAt 0).me.frag.parked = some ⟨0, 0#64, 0, false, 0⟩ ∧
    ((parkedAt 0).resumeFrag (parkedAt 0).me.id (parkedAt 0).me.frag.id 0).pc = 0#64 ∧
    ((parkedAt 0).resumeFrag (parkedAt 0).me.id (parkedAt 0).me.frag.id 5).me.frag.parked = some ⟨0, 0#64, 0, false, 0⟩ ∧
    (parkedAt 1).me.frag.parked = some ⟨1, 0#64, 0, false, 0⟩ ∧
    (parkedAt 1).me.frag.behind = [] ∧
    NoLoopEnd (parkedAt 1) ∧
    NoReconvergence (parkedAt 1) ((parkedAt 1).pc + 4#64) ∧
    ((parkedAt 1).resumeFrag (parkedAt 1).me.id (parkedAt 1).me.frag.id 0).pc = 4#64 ∧
    parkedTwice.me.frag.behind = [⟨3, 5#64, 0, false, 7⟩] ∧
    (parkedTwice.resumeFrag parkedTwice.me.id parkedTwice.me.frag.id 0).me.frag.parked = some ⟨1, 5#64, 0, false, 7⟩ ∧
    ctl.me.frag.parked = none :=
  ⟨by decide +kernel,
    by decide +kernel,
    by decide +kernel,
    by decide +kernel,
    by decide +kernel,
    by unfold NoLoopEnd; decide +kernel,
    by unfold NoReconvergence; decide +kernel,
    by and_intros <;> decide +kernel⟩

/-- Management core 3, parked, with its record to be posted; its fault area is at 0x200, or it has none. -/
def mgm3 (base : Word) : State :=
  { mgm.setReg (bootReg 0x058) base with me := Stream.start ⟨.mgmt 3, 0⟩ .control 0#128 0x40#64 }
def posting3 (base : Word) : State :=
  let s := mgm3 base
  { takeFault s { cause := causeTranslation } with agenda := [], arg := { a := 7 } }

theorem witness_ManagementFault :
    (mgm3 0x200#64).isMgmt = true ∧
    (mgm3 0x200#64).core - 544 = 3 ∧
    (mgm3 0x200#64).me.frag.parked = none ∧
    (mgm3 0x200#64).field (snpReg 0x010) causeTranslation causeTranslation ≠ 1 ∧
    (posting3 0x200#64).sch.records.map (fun x => (x.part, x.item)) = [(7, .frag ⟨.mgmt 3, 0⟩ 0 0)] ∧
    (posting3 0x200#64).sys.mgmtPark = [] ∧
    (posting3 0x200#64).net.txns = [] ∧
    releasedAt (releaseAt (posting3 0x200#64) 547 5) 547 5 = true ∧
    (releaseAt (posting3 0x200#64) 547 5).hostHolds (0x200 + 128 * 3) = false ∧
    (releaseAt (posting3 0x200#64) 547 5).poisonedLine ((0x200 + 128 * 3) / 128) = false ∧
    (releaseAt (posting3 0x200#64) 547 5).uncommittedAt (0x200 + 128 * 3) = false ∧
    (onNext (exec .faultRecordPost (posting3 0x200#64)) fun t => t.field (bootReg 0x058) 3 3 == 1 && cellGet t.mm.mem 0x380 == BitVec.ofNat 8 causeTranslation && t.sys.mgmtPark.length == 1) = true ∧
    (onNext (exec .faultRecordPost (posting3 0#64)) fun t => t.field (bootReg 0x058) 3 3 == 1 && t.mm.mem == []) = true := by
  and_intros <;> decide +kernel

/-- A state with the operands of an event. -/
def ev (s : State) (a : EventArg) : State := { s with arg := a }

/-- Three attempts have failed. -/
def worn : State := { mgm with sys := { mgm.sys with flash := { Flash.blank with attempts := 3#8 } } }
def zeroing : State := mgm.setField (bootReg 0) 39 36 6
def waiting : State := { mgm with sys := { mgm.sys with boot := .awaitGood 0 }, time := { mgm.time with ticks := 1000000000000000 } }

theorem witness_StartEvents_starts :
    3 ≤ worn.sys.flash.attempts.toNat ∧
    (onNext (exec .powerOn worn) fun t => t.sys.boot == .minimal && t.field (bootReg 0) 0 0 == 1) = true ∧
    mgm.sys.flash.attempts.toNat < 3 ∧
    mgm.arg.boot.phyFail = [] ∧
    mgm.arg.boot.lostZeroing = [] ∧
    ((∀ k < 28, mgm.sys.flash.member k = (0, 0))) ∧
    mgm.sys.power.compute = true ∧
    (onNext (exec .powerLoss worn) fun t => t.sys.boot == .off && t.sys.flash.stop == 0#8) = true ∧
    zeroing.field (bootReg 0) 39 36 = 6 ∧
    zeroing.sys.boot = .off ∧
    (onNext (exec .zeroingTimeout zeroing) fun t => t.sys.flash.fail == 8#8) = true ∧
    waiting.started = true ∧
    waiting.sys.boot = .awaitGood 0 ∧
    waiting.time.ticks = 1000000000000000 ∧
    (onNext (exec .bootGood waiting) fun t => t.sys.boot == .good) = true ∧
    (onNext (exec .bootGoodTimeout waiting) fun t => t.sys.flash.fail == 7#8) = true ∧
    { waiting with time := { waiting.time with ticks := 0 } }.time.ticks < 0 + waiting.field (bootReg 0x010) 47 32 * 1000000 * Config.ticksPerMicrosecond + 1 ∧
    { worn with sys := { worn.sys with boot := .minimal } }.sys.boot = .minimal := by and_intros <;> decide +kernel

def quoting : State := { mgm with sys := { mgm.sys with quote := some 0x40#64 } }
def flashing : State := { mgm with sys := { mgm.sys with flashOp := some (2, 1), flashBuf := [(4095, 7#8)] } }

theorem witness_StartEvents_commands :
    flashing.sys.flashOp = some (2, 1) ∧
    (onNext (exec .flashOpDone flashing) fun t => t.sys.flashOp == none && t.field (bootReg 0x048) 62 61 == 1) = true ∧
    (onNext (exec .flashProgram (ev flashing { a := 1 })) fun t => t.field (bootReg 0x048) 63 63 == 1) = true ∧
    mgm.field (bootReg 0x020) 63 63 = 0 ∧
    bitsOf (0x40 : Word) 51 6 * 64 + 0x600 ≤ hbmTop ∧
    hbmTop < bitsOf (0xFFFFFFFFFFFFF : Word) 51 6 * 64 + 0x600 ∧
    (onNext (exec .quoteRequest (ev mgm { v := 0x40#64 })) fun t => t.sys.quote == some 0x40#64) = true ∧
    (onNext (exec .quoteRequest (ev mgm { v := 0xFFFFFFFFFFFFF#64 })) fun t => t.field (bootReg 0x020) 62 62 == 1) = true ∧
    quoting.sys.quote = some 0x40#64 := by and_intros <;> decide +kernel

def armed8 (n : Nat) : State := (mgm.setField (snpReg 0x000) 8 8 1).setField (snpReg 0x000) n n 1
def snapping (l : Bool) : State := { mgm with sys := { mgm.sys with snapshot := some ⟨1, 0#64, l, []⟩ } }
def ptming : State := { mgm with sys := { mgm.sys with cxl := { mgm.sys.cxl with ptm := some 0 } }, time := { mgm.time with ticks := 1000000000 } }

theorem witness_PlatformEvents :
    (onNext (exec .powerCapWrite (ev mgm { v := 0x12345#64 })) fun t => t.field (bootReg 0x050) 15 0 == 0x2345) = true ∧
    (onNext (exec .powerWindowEnd (ev mgm { a := 100000 })) fun t => t.sys.power.move == .down) = true ∧
    (onNext (exec .clockStep { mgm with sys := { mgm.sys with power := { mgm.sys.power with move := .down, hot := [0] } } }) fun t => t.sys.power.capped == 1) = true ∧
    (onNext (exec .thermalThrottle (ev mgm { a := 2, b := 105 })) fun t => t.sys.power.hot == [2]) = true ∧
    bitOf (0x100 : Word) 8 = true ∧
    (onNext (exec .snapArm (ev mgm { v := 0x100#64 })) fun t => t.field (snpReg 0x000) 8 8 == 1) = true ∧
    (armed8 3).field (snpReg 0x000) 3 3 = 1 ∧
    (armed8 3).field (snpReg 0x000) 8 8 = 1 ∧
    (onNext (exec .triggerPinEdge (armed8 3)) fun t => t.field (snpReg 0x018) 61 60 == 3) = true ∧
    (armed8 1).field (snpReg 0x000) 1 1 = 1 ∧
    ((armed8 1).reg (snpReg 0x008)).toNat ≤ (armed8 1).time.ns.toNat ∧
    (onNext (exec .snapDtbMatch (armed8 1)) fun t => t.sys.snapshot == some ⟨1, 64#64, false, []⟩) = true ∧
    (snapping false).sys.snapshot = some ⟨1, 0#64, false, []⟩ ∧
    (snapping true).sys.snapshot = some ⟨1, 0#64, true, []⟩ ∧
    (snapping true).recordHeld 0x100000 = [] ∧
    (onNext (exec .snapshotDone (snapping true)) fun t => t.field (snpReg 0x018) 59 59 == 1) = true ∧
    (onNext (exec .dtbStep (ev mgm { v := 5#64 })) fun t => t.time.step == some 5#64 && t.field hifEvt 2 2 == 1) = true ∧
    (mgm.setField 0x058 0 0 1).field 0x058 0 0 = 1 ∧
    (onNext (exec .ptmRequest (mgm.setField 0x058 0 0 1)) fun t => t.sys.cxl.ptm == some 0) = true ∧
    ptming.sys.cxl.ptm = some 0 ∧
    0 + 10 * Config.ticksPerMicrosecond ≤ ptming.time.ticks ∧
    (onNext (exec .ptmTimeout ptming) fun t => t.field hifEvt 4 4 == 1) = true ∧
    (onNext (exec .ptmResponse (ev ptming { v := 9#64 })) fun t => t.reg 0x070 == 9#64 && t.field hifEvt 3 3 == 1) = true := by and_intros <;> decide +kernel

/-! ### Witnesses: accesses, tiers, parity, the loops -/

/-- The page tables of partition 0 map va 0 by a leaf whose A and D are clear, a walk of it is in the pool of die 0, and a core
holds such a leaf for va 0. -/
def miss0 : Miss := ⟨0, 0, 0, 0, 0, true, .read, none, 0⟩
def walks0 : State :=
  let s := walked mgm
  ev { s with mm := { s.mm with mem := cellsSet s.mm.mem 0x13000 (leBytes 8 0x3F), misses := [miss0] } } { walk := ⟨0, 0, 0, 0#64, .read⟩ }

def clean0 : State := { walks0 with mm := { walks0.mm with tlb := [⟨.core 0, 0, 0, 0, 30, 0x13F#64, 0#64⟩] } }

/-- The same walk without a context, and with the host holding the context root's line. -/
def badWalk : State := { walks0 with mm := { walks0.mm with mem := [] } }
def heldWalk : State := { walks0 with sys := { walks0.sys with cxl := { walks0.sys.cxl with snoop := [512] } } }

def leaf0 (s : State) : Option Leaf := (walkEnd s 0 0 0 0).leaf?

theorem witness_AccessEvents_walk :
    walks0.mm.misses = [miss0] ∧
    miss0.key = (walkDie 0, 0, 0, 0) ∧
    (leaf0 walks0).map (fun l => (l.entry, l.bits)) = some (0x3F, 30) ∧
    (let v := walks0.walked 0 (walkEnd walks0 0 0 0 0)
     (leaf0 walks0).map fun l => (v.hostHolds l.at_, v.poisonedLine ((l.at_ + 1) / 128), v.uncommittedAt (l.at_ + 1),
       (match checkLeaf v 0 true l 0 1 .read with | .ok x => x == ⟨1, 0, false, 0⟩ | _ => false))) = some (false, false, false, true) ∧
    pteA 0x3F = false ∧
    pteD 0x13F = false ∧
    pteW 0x3F = true ∧
    (onNext (exec .pageWalkDone walks0) fun t => (t.tlbFind 0 0 0 0).map (fun e => e.leaf) == some 0x13F#64 && cellGet t.mm.mem 0x13001 == 1#8) = true ∧
    walkEnd badWalk 0 0 0 0 = .bad 0x10000 [] ∧
    (onNext (exec .pageWalkDone badWalk) fun t => t.mm.misses.map (fun m => m.ended) == [some none]) = true ∧
    walkEnd heldWalk 0 0 0 0 = .held 0x10000 ∧
    (onNext (exec .pageWalkDone heldWalk) fun t => t.sys.cxl.pendingBi == [(512, false)] && t.mm.misses == [miss0]) = true ∧
    (0, 0, 0, 0) ∉ mgm.inFlight 0 ∧
    (clean0.tlbFind 0 0 0 0).map (fun e => e.leaf) = some 0x13F#64 ∧
    (leaf0 clean0).map (fun l => (pteW l.entry, (clean0.walked 0 (walkEnd clean0 0 0 0 0)).hostHolds l.at_)) = some (true, false) ∧
    (onNext (exec .dirtyUpdate clean0) fun t => (t.tlbFind 0 0 0 0).map (fun e => pteD e.leaf.toNat) == some true) = true := by and_intros <;> decide +kernel

/-- The root's line is poisoned, or the page of the held leaf has lost its W. -/
def lostWalk : State := { walks0 with mm := { walks0.mm with poison := [512] } }
def readOnly0 : State := { clean0 with mm := { clean0.mm with mem := cellsSet clean0.mm.mem 0x13000 (leBytes 8 0x137) } }

theorem witness_AccessEvents_ends :
    walkEnd lostWalk 0 0 0 0 = .lost 0x10000 [] ∧
    (onNext (exec .pageWalkDone lostWalk) fun t => t.mm.misses.map (fun m => m.ended) == [some none] && t.mm.tlb == []) = true ∧
    (leaf0 readOnly0).map (fun l => (pteW l.entry, (readOnly0.walked 0 (walkEnd readOnly0 0 0 0 0)).hostHolds l.at_)) = some (false, false) ∧
    (onNext (exec .dirtyUpdate readOnly0) fun t => t.tlbFind 0 0 0 0 == none && cellsGet t.mm.mem 0x13000 2 == [0x37, 1]) = true := by and_intros <;> decide +kernel

def invalidating : State := ev { clean0 with mm := { clean0.mm with misses := [], tlbi := [(.core 0, 0, 0, 0, 4095)] } } { place := .core 0 }
def combining : State := ev { mgm with mm := { mgm.mm with wcb := [⟨1, ⟨.mgmt 0, 0⟩, 0x80, 3#8, 5, 0, false, 0⟩, ⟨2, ⟨.mgmt 0, 0⟩, 0x100, 4#8, 5, 0, false, 0⟩] } } { a := 1 }

theorem witness_AccessEvents_rest :
    invalidating.mm.tlbi.filter (fun t => t.1 == invalidating.arg.place) = [(.core 0, 0, 0, 0, 4095)] ∧
    invalidating.net.txns = [] ∧
    invalidating.mm.wcb = [] ∧
    invalidating.mm.cluDirty = [] ∧
    (onNext (exec .tlbiAck invalidating) fun t => t.mm.tlbi == [] && t.mm.tlb == []) = true ∧
    placeServes (.core 0) { miss0 with ended := some none } = true ∧
    (onNext (exec .tlbiAck { invalidating with mm := { invalidating.mm with misses := [{ miss0 with ended := some none }] } }) fun t => t.mm.misses == []) = true ∧
    combining.sys.cxl.snoop = [] ∧
    (onNext (exec .wcDrain combining) fun t => t.mm.wcb.map (fun b => b.core) == [2] && cellGet t.mm.mem 0x80 == 3#8) = true := by and_intros <;> decide +kernel

theorem witness_AccessEvents_command (v : Word) :
    (mgm.setReg (prtReg 0x018) v).command (prtReg 0x018) 0x10 = mgm.setReg (prtReg 0x018) v := rfl

theorem witness_AccessEvents_registers :
    (mgm.regAt (prtReg 0x018)).isSome = true ∧
    mgm.idleQuarter (prtReg 0x018) = false ∧
    shadowOf (prtReg 0x018) = none ∧
    isWriteOnly (prtReg 0x018) = false ∧
    mgm.prtWritable (prtReg 0x018) = BitVec.allOnes 64 ∧
    (onNext (exec .registerWrite (ev mgm { a := prtReg 0x018, b := 8, v := 0x10#64 })) fun t => t.reg (prtReg 0x018) == 0x10#64) = true ∧
    mgm.regAt 0xFFF8 = none ∧
    (onNext (exec .registerWrite (ev mgm { a := prtReg 0x018, b := 8, flag := true })) fun t => t.sys.cxl.answer == some (leBytes 8 (mgm.reg (prtReg 0x018)).toNat, false)) = true ∧
    (onNext (exec .registerWrite (ev mgm { a := prtReg 0x018, b := 2, flag := true })) fun t => t.sys.cxl.answer == some ([0, 0], false)) = true ∧
    (onNext (exec .registerWrite (ev mgm { a := prtReg 0x018 + 2, b := 4, v := 1#64 })) fun t => t.field hifEvt 1 1 == 1) = true ∧
    ({ mgm with net := { mgm.net with stamps := [⟨true, 1, 2#16, 0#4, 9#64⟩] } } : State).net.stamps = [⟨true, 1, 2#16, 0#4, 9#64⟩] ∧
    (onNext (exec .tsRecordPop { mgm with net := { mgm.net with stamps := [⟨true, 1, 2#16, 0#4, 9#64⟩] } }) fun t => t.reg (fabReg 0x088) == 9#64 && t.net.stamps == []) = true := by and_intros <;> decide +kernel

/-- Sector-space blocks: block 0 is stalled and committed, and reads zero. -/
def merging : State := mgm.setField (memReg 0x000) 1 1 1
def limited : State := mgm.setField (memReg 0x028) 29 0 100
def committedS : State := after (exec .lpCommit (ev limited { a := 0, b := 1 })) mgm
def stalledS : State := ev { committedS with dram := { committedS.dram with stalled := [0] } } { a := 0 }
def bound0 : State := mgm.setField (memReg 0x030) 30 0 0x7FFFFFFF
def commanded : State := { mgm with dram := { mgm.dram with command := some (1, 0, 1) } }

theorem witness_TierEvents_lpddr :
    merging.field (memReg 0x000) 1 1 = 1 ∧
    (onNext (exec .lpFreeMerge merging) fun t => (tableFind t.dram.free 0).map (fun f => f.next) == some 0x1E00000) = true ∧
    limited.field (memReg 0x030) 30 0 + ((blockRange 0 1).filter fun l => !limited.committed l).length ≤ limited.commitLimit ∧
    committedS.committed 0 = true ∧
    committedS.dram.command = some (1, 0, 1) ∧
    0 ∈ stalledS.dram.stalled ∧
    stalledS.committed 0 = true ∧
    entrySectors (stalledS.mapEntry 0) = 0 ∧
    (onNext (exec .lpWritebackResume stalledS) fun t => t.mapEntry 0 == 0xC000000000000000#64 && t.dram.stalled == []) = true ∧
    bound0.commitLimit < bound0.field (memReg 0x030) 30 0 + ((blockRange 0 1).filter fun l => !bound0.committed l).length ∧
    (onNext (exec .lpCommit (ev bound0 { a := 0, b := 1 })) fun t => t.field memEvt 3 3 == 1) = true ∧
    (onNext (exec .lpDecommit (ev committedS { a := 0, b := 1 })) fun t => t.committed 0 == false && t.field (memReg 0x030) 30 0 == 0) = true ∧
    commanded.dram.command = some (1, 0, 1) ∧
    (onNext (exec .lpCmdDone commanded) fun t => t.field memEvt 5 5 == 1 && t.dram.command == none) = true ∧
    mgm.field (memReg 0x048) 2 2 = 0 ∧
    (blockRange 0 1).filter (fun l => !committedS.committed l) = [] ∧
    ((blockBytes stalledS 0).all fun y => y == 0#8) = true ∧
    MemoryForm mgm := by and_intros <;> first | decide +kernel | (unfold MemoryForm; decide +kernel)

/-- The host holds line 2 of device memory; the link is up with a decoder of 4 GiB at 0 for the package tier. -/
def hosted : State :=
  { mgm with sys := { mgm.sys with boot := .good, cxl := { mgm.sys.cxl with up := true, hdm := [(0, (0, 0x100000000))], snoop := [2] } } }

theorem witness_TierEvents_slices :
    mgm.hostHolds 0x100 = false ∧
    0x100 % 128 + [1#8, 2#8].length ≤ 128 ∧
    mgm.poisonedLine 2 = false ∧
    mgm.uncommittedAt 0x100 = false ∧
    (onNext (exec .sliceRequest (ev mgm { slice := .write 0x100 [1, 2] })) fun t => cellsGet t.mm.mem 0xFF 4 == [0, 1, 2, 0]) = true ∧
    (onNext (exec .sliceRequest (ev mgm { slice := .read 0x100 8, flag := true })) fun t => t.agenda == [.event .dramReadDone { a := 0x100 }]) = true ∧
    0x100 / 128 ∉ mgm.mm.dirty ∧
    hosted.hostHolds 0x100 = true ∧
    hosted.linePresent 2 = false ∧
    (onNext (exec .sliceRequest (ev hosted { slice := .read 0x100 8 })) fun t => t.sys.cxl.pendingBi == [(2, false)]) = true ∧
    (onNext (exec .sliceRequest (ev hosted { slice := .write 0x100 [1] })) fun t => t.sys.cxl.pendingBi == [(2, true)]) = true ∧
    (onNext (exec .sliceRequest (ev { mgm with mm := { mgm.mm with l2 := [2, 3] } } { slice := .evict 0x100 })) fun t => t.mm.l2 == [3]) = true := by and_intros <;> decide +kernel

theorem witness_TierEvents_host :
    (0 ≤ 1 ∧ 0x100 ≤ (hdmTier 0).2) ∧
    (onNext (exec .hdmDecoderCommit (ev mgm { a := 0, b := 0x40, c := 0x100 })) fun t => t.sys.cxl.hdm == [(0, (0x40, 0x100))]) = true ∧
    hosted.sys.cxl.up = true ∧
    hosted.sys.boot ≠ .minimal ∧
    hosted.hdmAddress 0x200 = some 0x200 ∧
    hosted.mustRebuild 0x200 = false ∧
    (onNext (exec .hostMemRead (ev hosted { a := 0x200, b := 4 })) fun t => t.sys.cxl.answer == some ([0, 0, 0, 0], false)) = true ∧
    (onNext (exec .hostMemWrite (ev hosted { a := 0x200, bytes := [7, 8] })) fun t => cellsGet t.mm.mem 0x200 2 == [7, 8]) = true ∧
    (onNext (exec .biResponse (ev { hosted with sys := { hosted.sys with cxl := { hosted.sys.cxl with pendingBi := [(2, true)] } } } { a := 2, flag := true })) fun t => t.sys.cxl.snoop == [] && t.sys.cxl.pendingBi == []) = true ∧
    hosted.poisonedLine (hosted.biasByte 5 / 128) = false ∧
    hosted.uncommittedAt (hosted.biasByte 5) = false ∧
    5 < biasBits ∧
    (onNext (exec .biasSet (ev hosted { a := 5 })) fun t => t.sys.cxl.bias == some (false, 5) && t.agenda == [.event .biasCmdDone {}]) = true ∧
    hosted.hostHolds (hosted.biasByte 5) = false ∧
    (onNext (exec .biasCmdDone { hosted with sys := { hosted.sys with cxl := { hosted.sys.cxl with bias := some (false, 5) } } }) fun t => (cellGet t.mm.mem (hosted.biasByte 5)).getLsbD 5) = true ∧
    hosted.recordedLines 5 = [] ∧
    ({ hosted with sys := { hosted.sys with cxl := { hosted.sys.cxl with bias := some (true, 5) } } } : State).sys.cxl.bias = some (true, 5) ∧
    (onNext (exec .cxlLinkUp mgm) fun t => t.sys.cxl.up) = true := by and_intros <;> decide +kernel

/-- The hotness counter at 0x100 waits for line 2, or the sweep meets it there: the HBM counters lie at 0. -/
def counting : State :=
  ev { hosted with sys := { hosted.sys with cxl := { hosted.sys.cxl with snoop := [2], pendingBi := [(2, true)] } }, dram := { hosted.dram with hotWaits := [0x100] } } { a := 2, flag := true }
def sweeping : State := { hosted with mm := { hosted.mm with mem := [(0x100, 6#8)] } }

theorem witness_TierEvents_counters :
    counting.dram.hotWaits = [0x100] ∧
    2 ∉ counting.sys.cxl.snoop.erase 2 ∧
    counting.poisonedLine 2 = false ∧
    counting.uncommittedAt 0x100 = false ∧
    (onNext (exec .biResponse counting) fun t => t.dram.hotWaits == [] && cellGet t.mm.mem 0x100 == 1#8) = true ∧
    sweeping.inHotArrays 0x100 = true ∧
    sweeping.hostHolds 0x100 = true ∧
    (onNext (exec .hotDecay sweeping) fun t => t.field (memReg 0x048) 2 2 == 1 && t.agenda.contains (.event .hotDecay { flag := true }) && cellGet t.mm.mem 0x100 == 6#8) = true ∧
    (onNext (exec .hotDecay (ev { sweeping with sys := mgm.sys } { flag := true })) fun t => cellGet t.mm.mem 0x100 == 3#8 && t.agenda == [.event .hotSweepEnd {}]) = true := by and_intros <;> decide +kernel

/-- A delta of member 1 on stripe line 0 of the package group waits to be applied. -/
def line0 : StripeLine := ⟨false, 0, 0⟩
def delta0 (applied : Bool) : Delta := ⟨line0, 1, List.replicate 128 0#8, List.replicate 128 5#8, applied, false⟩
def delta0S : State := ev { mgm with dram := { mgm.dram with deltas := [delta0 false] } } { a := 1, line := line0 }
def acked0 : State := { delta0S with dram := { delta0S.dram with deltas := [delta0 true] } }
def recon0 (answers : List (Nat × List Byte)) : State :=
  ev { mgm with dram := { mgm.dram with recons := [⟨line0, 1, answers⟩] } } { a := 2, line := line0 }
def allAnswers : List (Nat × List Byte) := (recon0 []).dram.recons.flatMap fun r => r.survivors.map fun m => (m, List.replicate 128 1#8)
def lost0 : State := { delta0S with regs := (mgm.setField (parState (parIndex false 0)) 1 0 2).regs }

/-- The data unit of member 1 on that line has erred. -/
def erring0 : State := { mgm with dram := { mgm.dram with erring := [(false, dataAddr line0 1 / 128)] } }

theorem witness_ParityEvents_deltas :
    delta0S.dram.deltas.find? (fun d => d.is line0 1 && !d.applied && !d.held) = some (delta0 false) ∧
    delta0S.parityLost line0 = false ∧
    delta0S.reconOf line0 = none ∧
    (delta0 false).old.length = 128 ∧
    (delta0 false).new.length = 128 ∧
    (onNext (exec .parityDelta delta0S) fun t => t.parityLine line0 == List.replicate 128 5#8 && t.cachedParity line0 != none && t.agenda == [.event .deltaAck { line := line0, a := 1 }]) = true ∧
    (onNext (exec .deltaAck acked0) fun t => t.dram.deltas == []) = true ∧
    lost0.parityLost line0 = true ∧
    (onNext (exec .parityDelta lost0) fun t => t.dram.deltas == []) = true ∧
    otherLosses mgm false 0 1 = [] ∧
    erring0.lineAway false (dataAddr line0 1) = true ∧
    erring0.parityLost line0 = false ∧
    otherLosses erring0 false 0 1 = [] ∧
    (onNext (exec .reconstructionRequest (ev erring0 { a := 1, line := line0 })) fun t => t.dram.recons == [⟨line0, 1, []⟩]) = true := by and_intros <;> decide +kernel

theorem witness_ParityEvents_recon :
    (recon0 []).reconOf line0 = some ⟨line0, 1, []⟩ ∧
    2 ∈ (⟨line0, 1, []⟩ : Recon).survivors ∧
    ((∀ x ∈ (recon0 []).dram.deltas, x.is line0 2 = false)) ∧
    (onNext (exec .reconstructionAnswer (recon0 [])) fun t => t.reconOf line0 == some ⟨line0, 1, [(2, List.replicate 128 0#8)]⟩) = true ∧
    (recon0 allAnswers).reconOf line0 = some ⟨line0, 1, allAnswers⟩ ∧
    (⟨line0, 1, allAnswers⟩ : Recon).complete = true ∧
    ((∀ x ∈ allAnswers, x.2.length = 128)) := by and_intros <;> decide +kernel

/-- The parity line is cached, and the delta's fetch of it would have erred; the answer of member 2 errs (R59, R65, R67). -/
def cached0 : State := { delta0S with dram := { delta0S.dram with parLines := [⟨line0, List.replicate 128 3#8⟩] }, arg := { delta0S.arg with flag := true } }
def erredAnswer : State := ev (recon0 []) { a := 2, line := line0, flag := true }

theorem witness_ParityEvents_cached :
    cached0.cachedParity line0 ≠ none ∧
    (onNext (exec .parityDelta cached0) fun t => t.parityLine line0 == List.replicate 128 6#8 && t.parityCells false == []) = true ∧
    (onNext (exec .reconstructionAnswer erredAnswer) fun t => t.reconOf line0 == none && t.field parEvt 2 2 == 1 && t.lineLost false (dataAddr line0 1)) = true ∧
    ((recon0 allAnswers).parityLine line0).length = 128 ∧
    (onNext (exec .reconstructionComplete (recon0 allAnswers)) fun t => t.reconOf line0 == none && t.parityLine line0 == List.replicate 128 0#8) = true := by and_intros <;> decide +kernel

def entering0 : State := ev { mgm with dram := { mgm.dram with entering := [(3, 4)] } } { a := 3 }

theorem witness_ParityEvents_channels :
    (3, 4) ∈ entering0.dram.entering ∧
    (onNext (exec .degradedEntryDone entering0) fun t => t.channelLost 3 4 && t.dram.entering == []) = true ∧
    mgm.channelLost 3 4 = false ∧
    (3, 4) ∉ mgm.dram.entering ∧
    (onNext (exec .channelLoss (ev mgm { a := 3, b := 4 })) fun t => t.dram.entering == [(3, 4)] && t.field (parState 3) 2 2 == 1) = true ∧
    (onNext (exec .parDeclareMemberLost (ev mgm { a := 3 })) fun t => (allChannels 3).all fun c => t.dram.entering.contains (3, c)) = true ∧
    (mgm.setField (parReg 0x018) 32 32 1).field (parReg 0x018) 32 32 = 1 ∧
    (mgm.setField (parReg 0x018) 32 32 1).stripeLosses false ((mgm.setField (parReg 0x018) 32 32 1).field (parReg 0x020) 27 0) = 0 ∧
    mgm.dram.deltas = [] ∧
    mgm.dram.recons = [] ∧
    mgm.dram.erring = [] ∧
    (onNext (exec .scrubLine (mgm.setField (parReg 0x018) 32 32 1)) fun t => tableGet t.dram.scrub 0 0 == 1) = true ∧
    27 < 28 ∧
    (onNext (exec .parScrubStripe (ev mgm { a := 28 })) fun t => t.field parEvt 5 5 == 1) = true ∧
    0 < stripeCount (isPackage 3) ∧
    mgm.stripeLosses (isPackage 3) 0 = 0 ∧
    mgm.field (memReg 0x200) 15 0 ≠ 0 ∧
    (mgm.bank 0 0).swaps.length < 64 ∧
    inHbm 0x100 = true ∧
    mgm.poisonedLine 2 = false ∧
    mgm.field (memReg 0x048) 0 0 = 0 ∧
    mgm.unitDown false (stripeOf false 0x100) (memberOf false 0x100) = false ∧
    (false, 2) ∉ mgm.dram.erring ∧
    (false, 2) ∉ mgm.dram.rebuilt ∧
    (onNext (exec .dramReadDone (ev mgm { a := 0x100 })) fun t => t.mm.l2.contains 2) = true ∧
    mgm.unitLost false (stripeOf false 0x100) (memberOf false 0x100) = false ∧
    otherLosses mgm false (stripeOf false 0x100) (memberOf false 0x100) = [] ∧
    (onNext (exec .dramReadDone (ev mgm { a := 0x100, flag := true })) fun t => t.dram.erring == [(false, 2)] && t.agenda.length == 1) = true ∧
    (onNext (exec .parScrubStripe (ev mgm { a := 3, b := 0 })) fun t => t.field parEvt 5 5 == 0) = true ∧
    (onNext (exec .refresh (ev mgm { a := 1, b := 2, flag := true })) fun t => (t.bank 1 2).debt == 1) = true := by and_intros <;> decide +kernel

/-- A read of line 2 waits at channel 5, where group 3's window is open; bank 0 counts fewer activations than the threshold. -/
def reading2 : State :=
  let s := mgm.setField (memReg 0x208) 7 7 1
  ev { s with dram := { s.dram with windows := [⟨5, 3, 1, 0⟩], queue := [⟨5, 3, 4, 4, 0x100, 0⟩] } } { a := 0x100 }

theorem witness_ParityEvents_queue :
    reading2.channelHeld 5 = false ∧
    (serveLine reading2 0x100).readWaits 0x100 = false ∧
    (serveLine reading2 0x100).dram.windows = [] ∧
    reading2.readWaits 0x100 = true ∧
    (onNext (exec .dramReadDone reading2) fun t => t.mm.l2.contains 2) = true ∧
    tableGet (mgm.bank 0 0).counts 7 0 < mgm.field (memReg 0x200) 15 0 ∧
    Completes (ev mgm { c := 7 }) .rowSwap (ev mgm { c := 7 }) := by and_intros <;> first | decide +kernel | exact gives_eq (by decide +kernel)

/-! ### Witnesses: the loops and the fabric -/

/-- Packet 1 of a class, from stop 2 to stop 5 of die 0. -/
def pkt (cls : Nat) (body : PacketBody) (place : PacketPlace) : Packet :=
  { id := 1, cls := cls, pa := 0x100, txn := 3, sect := 0, gtag := 0, lap := false, slack := 0, len := 1, srcDie := 0, srcStop := 2,
    dstDie := 0, dstStop := 5, rsv := 0, body := body, place := place, inPort := 16, since := 0, hops := 0, refused := 0, strms := [],
    cmp := none, via := none }

def fetchBody : PacketBody := .fetchOp 5#64 0#64 0 0 true 0 5 false true

def carrying (ps : List Packet) (a : EventArg) : State := ev { mgm with net := { mgm.net with packets := ps } } a

def injecting : State := carrying [pkt 0 .other (.injection 0 2)] { a := 0, b := 2, c := loopOf 2 5 }
def travelling0 (cls : Nat) : State := carrying [pkt cls .other (.travelling 0 0 5)] { a := 1 }

/-- It stands at the endpoint of die 0 that crosses to die 1; and one whose class keeps quarters apart. -/
def crossing (cls : Nat) : State := carrying [{ pkt cls .other (.link 0 38) with dstDie := 1, inPort := 0 }] { a := 0, b := 38 }

/-- The slot that would carry it is another's, and every place of the ejection queue is kept for packets of other stops. -/
def jammed : State :=
  carrying [pkt 0 .other (.injection 0 2), { pkt 0 .other (.travelling 0 (loopOf 2 5) 5) with id := 2, hops := loopHops 0 (loopOf 2 5) 2 5 }]
    { a := 0, b := 2, c := loopOf 2 5 }
def placesKept : State :=
  let s := travelling0 0
  { s with net := { s.net with reserved := [(0, 5, 0, 7), (0, 5, 0, 8), (0, 5, 0, 9), (0, 5, 0, 10), (0, 5, 0, 11), (0, 5, 0, 12), (0, 5, 0, 13), (0, 5, 0, 14)] } }

theorem witness_LoopEvents_legs :
    injecting.arbitrate 0 injecting.net.packets = some (pkt 0 .other (.injection 0 2), false) ∧
    nextLeg 0 2 16 0 5 = .loop 5 ∧
    injecting.slotsFree 0 (loopOf 2 5) 2 1 = true ∧
    (onNext (exec .packetInject injecting) fun t => t.net.packets.map (fun p => (p.place, p.inPort, p.hops)) == [(.travelling 0 (loopOf 2 5) 5, 2, loopHops 0 (loopOf 2 5) 2 5)]) = true ∧
    jammed.arbitrate 0 (jammed.net.packets.filter fun x => x.place == .injection 0 2) = some (pkt 0 .other (.injection 0 2), false) ∧
    jammed.slotsFree 0 (loopOf 2 5) 2 1 = false ∧
    (travelling0 0).packet 1 = some (pkt 0 .other (.travelling 0 0 5)) ∧
    ((∀ x ∈ (travelling0 0).net.packets, x.place = .travelling 0 0 5 → x.id = 1)) ∧
    ((travelling0 0).net.packets.filter fun x => x.place == .ejected 0 5 0).length < 8 ∧
    (travelling0 0).refusedHere (pkt 0 .other (.travelling 0 0 5)) 0 0 5 = false ∧
    (onNext (exec .packetEject (travelling0 0)) fun t => t.net.packets.map (fun p => (p.place, p.inPort)) == [(.ejected 0 5 0, 0)]) = true ∧
    (placesKept.net.reserved.filter fun r => r.1 == 0 && r.2.1 == 5 && r.2.2.1 == 0 && r.2.2.2 != 16).length = 8 ∧
    (onNext (exec .packetEject placesKept) fun t => (t.packet 1).map (fun p => (p.place, p.lap)) == some (.travelling 0 0 5, true)) = true ∧
    (travelling0 12).packet 1 = some (pkt 12 .other (.travelling 0 0 5)) ∧
    (onNext (exec .packetEject (travelling0 12)) fun t => t.net.packets == [] && t.field (lopReg 0 0x08) 0 0 == 1) = true ∧
    nextLeg 0 38 0 1 5 = .cross 1 38 ∧
    (((crossing 0).net.packets.filter fun x => x.place == .link 0 38).find? fun x => isResponse x.cls).or ((crossing 0).net.packets.filter fun x => x.place == .link 0 38).head? = (crossing 0).net.packets.head? ∧
    (onNext (exec .linkForward (crossing 0)) fun t => t.net.packets.map (fun p => (p.place, p.inPort)) == [(.ejected 1 38 24, 24)]) = true := by and_intros <;> decide +kernel

/-- It stands in the ejection queue, and goes on: to its slice, behind the traffic of another loop, onto a link, away, or as the event it
carries. -/
def stood (cls dstDie dstStop : Nat) (body : PacketBody) : State :=
  carrying [{ pkt cls body (.ejected 0 38 1) with dstDie := dstDie, dstStop := dstStop, inPort := 1 }] { a := 1 }

theorem witness_LoopEvents_stood :
    (stood 0 0 38 .other).packet 1 = some { pkt 0 .other (.ejected 0 38 1) with dstStop := 38, inPort := 1 } ∧
    nextLeg 0 38 1 0 38 = .here ∧
    (onNext (exec .packetEject (stood 0 0 38 .other)) fun t => t.net.packets.map (fun p => p.place) == [.slice 0 38]) = true ∧
    nextLeg 0 38 1 0 5 = .loop 5 ∧
    (onNext (exec .packetEject (stood 0 0 5 .other)) fun t => t.net.packets.map (fun p => (p.place, p.inPort)) == [(.injection 0 38, 1)]) = true ∧
    nextLeg 0 38 1 1 5 = .cross 1 38 ∧
    (onNext (exec .packetEject (stood 0 1 5 .other)) fun t => t.net.packets.map (fun p => p.place) == [.link 0 38]) = true ∧
    (onNext (exec .packetEject (stood 1 0 38 .other)) fun t => t.net.packets == []) = true ∧
    (onNext (exec .packetEject (stood 11 0 38 (.control .migrationAdvert { a := 7 }))) fun t => t.net.packets == [] &&
      t.agenda == [.event .migrationAdvert { a := 7 }]) = true := by and_intros <;> decide +kernel

/-- The same across a boundary that PRT_BND closes, for a class that quarters keep to themselves. -/
def shut : State := { crossing 8 with regs := ((mgm.setReg (prtReg 0x008) 0xFFFFFFFF#64).setReg (prtReg 0) 0xE4#64).regs }

def hopping (n : Nat) (spare : Bool) : State :=
  ev { mgm with net := { mgm.net with hopFails := [(0, 1, 1, n)], spares := if spare then [(0, 1, 1)] else [] } } { a := 0, b := 1, c := 1 }

theorem witness_LoopEvents_hops :
    (0, 1, 1) ∉ (hopping 3 false).net.spares ∧
    isHop 0 1 1 = true ∧
    isHop 0 1 2 = false ∧
    (onNext (exec .hopCrcError (hopping 3 false)) fun t => t.hopCount 0 1 1 == 4) = true ∧
    (0, 1, 1) ∈ (hopping 3 true).net.spares ∧
    (onNext (exec .hopCrcError (hopping 3 true)) fun t => t.sys.stopped && t.sys.halted.contains (mgm.ownerOf (stopQuarter 0 1)) && t.field (lopReg 0 0x08) 2 2 == 1) = true ∧
    16 ≤ (hopping 16 false).hopCount 0 1 1 ∧
    (onNext (exec .hopSpare (hopping 16 false)) fun t => t.net.spares == [(0, 1, 1)] && t.field (lopReg 0 0x08) 1 1 == 1) = true := by and_intros <;> decide +kernel

/-- A request that has come to its slice, beside one that waits there. -/
def arriving (on : Nat) (ps : List Packet) : State :=
  (carrying (pkt 4 fetchBody (.ejected 0 5 16) :: ps) { a := 1 }).setField (lopReg 0 0x28) 0 0 on
def waiter : Packet := { pkt 4 fetchBody (.slice 0 5) with id := 2, txn := 9 }
def performing (aop : Nat) : State := carrying [pkt 4 (.fetchOp 5#64 0#64 0 aop true 0 5 false true) (.slice 0 5)] { a := 0, b := 5 }
def replying : State :=
  let s := carrying [pkt 4 (.fetchReply 0 7#64 true) (.ejected 0 5 0)] { a := 1 }
  { s with net := { s.net with waits := [⟨.stop 0 5, 3, 5#64, 0, true, ⟨0, 1, 4, false, none⟩, ⟨0, 2, 6, false, none⟩, true, 0, 0x100⟩] } }

theorem witness_LoopEvents_combining :
    (arriving 0 []).packet 1 = some (pkt 4 fetchBody (.ejected 0 5 16)) ∧
    (arriving 0 []).field (lopReg 0 0x28) 0 0 = 0 ∧
    (onNext (exec .fetchOpArrival (arriving 0 [])) fun t => t.net.packets.map (fun p => p.place) == [.slice 0 5]) = true ∧
    (arriving 1 [waiter]).field (lopReg 0 0x28) 0 0 = 1 ∧
    queueFor (pkt 4 fetchBody (.ejected 0 5 16)) 0 5 16 = .slice 0 5 ∧
    ((arriving 1 [waiter]).net.packets.filter fun x => x.place == .slice 0 5 && matchesRequest x (pkt 4 fetchBody (.ejected 0 5 16))).getLast? = some waiter ∧
    freeEntry (arriving 1 [waiter]).net.waits (.stop 0 5) 64 = some 0 ∧
    (onNext (exec .fetchOpArrival (arriving 1 [waiter])) fun t => t.net.packets.map (fun p => p.id) == [2] && t.net.waits.map (fun w => (w.e, w.first.txn, w.second.txn)) == [(5#64, 9, 3)]) = true ∧
    (performing 0).arbitrate 0 ((performing 0).net.packets.filter fun r => r.place == .slice 0 5) = some (pkt 4 fetchBody (.slice 0 5), false) ∧
    (performing 0).readHeld 0x100 = false ∧
    (0x100 : Nat) % 8 = 0 ∧
    (performing 0).poisonedLine 2 = false ∧
    (performing 0).uncommittedAt 0x100 = false ∧
    (onNext (exec .fetchOpPerform (performing 0)) fun t => sliceRead t 0x100 8 == leBytes 8 5) = true ∧
    (performing 11).arbitrate 0 ((performing 11).net.packets.filter fun r => r.place == .slice 0 5) = some (pkt 4 (.fetchOp 5#64 0#64 0 11 true 0 5 false true) (.slice 0 5), false) ∧
    (replying.packet 1).map (fun p => (p.place, p.body)) = some (.ejected 0 5 0, .fetchReply 0 7#64 true) ∧
    (replying.net.waits.find? fun w => w.point == .stop 0 5 && w.idx == 3).map (fun w => w.sent) = some true ∧
    (onNext (exec .waitBufferReply replying) fun t => t.net.packets.map (fun p => (p.txn, p.body)) == [(4, .fetchReply 0 7#64 false), (6, .fetchReply 0 12#64 false)]) = true := by and_intros <;> decide +kernel

/-- Queue traffic between the stream's job and job 1, and replies to a stream. -/
def queued : State :=
  let s := { bound with jobs := bound.jobs.map fun (j : Job) => { j with inPorts := [⟨2, 4, 0, some (probeId, 0), 0, false, []⟩] } }
  ev { s with net := { s.net with packets := [pkt 8 (.queueData probeId ⟨0, 0, 1⟩ 2 0 7#1024) (.ejected 0 5 0)] } } { a := 1 }
def credited : State :=
  ev { bound with net := { bound.net with packets := [pkt 9 (.queueCredit probeId 0 0 3) (.ejected 0 5 0)] } } { a := 1 }
def replied (k : TxnKind) : State :=
  ev { ctl with
    me := { ctl.me with pending := [.s 3], flights := [0] }
    net := { ctl.net with txns := [⟨9, ctl.me.id, 0, 0#128, 0#64, 0x40#64, k, none, none, none⟩] } } { a := 9, v := 0x1FFFFFFFF#64, bytes := leBytes 8 0xF0 }

/-- Another lane's write of the same store is still on its way. -/
def twoLanes : State :=
  let s := replied (.store 4)
  { s with net := { s.net with txns := s.net.txns ++ s.net.txns.map fun (x : Txn) => { x with id := 10 } } }

theorem witness_LoopEvents_replies :
    (queued.packet 1).map (fun p => p.body) = some (.queueData probeId ⟨0, 0, 1⟩ 2 0 7#1024) ∧
    ((queued.job ⟨0, 0, 1⟩).bind fun j => j.inPort 2) = some ⟨2, 4, 0, some (probeId, 0), 0, false, []⟩ ∧
    (onNext (exec .qlinkData queued) fun t => ((t.job ⟨0, 0, 1⟩).bind fun j => j.inPort 2) == some ⟨2, 4, 0, some (probeId, 0), 0, false, [7#1024]⟩) = true ∧
    ((credited.job probeId).bind fun j => j.outPort 0) = some ⟨0, ⟨0, 0, 1⟩, 2, 4, 0⟩ ∧
    (onNext (exec .qlinkCredit credited) fun t => ((t.job probeId).bind fun j => j.outPort 0) == some ⟨0, ⟨0, 0, 1⟩, 2, 7, 0⟩) = true ∧
    ((replied (.load 3 8 false)).net.txns.find? fun t => t.id == 9).map (fun t => t.kind) = some (.load 3 8 false) ∧
    (onNext (exec .loadReply (replied (.load 3 1 true))) fun t => t.sreg 3 == 0xFFFFFFFFFFFFFFF0#64 && t.me.pending == [] && t.net.txns == []) = true ∧
    ((replied (.atomic 3 false)).net.txns.find? fun t => t.id == 9).map (fun t => t.kind) = some (.atomic 3 false) ∧
    (onNext (exec .atomicReply (replied (.atomic 3 false))) fun t => t.sreg 3 == 0xFFFFFFFF#64) = true ∧
    ((replied (.store 4)).net.txns.find? fun t => t.id == 9).map (fun t => t.kind) = some (.store 4) ∧
    (replied (.store 4)).groupBack 4 = [] ∧
    (onNext (exec .writeAcknowledgement (replied (.store 4))) fun t => t.net.txns == []) = true ∧
    (onNext (exec .writeAcknowledgement twoLanes) fun t => t.net.txns.map (fun x => x.id) == [10]) = true ∧
    (onNext (exec .writeAcknowledgement (ev (replied (.store 4)) { a := 9, b := 2 })) fun t => t.sch.records.map (fun r => (r.record.cause, r.record.addr)) == [(causeDataLost, 0x40#64)]) = true := by and_intros <;> decide +kernel

/-- Port 3 is up; flits arrive at it, or its message waits. -/
def portUp : Port := { Port.blank 3 with up := true, lanes := 3#2, rxSeq := 7#12, txSeq := 9#12, credits := [100, 100, 100] }
def ported3 (p : Port) (f : Flit) : State :=
  ev { (((mgm.setReg (fabReg 0x000) 5#64).setReg (fabReg 0x008) 0xF#64).setField (fabReg 0x1018) 8 8 1).setReg (prtReg 0x080) 0xFFFFFFFF00000000#64 with net := { mgm.net with ports := [p] } } { a := 3, flit := f }
def flitOf (seq ack : Nat) (crc : Bool) (ms : List FabricMessage) : Flit :=
  let f := sealFlit ⟨BitVec.ofNat 12 seq, BitVec.ofNat 12 ack, 0#2, 2#6, 0#32, ms.flatMap wireSlots⟩
  if crc then f else { f with crc := ~~~f.crc }

/-- A write of 16 bytes at 0x100 of module 5, and one of another module. -/
def wmsg (to_ : Nat) : FabricMessage := ⟨2#4, 2#4, 0#2, 0#4, 0#14, 0x100#52, 4#16, BitVec.ofNat 16 to_, 9#16, [0xFFFF#128, 0x1122#128]⟩

/-- A fetch-and-operate request and a multicast write that come in; and the packet of a write that has come to its slice. -/
def fmsg (to_ : Nat) : FabricMessage := message 4 2 0 0 0x100 4 to_ 9 (fetchSlots 0 true 0 7 false false 0 0#64 5#64)
def mmsg : FabricMessage := { wmsg 0x77 with fclass := 6#4 }
def quiet3 : State := ported3 portUp (flitOf 7 0 true [])
def atSlice : State :=
  let d := sliceStop 0x100
  ev { quiet3 with net := { quiet3.net with packets := [{ pkt 2 (.fabricIn 3 (wmsg 5)) (.slice d.1 d.2) with dstDie := d.1, dstStop := d.2 }] } } { a := d.1, b := d.2 }

/-- The check value of CRC-32 with this polynomial: the CRC of the digits 1 to 9 (R88; the parameters of log entry 181). -/
theorem test_crc32 : crc32 [0x31, 0x32, 0x33, 0x34, 0x35, 0x36, 0x37, 0x38, 0x39] = 0xCBF43926#32 := by decide +kernel

theorem witness_FabricEvents_receive :
    (ported3 portUp (flitOf 7 0 false [])).port 3 = portUp ∧
    (onNext (exec .flitReceive (ported3 portUp (flitOf 7 0 false []))) fun t => (t.port 3).wire == [sealFlit ⟨9#12, 6#12, 0#2, 0#6, 0#32, []⟩]) = true ∧
    (onNext (exec .flitReceive (ported3 portUp (flitOf 8 0 true [wmsg 5]))) fun t => (t.port 3).rxSeq == 7#12 && (t.port 3).wire == []) = true ∧
    (flitOf 7 0 true [wmsg 5]).slots ≠ [] ∧
    readSlots 32 (flitOf 7 0 true [wmsg 5]).slots = ([wmsg 5], []) ∧
    (onNext (exec .flitReceive (ported3 portUp (flitOf 7 0 true [wmsg 5]))) fun t => (t.port 3).rxSeq == 8#12 && t.net.packets.map (fun p => (p.cls, p.dstDie, p.dstStop)) == [(2, sliceStop 0x100)]) = true ∧
    (onNext (exec .flitReceive quiet3) fun t => (t.port 3).credits == [108, 100, 100]) = true ∧
    ({ portUp with replay := [flitOf 5 0 true [wmsg 5]] }.acked 4#12).replay = [flitOf 5 0 true [wmsg 5]] ∧
    ({ portUp with replay := [flitOf 5 0 true [wmsg 5]] }.acked 5#12).replay = [] ∧
    (onNext (exec .flitReceive (ported3 { portUp with replay := [flitOf 5 0 true [wmsg 5]] } (flitOf 7 4 true []))) fun t => (t.port 3).replays == 1 && (t.port 3).wire.length == 1) = true ∧
    (wmsg 5).fclass = 2#4 ∧
    malformed (wmsg 5) = false ∧
    quiet3.ingressStatus (wmsg 5) true = 0 ∧
    quiet3.ingressStatus (wmsg 6) true ≠ 0 ∧
    malformed { wmsg 5 with len := 3#4 } = true ∧
    malformed (fmsg 5) = false ∧
    quiet3.ingressStatus (fmsg 5) true = 0 ∧
    (fetchFields (fmsg 5)).map (fun x => (x.x, x.aop, x.w)) = some (5#64, 0, true) ∧
    (quiet3.setField (fabReg 0x028) 1 1 0).field (fabReg 0x028) 1 1 = 0 ∧
    ((deliver (quiet3.setField (fabReg 0x028) 1 1 0) 3 (fmsg 5)).net.packets.map fun p => (p.place, p.pa)) = [(.ingress 3, 0x100)] ∧
    malformed mmsg = false ∧
    quiet3.groupAccepts mmsg = false ∧
    atSlice.arbitrate atSlice.arg.a atSlice.net.packets = atSlice.net.packets.head?.map (fun p => (p, false)) ∧
    atSlice.hostHolds 0x100 = false ∧
    (onNext (exec .fetchOpPerform atSlice) fun t => cellsGet t.mm.mem 0x100 2 == [0x22, 0x11] && t.net.packets.map (fun p => p.cls) == [3]) = true := by and_intros <;> decide +kernel

/-- A message that has come to its port's stop; and the multicast write that firmware sends. -/
def atPort : State :=
  ev { quiet3 with net := { quiet3.net with packets := [{ pkt 2 (.fabricOut 3 (wmsg 6)) (.ejected 6 8 16) with dstDie := 6, dstStop := 8 }] } } { a := 3, b := 1, flag := true }
def casting3 : State := ev quiet3 { a := 3, c := 2, flit := flitOf 0 0 true [mmsg] }

/-- The message was on its way to port 5, which does not take it now; no port does; the host holds the route table's line (R92, R119). -/
def wrongPort : State :=
  ev { quiet3 with net := { quiet3.net with packets := [{ pkt 2 (.fabricOut 5 (wmsg 6)) (.ejected 6 8 16) with dstDie := 6, dstStop := 8 }] } } { a := 5, b := 1, flag := true }
def noRoute : State := { atPort with mm := { atPort.mm with mem := [(6, 0x10#8)] } }
def routeHeld : State := { atPort with sys := { atPort.sys with cxl := { atPort.sys.cxl with snoop := [0] } } }

theorem witness_FabricEvents_routes :
    atPort.routeAt 6 = 6 ∧
    atPort.readHeld 6 = false ∧
    atPort.routePort 6 0x100 = some 3 ∧
    wrongPort.routePort 6 0x100 = some 3 ∧
    (onNext (exec .fabricMessageSend wrongPort) fun t => t.net.packets.map (fun p => (p.body, (p.dstDie, p.dstStop), p.place)) ==
      [(.fabricOut 3 (wmsg 6), portStop 3, .ejected 6 8 16)]) = true ∧
    noRoute.routePort 6 0x100 = none ∧
    Completes noRoute .fabricMessageSend (refuseMessage (noRoute.dropPacket 1) (6, 8) 16 (wmsg 6)) ∧
    routeHeld.readHeld 6 = true ∧
    (onNext (exec .fabricMessageSend routeHeld) fun t => t.net.packets.length == 1 && t.sys.cxl.pendingBi == [(0, false)]) = true := by and_intros <;> first | decide +kernel | exact gives_eq (by decide +kernel)

theorem witness_FabricEvents_ports :
    (onNext (exec .portDown (ported3 portUp (flitOf 7 0 true []))) fun t => !(t.port 3).up && t.field (fabReg 0x018) 0 0 == 1) = true ∧
    (onNext (exec .laneTrainingFail (ported3 portUp (flitOf 7 0 true []))) fun t => (t.port 3).lanes == 2#2 && (t.port 3).up) = true ∧
    (onNext (exec .laneTrainingFail (ported3 { portUp with lanes := 1#2 } (flitOf 7 0 true []))) fun t => !(t.port 3).up) = true ∧
    ((ported3 (Port.blank 3) (flitOf 7 0 true [])).setField (fabReg 0x1018) 8 8 1).field (fabReg 0x1018) 8 8 = 1 ∧
    (onNext (exec .fabricPortUp ((ported3 (Port.blank 3) (flitOf 7 0 true [])).setField (fabReg 0x1018) 8 8 1)) fun t => (t.port 3).up) = true ∧
    (onNext (exec .fabricMessageSend atPort) fun t => (t.port 3).queue == [wmsg 6] && t.net.packets == []) = true ∧
    readSlots 32 casting3.arg.flit.slots = ([mmsg], []) ∧
    (onNext (exec .fabricMessageSend casting3) fun t => t.net.packets.map (fun p => p.cls) == [2]) = true ∧
    nextMessage { portUp with queue := [wmsg 6] } = some (wmsg 6) ∧
    (onNext (exec .fabricMessageSend (ported3 { portUp with queue := [wmsg 6] } (flitOf 7 0 true []))) fun t => (t.port 3).queue == [] && (t.port 3).txSeq == 10#12 && (t.port 3).credits == [97, 100, 100] && (t.port 3).replay.length == 1) = true := by and_intros <;> decide +kernel

/-! ### Witnesses: launches, scheduling -/

/-- Launch 0 with two jobs, released and patched; its job 1 is ready, or distributed to core 0, or resident. -/
def lone (f : Launch → Launch) (js : List Job) : State :=
  { mgm with
    sch := { mgm.sch with launches := [f { launch0 2 with released := true, patch := .passed }] }, jobs := js
    sys := { mgm.sys with tiles := [(0, 1), (1, 2)], boot := .good } }
def ready1 : Job := { ctl.myJob with id := ⟨0, 0, 1⟩, state := .ready, core := none, sections := [] }
def here1 : Job := { ready1 with state := .distributed, core := some 0 }
def resident1 : Job := { ready1 with state := .resident, core := some 0 }
def ended1 : Stream := { Stream.start ⟨.job ⟨0, 0, 1⟩, 0⟩ .control 0#128 0#64 with ended := true }

def timedS : State := ev (lone (fun l => { l with released := false }) []) { a := 0, b := 0 }
def scheduling : State := ev (lone id [ready1]) { a := 0 }
def distributed : State := ev (lone id [here1]) { a := 0 }
def returning : State := { distributed with streams := ended1 :: distributed.streams }
def finishing : State := ev { lone id [resident1] with streams := [ended1] } { job := ⟨0, 0, 1⟩ }

theorem witness_SchedulingEvents_launches :
    (timedS.launch 0 0).map (fun l => l.jobs) = some 2 ∧
    (onNext (exec .launchStartTime timedS) fun t => (t.launch 0 0).map (fun l => l.released) == some true) = true ∧
    (scheduling.isLowest 0) = true ∧
    scheduling.quiescing 0 = false ∧
    ((dropRequests scheduling 0).candidates 0).map (fun c => c.id) = [⟨0, 0, 1⟩] ∧
    ((dropRequests scheduling 0).candidates 0).map (fun c => (dropRequests scheduling 0).placeFor 0 c) = [some 0] ∧
    scheduling.sys.halted = [] ∧
    (onNext (exec .schedDispatch { scheduling with arg := { a := 0, flag := true, v := (launch0 2).tag } }) fun t => t.jobs == [] || t.jobs.all fun j => j.state != .ready) = true ∧
    (onNext (exec .schedDispatch scheduling) fun t => t.jobs.map (fun j => (j.state, j.core)) == [(.distributed, some 0)]) = true ∧
    ((distributed.rest.admissionOrder 0).findSome? fun x => (distributed.rest.seatFor x).map fun c => (x.id, c)) = some (⟨0, 0, 1⟩, 0) ∧
    (distributed.rest.job ⟨0, 0, 1⟩).isSome = true ∧
    (distributed.rest.launch 0 0).isSome = true ∧
    distributed.rest.streamsOf ⟨0, 0, 1⟩ = [] ∧
    (onNext (exec .jobAdmit distributed) fun t => (t.job ⟨0, 0, 1⟩).map (fun j => (j.state, j.budget)) == some (.resident, 0x40000000)) = true ∧
    returning.rest.streamsOf ⟨0, 0, 1⟩ ≠ [] ∧
    (onNext (exec .jobAdmit returning) fun t => (t.job ⟨0, 0, 1⟩).map (fun j => j.state) == some .resident) = true := by and_intros <;> decide +kernel

theorem witness_SchedulingEvents_ends :
    (finishing.rest.job ⟨0, 0, 1⟩).map (fun j => (finishing.rest.jobFinished j, jobReleased (releaseJob finishing.rest j) j)) = some (true, true) ∧
    (onNext (exec .jobDone finishing) fun t => (t.job ⟨0, 0, 1⟩).isNone && (t.launch 0 0).map (fun l => l.finished) == some 1) = true ∧
    (timedS.rest.job ⟨0, 0, 1⟩).isNone = true := by and_intros <;> decide +kernel

/-- A patch table of no entry, a cell query, adverts, a job that migrates, one whose request is overdue, one asked to leave. -/
def patching : State := ev (walked (lone (fun l => { l with patch := .unchecked }) [])) { a := 0, b := 0 }
def asking : State :=
  let s := lone (fun l => { l with cells := (1, 1, 3), flags := 8#16 }) [resident1]
  ev { s with sch := { s.sch with queries := [⟨⟨0, 0, 1⟩, 0x40, 7#3, 0⟩] } } { a := 0 }
def adverts : State := ev ((lone id []).setField (schReg 0 0x038) 8 8 1) { a := 0, b := 0 }
/-- Partition 0 owns quarters 0 and 1, die 1 has told die 0 of eight free slots, and job 1 waits on die 0 for too long. -/
def crowded : State :=
  let s := ((lone (fun l => { l with flags := 0xFFFF#16 }) [{ here1 with die := 0 }]).setField (schReg 0 0x038) 8 0 0x101).setReg (prtReg 0) 0xE0#64
  ev { s.modSched 0 (fun d => { d with adverts := [(1, 8)] }) with
    time := { mgm.time with ticks := 1000000000000 }, sys := { s.sys with tiles := [(0, 1), (112, 1)] } } { a := 0, b := 0 }
def migrating1 : State := ev (lone id [{ here1 with migrating := true }]) { job := ⟨0, 0, 1⟩ }
def overdue1 : State :=
  ev { lone id [{ resident1 with softMark := some 5 }] with time := { mgm.time with ticks := 5 } } { job := ⟨0, 0, 1⟩ }
def leaving (j : Job) : State :=
  let s := paged (lone id [{ j with pword := 0#32, ctxBase := 0x100000#64 }])
  ev { s with mm := { s.mm with tlb := [held 0 0 1] }, streams := ended1 :: s.streams } { job := ⟨0, 0, 1⟩ }
def hard : State := leaving { resident1 with preempt := true }
def late : State := leaving { resident1 with canary := 5, budget := 5 }

/-- Every piece of a context was written, and the job is as it was. -/
def savedIs (k : Job) (r : Saved) : Bool :=
  match r with
  | .done v => v.job ⟨0, 0, 1⟩ == some k && v.field (snpReg 0x010) 13 13 == 0
  | _ => false

/-- The job with its inbound queues copied, as its context is saved. -/
def savesAs (s : State) (j : Job) : Bool :=
  let s := (recallAll s j).modJob j.id saveInbound
  !s.raysParking j.id && match s.job j.id with
  | some k => k.id == j.id && savedIs k (savePieces s k (blockPieces k ++ splitPieces s k ++ registerPieces s k ++ granulePieces k))
  | none => false

/-- A job past its Canary budget, whose parked copies have gone. -/
def expires (s : State) (j : Job) : Bool :=
  let y := s.modJob j.id fun j => { j with preempt := true, copies := j.copies.filter fun c => c.parked.isNone }
  y.settled j && !(recallAll y j).raysParking j.id &&
    savedIs { j with preempt := true } (savePieces (recallAll y j) j (canaryPieces (recallAll y j) j))

theorem witness_SchedulingEvents_units :
    (patching.launch 0 0).map (fun l => (l.patch, l.header.npatch)) = some (.unchecked, 0) ∧
    (match readVia patching ((patching.launch 0 0).getD (launch0 2)).via 0#64 0 with | (.ok bs, _) => bs.isEmpty | _ => false) = true ∧
    (onNext (exec .launchPatchCheck patching) fun t => (t.launch 0 0).map (fun l => l.patch) == some .passed) = true ∧
    oldestQuery (asking.sch.queries.filter fun q => q.job.part == 0 && asking.runsOn q.job) = some ⟨⟨0, 0, 1⟩, 0x40, 7#3, 0⟩ ∧
    (asking.launch 0 0).map (fun l => decide (l.cursor < l.cellCount)) = some true ∧
    (onNext (exec .chuteQuery asking) fun t => t.sch.queries == [] && (t.launch 0 0).map (fun l => l.cursor) == some 1) = true ∧
    adverts.field (schReg 0 0x038) 8 8 = 1 ∧
    adverts.overdue 0 0 = [] ∧
    adverts.isLowest 0 = true ∧
    adverts.diesOf 0 false ++ adverts.diesOf 0 true = [0, 4] ∧
    (onNext (exec .migrationAdvert adverts) fun t => t.net.packets.map (fun p => (p.cls, p.dstDie, p.body)) ==
      [(11, 4, .control .migrationAdvert { a := 0, b := 0, c := 8, flag := true, v := 4#64 })]) = true ∧
    (onNext (exec .migrationAdvert (ev adverts { a := 0, b := 0, c := 8, flag := true, v := 4#64 })) fun t => tableGet (t.sched 0).adverts 32 0 == 8) = true ∧
    crowded.field (schReg 0 0x038) 7 0 ≤ 1 ∧
    crowded.overdue 0 0 = [{ here1 with die := 0 }] ∧
    (onNext (exec .migrationAdvert crowded) fun t => t.jobs.map (fun j => (j.migrating, j.core, j.die)) == [(true, none, 1)]) = true ∧
    (onNext (exec .chuteQuery (ev asking { job := ⟨0, 0, 1⟩, a := 0x40, b := 7, c := 1 })) fun t => t.sch.queries.length == 2) = true ∧
    (onNext (exec .chuteQuery (ev asking { job := ⟨0, 0, 1⟩, a := 0x40, b := 7, c := 2, bytes := List.replicate 16 9#8 })) fun t =>
      t.poolRead ⟨0, 0, 1⟩ 0x40 16 == List.replicate 16 9#8 && (t.job ⟨0, 0, 1⟩).map (fun j => j.token 7) == some 1) = true ∧
    (migrating1.job ⟨0, 0, 1⟩).map (fun j => j.migrating) = some true ∧
    (onNext (exec .migrationReceive migrating1) fun t => (t.job ⟨0, 0, 1⟩).map (fun j => j.migrating) == some false) = true ∧
    (overdue1.job ⟨0, 0, 1⟩).map (fun j => (j.softMark, j.state, j.hardStop)) = some (some 5, .resident, false) ∧
    (onNext (exec .softPreemptTimeout overdue1) fun t => (t.job ⟨0, 0, 1⟩).map (fun j => j.preempt) == some true) = true := by and_intros <;> decide +kernel

theorem witness_SchedulingEvents_preempt :
    (hard.rest.job ⟨0, 0, 1⟩).map (fun j => (j.state, j.preempt, j.hardStop, j.savePark, hard.rest.settled j)) = some (.resident, true, false, none, true) ∧
    ((hard.rest.job ⟨0, 0, 1⟩).map fun j => releasedAt (recallAll hard.rest j) 0 5) = some true ∧
    ((hard.rest.job ⟨0, 0, 1⟩).map fun j => savesAs hard.rest j) = some true ∧
    (late.rest.job ⟨0, 0, 1⟩).map (fun j => (j.expired, j.savePark, j.copies)) = some (true, none, []) ∧
    ((late.rest.job ⟨0, 0, 1⟩).map fun j => expires late.rest j) = some true := by and_intros <;> decide +kernel

/-- A handshake over quarters 0 and 1: awaited, past its limit with quarter 0 busy, and quiesced. -/
def quiet (js : List Job) (c : Option (Table (BitVec 64))) : State :=
  let s := lone id js
  ev { s with sys := { s.sys with quiesce := some ⟨3#4, 0, c⟩ }, time := { s.time with ticks := 0x10000000000 } } { a := 3 }
def captured0 : Table (BitVec 64) := capturedOffsets.foldl (fun t o => tablePut t o (mgm.reg o)) []

theorem witness_SchedulingEvents_quiesce :
    mgm.field (prtReg 0x010) 63 63 = 0 ∧
    mgm.maskOk 3 = true ∧
    mgm.maskOk 5 = false ∧
    (onNext (exec .prtQuiesce (ev mgm { a := 3 })) fun t => t.quiescing 1 && !t.quiescing 2) = true ∧
    Completes (ev mgm { a := 5 }) .prtQuiesce ((ev mgm { a := 5 }).setReg (prtReg 0x010) 0x3000000000000000#64) ∧
    (quiet [] none).firstBusy 3#4 = none ∧
    (onNext (exec .quiesceReached (quiet [] none)) fun t => t.reg (prtReg 0x010) == 0x8800000000000000#64) = true ∧
    (quiet [resident1] none).firstBusy 3#4 = some 0 ∧
    Config.ticksPerMicrosecond * (quiet [resident1] none).field (prtReg 0x018) 31 0 ≤ 0x10000000000 ∧
    (onNext (exec .quiesceTimeout (quiet [resident1] none)) fun t => t.field (prtReg 0x010) 63 60 == 1 && t.sys.quiesce == none) = true ∧
    (quiet [] (some captured0)).releaseOk 3#4 captured0 = true ∧
    (onNext (exec .prtRelease (quiet [] (some captured0))) fun t => t.reg (prtReg 0x010) == 0#64 && t.sys.quiesce == none) = true ∧
    ((quiet [] (some captured0)).setReg (prtReg 0) 0x55#64).releaseOk 3#4 captured0 = false ∧
    (onNext (exec .prtRelease ((quiet [] (some captured0)).setReg (prtReg 0) 0x55#64)) fun t => t.reg (prtReg 0) == 0xE4#64) = true := by and_intros <;> first | decide +kernel | exact gives_eq (by decide +kernel)

/-- A fault queue of 16 slots at 0x8000 of partition 0, with a record that waits; and a stream asleep. -/
def posting (n : Nat) : State :=
  let s := (mgm.setField (schReg 0 0x018) 51 12 8).setField (schReg 0 0x020) 15 0 n
  ev { s with sch := { s.sch with records := [⟨0, faultRecord ctl { cause := causeTranslation } 0, .nothing, none, none⟩] } } { a := 0 }
def asleep : State :=
  ev { ctl with me := { ctl.me with frag := { ctl.me.frag with wait := .sleep 0#64 3 } } } { a := 0, strm := ctl.me.id }

theorem witness_SchedulingEvents_records :
    ((posting 16).sch.records.find? fun r => r.part == 0).isSome = true ∧
    (posting 16).faultSlots 0 = 16 ∧
    (posting 16).sliceNat 0x8000 8 = 0 ∧
    (posting 16).hostHolds 0x8000 = false ∧
    (posting 16).hostHolds 0x8100 = false ∧
    (posting 16).readHeld 0x8000 = false ∧
    ((posting 16).sch.records.map fun r => ((endRelease (posting 16) r).1, (endRelease (posting 16) r).2 == posting 16)) = [(true, true)] ∧
    (posting 16).poisonedLine (0x8100 / 128) = false ∧
    (posting 16).poisonedLine (0x8000 / 128) = false ∧
    (posting 16).uncommittedAt 0x8100 = false ∧
    (onNext (exec .faultRecordPost (posting 16)) fun t => t.sch.records == [] && cellsGet t.mm.mem 0x8000 8 == leBytes 8 1 && cellGet t.mm.mem 0x8100 == BitVec.ofNat 8 causeTranslation) = true ∧
    (posting 5).faultSlots 0 = 0 ∧
    (asleep.stream asleep.arg.strm).isSome = true ∧
    (asleep.select asleep.arg.strm 0).me.frag.wait = .sleep 0#64 3 ∧
    (asleep.select asleep.arg.strm 0).me.fired = false ∧
    (onNext (exec .sleepDeadline asleep) fun t => t.pc == 4#64 && t.sreg 3 == 0#64) = true := by and_intros <;> decide +kernel

/-! ### Witnesses: the engines and the guide half -/

/-- A vector stream with its pages held and its context area at 0x100000, of which v5 is dirty on the core. -/
def filling : State :=
  let s := paged vec
  ev { s with myJob := { s.myJob with ctxBase := 0x100000#64, resident := [(1, 5, true)] } } { strm := s.me.id, a := 3, b := 0, c := 3 }
def spilling : State := ev filling { strm := filling.me.id, a := 5, b := 0, c := 1 }

/-- Its fragment's entry is on the core, or stands in slot 2 of the split table. -/
def leaves2 : State := ev filling { strm := filling.me.id, a := 0, b := 0, c := 1 }
def split2 : State :=
  let s := ev filling { strm := filling.me.id, a := 0, b := 0, c := 1, flag := true }
  { s with me := { s.me with frag := { s.me.frag with slot := some 2 } } }

def writeOk {α : Type} (r : Reach α × State) : Bool :=
  match r.1 with
  | .ok _ => true
  | _ => false

/-- The name in which an engine of the stream's core reaches the context area. -/
def spillVia (s : State) : Via := s.myJob.via 1 s.me.id.strm s.fragOp

/-- The fill of what the fragment's instruction lacks is about to start. -/
def fillStarts : State := ev filling { strm := filling.me.id, a := 3, b := 0, flag := true }

theorem witness_EngineEvents_fill :
    fillStarts.arg.flag = true ∧
    Completes fillStarts .registerFillDone (if (fillStarts.select filling.me.id 0).myJob.works = true ∧ (fillStarts.select filling.me.id 0).me.frag.ready = true
      then startFill (fillStarts.select filling.me.id 0) else fillStarts.select filling.me.id 0) ∧
    (filling.select filling.arg.strm 0).myJob.resident.length < (filling.select filling.arg.strm 0).myJob.physical :=
  ⟨by decide +kernel,
    gives_eq (by decide +kernel),
    by decide +kernel⟩

theorem witness_EngineEvents_registers :
    (filling.select filling.arg.strm 0).myJob.state = .resident ∧
    (filling.select filling.arg.strm 0).myJob.holds 1 3 = false ∧
    writeOk (readVia filling (spillVia filling) (filling.myJob.slotOf 1 3) 512) = true ∧
    (onNext (exec .registerFillDone filling) fun t => t.myJob.holds 1 3 && t.me.spilled == []) = true ∧
    (spilling.stream ⟨spilling.me.id.owner, 1⟩).isSome = true ∧
    spilling.myJob.holds 1 5 = true ∧
    writeOk (writeVia spilling (spillVia spilling) (spilling.myJob.slotOf 1 5) (List.replicate 512 0#8)) = true ∧
    (onNext (exec .registerSpillDone spilling) fun t => !t.myJob.holds 1 5) = true ∧
    leaves2.me.slotOfEntry 0 = none ∧
    firstBelow 240 (fun k => !leaves2.me.slotsTaken.contains k) = some 0 ∧
    writeOk (writeVia (leaves2.freeBytes 32).2 (spillVia leaves2) (leaves2.myJob.splitSlot 1 0) (leaves2.freeBytes 32).1) = true ∧
    (onNext (exec .splitTableSpillFill leaves2) fun t => t.me.frag.slot == some 0) = true ∧
    split2.arg.flag = true ∧
    split2.me.slotOfEntry 0 = some 2 ∧
    writeOk (readVia split2 (spillVia split2) (split2.myJob.splitSlot 1 2) 32) = true ∧
    writeOk (writeVia (readVia split2 (spillVia split2) (split2.myJob.splitSlot 1 2) 32).2 (spillVia split2) (split2.myJob.splitSlot 1 2) (List.replicate 32 0#8)) = true ∧
    (onNext (exec .splitTableSpillFill split2) fun t => t.me.frag.slot == none) = true := by and_intros <;> decide +kernel

/-- The copy operation of `copying` waits; it has started and moved its bytes; the commands of `pending`. -/
def copyWaits : State := ev copying { job := probeId, a := shaped.ticket, b := causeTranslation, c := 1, v := 0x4000#64 }
def copyMoved : State := copyWaits.setJob fun j => { j with copies := j.copies.map fun (c : CopyCmd) => { c with started := true, moved := 16 } }
def matWaits : State := ev pending { job := probeId, a := mats.ticket, b := 1, v := 0x77#64 }
def matDone : State := matWaits.setJob fun j => { j with mcmds := j.mcmds.map fun (c : MatrixCmd) => { c with started := true, steps := 1 } }
def matHelped : State := matWaits.setJob fun j => { j with mcmds := j.mcmds.map fun (c : MatrixCmd) => { c with helper := some 1 } }

theorem witness_EngineEvents_copies :
    (copyWaits.job probeId).map (fun j => (j.state, j.hardStop, j.id)) = some (.resident, false, probeId) ∧
    (copyWaits.select ⟨.job probeId, copyStrm⟩ 0).myJob.nextCopy.map (fun c => c.id) = some copyWaits.arg.a ∧
    copyWaits.myJob.preempt = false ∧
    (onNext (exec .copyStart copyWaits) fun t => t.myJob.copies.map (fun c => c.started) == [true]) = true ∧
    ((copyMoved.select ⟨.job probeId, copyStrm⟩ 0).myJob.copyOp copyMoved.arg.a).map (fun c => (c.started, c.parked, c.moveDone copyMoved.myJob, c.op, c.scope)) = some (true, none, true, .linear, 5) ∧
    (let u := copyMoved.select ⟨.job probeId, copyStrm⟩ 0; releasedAt (releaseAt u u.core 5) (releaseAt u u.core 5).core 5) = true ∧
    (onNext (exec .copyComplete copyMoved) fun t => t.myJob.copies == [] && t.myJob.cdone == [(7, 5)]) = true ∧
    copyMoved.field (snpReg 0x010) causeTranslation causeTranslation = 0 ∧
    dispOf causeTranslation ≠ 2 ∧
    (onNext (exec .copyTransferFault copyMoved) fun t => t.myJob.copies.map (fun c => c.parked.isSome) == [true] && t.sch.records.map (fun r => r.record.kind) == [6]) = true ∧
    (onNext (exec .copyTransferFault (ev copyMoved { copyMoved.arg with b := causeDataLost })) fun t => t.myJob.hardStop) = true := by and_intros <;> decide +kernel

theorem witness_EngineEvents_commands :
    (matWaits.select ⟨.job probeId, matrixStrm⟩ 0).myJob.mcmd matWaits.arg.a = matWaits.myJob.mcmds.head? ∧
    (matWaits.myJob.mcmds.map fun c => matWaits.myJob.mayStart c) = [true] ∧
    (onNext (exec .matrixCommandStart matWaits) fun t => t.myJob.mcmds.map (fun c => c.started) == [true]) = true ∧
    (matDone.myJob.mcmds.map fun c => (c.started, decide (c.units ≤ c.steps), c.shared, c.writes)) = [(true, true, false, false)] ∧
    (onNext (exec .matrixCommandDone matDone) fun t => t.myJob.mcmds == []) = true ∧
    (matWaits.myJob.mcmds.map fun c => c.finished) = [none] ∧
    (matHelped.myJob.mcmd matHelped.arg.a).map (fun c => c.helper) = some (some 1) ∧
    (onNext (exec .commandRecall matHelped) fun t => t.myJob.mcmds.map (fun c => c.helper) == [none]) = true ∧
    matWaits.field (snpReg 0x010) 1 1 = 0 ∧
    (matWaits.job probeId).map (fun j => (j.id, j.hardStop, j.expired)) = some (probeId, false, false) ∧
    (onNext (exec .matrixOperandFault matWaits) fun t => t.sch.records.map (fun r => (r.record.engine, r.record.addr)) == [(2, 0x77#64)]) = true := by and_intros <;> decide +kernel

/-- Rank 2 has sent its descriptor for part 2 of tile 0; the origin's command is one for another number of K-steps. -/
def described (n : Nat) : State :=
  let s := coops 0x40
  let c : MatrixCmd := { MatrixCmd.blank s .coop 0 with id := 5, crew := some 9, a := { streamA with coop := 0x40#8 }, b := streamB, count := n }
  ev { s with
    jobs := s.jobs.map fun (j : Job) => { j with mcmds := [c] }
    myJob := { s.myJob with coopAsk := some ⟨⟨0, 0, 1⟩, 9, 0, 2, 0, 2, 0x40#8, 0#8, 0#8, none⟩ } } { job := probeId }

/-- The three parts of a tile's product of one panel, each finished on die 0; its origin is the stream's job. -/
def parted : State :=
  let s := coops 0x40
  let c : MatrixCmd := { MatrixCmd.blank s .coop 0 with id := 5, a := { streamA with coop := 0x40#8 }, b := streamB, finished := some 0 }
  let o (p : Nat) : Job := { s.myJob with id := ⟨0, 0, p⟩, mcmds := [{ c with part := p, origin := some (probeId, 5) }] }
  ev { s with myJob := { s.myJob with mcmds := [c] }, jobs := [o 1, o 2] } { job := probeId, a := 5 }

/-- A command over global streams that may move to core 1. -/
def movable : State :=
  let s := mats
  let g : StreamReg := { streamA with ctl := 0x50#8 }
  let c : MatrixCmd := { MatrixCmd.blank s .loop 0 with id := 5, a := g, b := g, count := 2, policy := some 0 }
  ev { s with
    myJob := { s.myJob with mcmds := [c] }
    sys := { s.sys with tiles := [(0, 1), (1, 2)] } } { job := probeId, a := 5, b := 1 }

theorem witness_EngineEvents_cooperation :
    ((described 3).job probeId).map (fun j => j.coopAsk.map fun q => (q.answer, q.origin)) = some (some (none, ⟨0, 0, 1⟩)) ∧
    ((described 3).job ⟨0, 0, 1⟩).map (fun o => (o.away, o.id)) = some (false, ⟨0, 0, 1⟩) ∧
    (((described 3).job ⟨0, 0, 1⟩).bind fun o => (o.coopOrigin ⟨⟨0, 0, 1⟩, 9, 0, 2, 0, 2, 0x40#8, 0#8, 0#8, none⟩).map fun c => sameDescriptor ⟨⟨0, 0, 1⟩, 9, 0, 2, 0, 2, 0x40#8, 0#8, 0#8, none⟩ c) = some false ∧
    (onNext (exec .coopDescriptor (described 3)) fun t => t.myJob.coopAsk.map (fun q => q.answer) == some (some none)) = true ∧
    (onNext (exec .coopDescriptor (described 2)) fun t => t.myJob.coopAsk.map (fun q => q.answer) == some (some (some 5))) = true ∧
    ((parted.select ⟨.job probeId, matrixStrm⟩ 0).myJob.mcmd 5).map (fun c => (c.finished, c.shared, c.part, coopParts c.a)) = some (some 0, true, 0, 3) ∧
    ((List.range 2).filterMap fun p => (parted.select ⟨.job probeId, matrixStrm⟩ 0).coopMember probeId 5 (p + 1)).length = 2 ∧
    (onNext (exec .coopCombine parted) fun t => t.myJob.mcmds == [] && t.jobs.map (fun j => j.mcmds.length) == [0, 0]) = true ∧
    ((movable.select ⟨.job probeId, matrixStrm⟩ 0).myJob.mcmd 5).map (fun c => movable.mayMigrate movable.myJob c 1) = some true ∧
    (onNext (exec .commandMigrate movable) fun t => t.myJob.mcmds.map (fun c => (c.started, c.helper)) == [(true, some 1)]) = true := by and_intros <;> decide +kernel

/-- A triangle on its way to the open pass, or the first of two end forms; a closed pass with a free store; a bin on its way. -/
def tri0 : Primitive := ⟨0, false, 7#32, [0#32, 0#32, 0#32, 0x42000000#32, 0#32, 0#32, 0#32, 0x42000000#32, 0#32], 0#32⟩
def emitting (e : Bool) : State :=
  { passOpen mgm with guide := { (passOpen mgm).guide with arrivals := [{ tri0 with ends := e }] } }
def binning : State := ev (mgm.setPasses [{ pass0 with width := 1, height := 1, closed := true, told := true, prims := [tri0] }]) { a := 0 }
def landing : State :=
  let s := twoJobs.poolWrite probeId 0x4000 [1#8, 2#8]
  ev { s with guide := { s.guide with sends := [⟨3, probeId, ⟨0, 0, 1⟩, 0x4000, 0x9000, 0x100, 0x4000, 0, 0x77#64⟩] } } { a := 3 }
def rayed (p : RayPhase) : State := ev (holding p) { a := 3 }

theorem witness_EngineEvents_guide :
    (emitting false).guide.arrivals = [tri0] ∧
    ((emitting false).openPass 0).map (fun p => p.id) = some 8 ∧
    (onNext (exec .primitiveArrival (emitting false)) fun t => t.guide.arrivals == []) = true ∧
    (onNext (exec .primitiveArrival (emitting true)) fun t => t.guide.passes.map (fun p => (p.ended, p.closed)) == [(1, false)]) = true ∧
    (emitting false).untold = [] ∧
    (binning.guide.passes.find? fun p => p.part == 0 && binning.mayResolve p).map (fun p => p.bins) = some 1 ∧
    (binning.guide.passes.map fun p => binning.freeStore p) = [some (0, 0)] ∧
    (onNext (exec .binResolve binning) fun t => t.guide.stores.map (fun v => v.entries.map fun e => (e.1, e.2.toNat % 2 ^ 32)) == [[(0, 7)]]) = true ∧
    (landing.guide.sends.find? fun r => r.id == 3).map (fun r => (r.dst, landing.sendsBefore r, decide (r.fullOff + 4 ≤ r.ringOff), decide (r.ringOff + 16384 * (r.slot + 1) ≤ r.tagOff))) = some (⟨0, 0, 1⟩, false, true, true) ∧
    (landing.job ⟨0, 0, 1⟩).map (fun c => c.away) = some false ∧
    ((rayed .traversing).guide.rays.find? fun r => r.id == 3).map (fun r => (r.phase, r.job)) = some (.traversing, probeId) ∧
    ((rayed .traversing).job probeId).map (fun j => (j.state, j.hardStop)) = some (.resident, false) ∧
    ((rayed .traversing).guide.rays.map fun r =>
      let best := bestBytes (rayed .traversing) r
      let v := rayWrite best.2 r 0x30 (stateBytes best.1 r)
      (writeOk v, writeOk (rayWrite v.2 r 0x2C (leBytes 4 1)))) = [(true, true)] ∧
    (onNext (exec .rayPark (rayed .traversing)) fun t => t.guide.rays.map (fun r => r.phase) == [.parked]) = true := by and_intros <;> decide +kernel

/-! ### Words, field by field (R243 to R251), and the checks of well-formedness -/

/-- The shared half (R248): H = 0, then MAJ and the fields of F-RR, F-RI, F-U, F-B, F-J and F-L. -/
theorem test_decode_shared :
    decode .tile .control (0#1 ++ 0x00#6 ++ 0#6 ++ 0#6 ++ 0#6 ++ 1#7) = .instr .nop ∧
    decode .tile .vector (0#1 ++ 0x01#6 ++ 63#6 ++ 1#6 ++ 62#6 ++ 8#7) = .instr (.remu 63 1 62) ∧
    decode .tile .matrix (0#1 ++ 0x02#6 ++ 5#6 ++ 6#6 ++ 7#6 ++ 7#7) = .instr (.rol 5 6 7) ∧
    decode .tile .copy (0#1 ++ 0x03#6 ++ 5#6 ++ 6#6 ++ 7#6 ++ 8#7) = .instr (.sel 5 6 7) ∧
    decode .tile .control (0#1 ++ 0x0D#6 ++ 5#6 ++ 6#6 ++ 0x1FFF#13) = .instr (.muli 5 6 0x1FFF) ∧
    decode .tile .control (0#1 ++ 0x0E#6 ++ 5#6 ++ 0x40001#19) = .instr (.ahi 5 0x40001) ∧
    decode .tile .control (0#1 ++ 0x0F#6 ++ 5#6 ++ 6#6 ++ 7#6 ++ 0#4 ++ 5#3) = .instr (.lea 5 6 7 5) ∧
    decode .tile .control (0#1 ++ 0x11#6 ++ 5#6 ++ 6#6 ++ 7#6 ++ 0#7) = .instr (.wrap 5 6 7) ∧
    decode .tile .control (0#1 ++ 0x13#6 ++ 0x1000001#25) = .instr (.bl 0x1000001) ∧
    decode .tile .control (0#1 ++ 0x14#6 ++ 6#4 ++ 9#6 ++ 63#6 ++ 0x1FF#9) = .instr (.bcBset 9 63 0x1FF) ∧
    decode .tile .control (0#1 ++ 0x15#6 ++ 0#6 ++ 0#6 ++ 0#6 ++ 2#7) = .instr .ret ∧
    decode .tile .vector (0#1 ++ 0x17#6 ++ 3#2 ++ 0x7FF#11 ++ 0xFFF#12) = .instr (.loopi 3 0x7FF 0xFFF) ∧
    decode .tile .control (0#1 ++ 0x1B#6 ++ 5#6 ++ 6#6 ++ 7#6 ++ 2#7) = .instr (.crewInfo 5 6 7) ∧
    decode .tile .control (0#1 ++ 0x1C#6 ++ 5#6 ++ 6#6 ++ 7#6 ++ 2#7) = .instr (.barAw 5 6 7) ∧
    decode .tile .control (0#1 ++ 0x1D#6 ++ 0#25) = .reject .unassigned := by and_intros <;> decide +kernel

/-- The control engine's half (R249): S-M, S-X, S-A and F-RR. -/
theorem test_decode_control :
    decode .tile .control (1#1 ++ 0x01#6 ++ 5#6 ++ 6#6 ++ 0x20#6 ++ 3#2 ++ 0#1 ++ 1#1 ++ 6#3) = .instr (.st 5 6 0x20 3 1 6) ∧
    decode .tile .control (1#1 ++ 0x02#6 ++ 5#6 ++ 6#6 ++ 0#6 ++ 0#1 ++ 2#2 ++ 1#1 ++ 1#1 ++ 0#2) = .instr (.ldx 5 6 2 1 1) ∧
    decode .tile .control (1#1 ++ 0x02#6 ++ 5#6 ++ 6#6 ++ 9#6 ++ 1#1 ++ 2#2 ++ 0#1 ++ 0#1 ++ 0#2) = .instr (.ldxPeer 5 6 9 2 0 0) ∧
    decode .tile .control (1#1 ++ 0x0B#6 ++ 5#6 ++ 6#6 ++ 7#6 ++ 3#2 ++ 6#3 ++ 0#1 ++ 1#1) = .instr (.atomCas 5 6 7 3 6 0 1) ∧
    decode .tile .control (1#1 ++ 0x0C#6 ++ 5#6 ++ 6#6 ++ 7#6 ++ 1#2 ++ 5#3 ++ 1#1 ++ 0#1) = .instr (.atomFadd 5 6 7 1 5 1) ∧
    decode .tile .control (1#1 ++ 0x0C#6 ++ 5#6 ++ 6#6 ++ 7#6 ++ 1#2 ++ 5#3 ++ 1#1 ++ 1#1) = .reject .unassigned ∧
    decode .tile .control (1#1 ++ 0x0D#6 ++ 0#6 ++ 9#6 ++ 0#6 ++ 4#3 ++ 6#3 ++ 0#1) = .instr (.fenceRem 9 6) ∧
    decode .tile .control (1#1 ++ 0x0E#6 ++ 5#6 ++ 6#6 ++ 7#6 ++ 0#7) = .instr (.launch 5 6 7) ∧
    decode .tile .control (1#1 ++ 0x10#6 ++ 5#6 ++ 6#6 ++ 7#6 ++ 2#7) = .instr (.govqNext 5 6 7) ∧
    decode .tile .control (1#1 ++ 0x11#6 ++ 5#6 ++ 6#6 ++ 7#6 ++ 2#7) = .instr (.semAddRing 5 6 7) ∧
    decode .tile .control (1#1 ++ 0x13#6 ++ 0#6 ++ 6#6 ++ 7#6 ++ 0#3 ++ 5#3 ++ 0#1) = .instr (.cflush 6 7 5) ∧
    decode .tile .control (1#1 ++ 0x16#6 ++ 5#6 ++ 6#6 ++ 7#6 ++ 0#2 ++ 5#3 ++ 0#1 ++ 1#1) = .instr (.atomMaxu 5 6 7 0 5 0 1) ∧
    decode .tile .control (1#1 ++ 0x17#6 ++ 0#25) = .reject .unassigned := by and_intros <;> decide +kernel

/-- The vector engine's half (R250): V-R, V-X, V-P, V-U, V-Q, V-C, V-B, V-N, V-W, V-M, V-A and V-G. -/
theorem test_decode_vector :
    decode .tile .vector (1#1 ++ 0x04#6 ++ 63#6 ++ 1#6 ++ 62#6 ++ 15#4 ++ 2#3) = .instr (.ffms 63 1 62 15 2) ∧
    decode .tile .vector (1#1 ++ 0x09#6 ++ 5#6 ++ 6#6 ++ 7#6 ++ 3#3 ++ 1#1 ++ 2#3) = .instr (.fsgnXor 5 6 7 3 2) ∧
    decode .tile .vector (1#1 ++ 0x07#6 ++ 3#2 ++ 9#4 ++ 6#6 ++ 7#6 ++ 2#4 ++ 1#3) = .instr (.fcmp 3 9 6 7 2 1) ∧
    decode .tile .vector (1#1 ++ 0x08#6 ++ 5#6 ++ 6#6 ++ 7#6 ++ 2#4 ++ 0#3) = .instr (.funSpecial 5 6 7 2 0) ∧
    decode .tile .vector (1#1 ++ 0x12#6 ++ 5#6 ++ 6#6 ++ 7#6 ++ 2#4 ++ 5#3) = .instr (.logic 5 6 7 2 5) ∧
    decode .tile .vector (1#1 ++ 0x15#6 ++ 4#6 ++ 6#6 ++ 1#1 ++ 1#3 ++ 0#1 ++ 4#3 ++ 0#2 ++ 0#3) = .instr (.cvt 4 6 1 1 0 4 0) ∧
    decode .tile .vector (1#1 ++ 0x1D#6 ++ 5#6 ++ 6#6 ++ 13#6 ++ 2#4 ++ 4#3) = .instr (.scan 5 6 13 2 4) ∧
    decode .tile .vector (1#1 ++ 0x1F#6 ++ 1#3 ++ 9#4 ++ 3#6 ++ 4#6 ++ 0#6) = .instr (.pand 9 3 4) ∧
    decode .tile .vector (1#1 ++ 0x1F#6 ++ 1#3 ++ 9#4 ++ 0x13#6 ++ 4#6 ++ 0#6) = .reject .unassigned ∧
    decode .tile .vector (1#1 ++ 0x20#6 ++ 9#4 ++ 0x400#11 ++ 0x3FF#10) = .instr (.vbr 9 0x400 0x3FF) ∧
    decode .tile .vector (1#1 ++ 0x21#6 ++ 62#6 ++ 0#19) = .instr (.vexit 62) ∧
    decode .tile .vector (1#1 ++ 0x27#6 ++ 5#6 ++ 6#6 ++ 0#6 ++ 3#3 ++ 1#1 ++ 0#3) = .instr (.vsplat 5 6 3 0) ∧
    decode .tile .vector (1#1 ++ 0x2D#6 ++ 5#6 ++ 6#6 ++ 7#3 ++ 9#4 ++ 2#2 ++ 1#1 ++ 5#3) = .instr (.vscat 5 6 7 9 2 1 5) ∧
    decode .tile .vector (1#1 ++ 0x2E#6 ++ 5#6 ++ 6#6 ++ 7#3 ++ 9#4 ++ 3#2 ++ 5#3 ++ 1#1) = .instr (.vatom 5 6 7 9 3 5 1) ∧
    decode .tile .vector (1#1 ++ 0x2F#6 ++ 4#6 ++ 6#6 ++ 7#3 ++ 10#4 ++ 3#2 ++ 5#3 ++ 1#1) = .instr (.vcas 2 6 7 3 5 1) ∧
    decode .tile .vector (1#1 ++ 0x2F#6 ++ 5#6 ++ 6#6 ++ 7#3 ++ 10#4 ++ 3#2 ++ 5#3 ++ 1#1) = .reject .unassigned ∧
    decode .tile .vector (1#1 ++ 0x31#6 ++ 5#6 ++ 6#6 ++ 7#6 ++ 9#6 ++ 1#1) = .instr (.vmx 5 6 7 9 1) ∧
    decode .guide .vector (1#1 ++ 0x33#6 ++ 5#6 ++ 6#6 ++ 7#6 ++ 2#4 ++ 0#3) = .instr (.tex2d 5 6 7 2) ∧
    decode .guide .vector (1#1 ++ 0x32#6 ++ 5#6 ++ 6#6 ++ 7#6 ++ 2#4 ++ 0#3) = .instr (.rayQ 5 6 7 2) ∧
    decode .tile .vector (1#1 ++ 0x33#6 ++ 5#6 ++ 6#6 ++ 7#6 ++ 2#4 ++ 0#3) = .reject .absentUnit ∧
    decode .guide .vector (1#1 ++ 0x37#6 ++ 0#25) = .reject .unassigned := by and_intros <;> decide +kernel

/-- The matrix and the copy engine's halves (R251): M-G, M-Z, M, M-B, M-P and C. -/
theorem test_decode_engines :
    decode .tile .matrix (1#1 ++ 0x00#6 ++ 15#4 ++ 6#6 ++ 0#6 ++ 13#9) = .instr (.gset 15 6 13) ∧
    decode .tile .matrix (1#1 ++ 0x01#6 ++ 15#4 ++ 6#6 ++ 7#6 ++ 0#5 ++ 5#3 ++ 1#1) = .instr (.gld 15 6 7 5 1) ∧
    decode .tile .matrix (1#1 ++ 0x04#6 ++ 0x8001#16 ++ 0#9) = .instr (.mzero 0x8001) ∧
    decode .tile .matrix (1#1 ++ 0x06#6 ++ 12#4 ++ 1#4 ++ 2#4 ++ 3#2 ++ 1#1 ++ 0x3FF#10) = .instr (.mloopC 12 1 2 3 1 0x3FF) ∧
    decode .tile .matrix (1#1 ++ 0x08#6 ++ 0#6 ++ 0#6 ++ 5#3 ++ 1#1 ++ 6#3 ++ 0#6) = .instr (.mbatch 5 1 6) ∧
    decode .tile .matrix (1#1 ++ 0x0A#6 ++ 9#4 ++ 3#4 ++ 7#6 ++ 1#11) = .instr (.mdrain 9 3 7 1) ∧
    decode .tile .matrix (1#1 ++ 0x0E#6 ++ 0#25) = .reject .unassigned ∧
    decode .tile .copy (1#1 ++ 0x02#6 ++ 9#4 ++ 3#4 ++ 7#6 ++ 5#3 ++ 0#4 ++ 15#4) = .reject .unassigned ∧
    decode .tile .copy (1#1 ++ 0x02#6 ++ 9#4 ++ 3#4 ++ 7#6 ++ 5#3 ++ 15#4 ++ 0#4) = .instr (.cp3d 9 3 7 5 15) ∧
    decode .tile .copy (1#1 ++ 0x0A#6 ++ 0#25) = .reject .unassigned := by and_intros <;> decide +kernel

/-- The worked encodings of the instruction chapters (after R316, R355, R375, R400 and R419). -/
theorem test_decode_examples_scalar :
    decode .tile .control 0x0028E00A#32 = .instr (.mfs 5 7) ∧
    decode .tile .vector 0x0001630B#32 = .instr (.mts 11 6) ∧
    decode .tile .control 0x1C392345#32 = .instr (.ahi 7 0x12345) ∧
    decode .tile .control 0x28227FFD#32 = .instr (.bc 1 4 0x7FFD) ∧
    decode .tile .control 0x28C4FE05#32 = .instr (.bcBset 9 63 5) ∧
    decode .tile .control 0x32983006#32 = .instr (.loopSp 1 12 3 6) ∧
    decode .tile .control 0x35101284#32 = .instr (.tokArm 1 2 1 5) ∧
    decode .tile .control 0x38194202#32 = .instr (.barAw 3 10 4) ∧
    decode .tile .control 0x0000000F#32 = .reject .unassigned ∧
    decode .tile .control 0x84292260#32 = .instr (.ldxPeer 5 9 4 2 0 0) ∧
    decode .tile .control 0x8828C3D5#32 = .instr (.atomAdd 5 6 7 2 5 0 1) ∧
    decode .tile .control 0x9A00000A#32 = .instr (.fence 5) ∧
    decode .tile .control 0x9A00804A#32 = .instr (.fenceRem 4 5) ∧
    decode .tile .control 0xA2314001#32 = .instr (.semWait 6 10) ∧
    decode .tile .control 0x9E012003#32 = .instr (.wqry 9 3) ∧
    decode .tile .control 0xA2000003#32 = .reject .unassigned ∧
    decode .tile .control 0xA0210000#32 = .instr (.govqOpen 4 8 0) ∧
    decode .tile .control 0xA0000001#32 = .instr (.govqMark 0) ∧
    decode .tile .control 0xA028C002#32 = .instr (.govqNext 5 6 0) := by and_intros <;> decide +kernel

theorem test_decode_examples_vector :
    decode .tile .vector 0x9C404182#32 = .instr (.imadw 8 2 3 0 2) ∧
    decode .tile .vector 0x8F282100#32 = .instr (.fcmp 2 5 1 2 0 0) ∧
    decode .tile .vector 0xAA5084E0#32 = .instr (.cvt 10 4 0 2 0 7 0) ∧
    decode .tile .vector 0xAC404183#32 = .instr (.qnt 8 2 3 0 3) ∧
    decode .tile .vector 0xAC4041CB#32 = .instr (.qnt 8 2 3 9 3) ∧
    decode .tile .vector 0xAC404181#32 = .reject .forbidden ∧
    decode .tile .vector 0xB620B188#32 = .instr (.slide 4 5 1 3 0 0) ∧
    decode .tile .vector 0xBC38C008#32 = .instr (.red 7 6 0 1 0) ∧
    decode .tile .vector 0xBE0C4140#32 = .instr (.pset 3 4 5) ∧
    decode .tile .vector 0xCE18E029#32 = .instr (.vsplat 3 7 2 1) ∧
    decode .tile .vector 0xCA61A720#32 = .instr (.part 12 13 14 4 0) ∧
    decode .tile .vector 0xC2100000#32 = .instr (.vexit 2) ∧
    decode .tile .vector 0xC4000000#32 = .instr .whole ∧
    decode .tile .vector 0xC6000000#32 = .instr .endwhole ∧
    decode .tile .vector 0xE2A2AB12#32 = .instr (.vmx 20 21 22 9 0) ∧
    decode .tile .vector 0xD8412845#32 = .instr (.vgath 8 9 2 1 0 0 5) ∧
    decode .tile .vector 0xE0088000#32 = .instr (.qsend 1 4) ∧
    decode .tile .vector 0xE0384008#32 = .instr (.qrecv 7 2) ∧
    decode .guide .vector 0xE4404488#32 = .instr (.rayQ 8 2 9 1) ∧
    decode .guide .vector 0xE6608501#32 = .instr (.tex3d 12 4 10 0) ∧
    decode .guide .vector 0xEC188280#32 = .instr (.guideOut 3 4 5) := by and_intros <;> decide +kernel

theorem test_decode_examples_engines :
    decode .tile .matrix 0x8024800A#32 = .instr (.gset 1 9 10) ∧
    decode .tile .matrix 0x86451600#32 = .instr (.gadv 2 10 11) ∧
    decode .tile .matrix 0x88001E00#32 = .instr (.mzero 0xF) ∧
    decode .tile .matrix 0x8E046010#32 = .instr (.mstep 0 2 3 0 0 16) ∧
    decode .tile .matrix 0x8C003C00#32 = .instr (.mloopC 0 0 1 3 1 0) ∧
    decode .tile .matrix 0x90001680#32 = .instr (.mbatch 5 1 2) ∧
    decode .tile .matrix 0x92000080#32 = .instr (.mwait 2) ∧
    decode .tile .matrix 0x92000001#32 = .instr .mwaitAll ∧
    decode .tile .matrix 0x92000002#32 = .reject .unassigned ∧
    decode .tile .matrix 0x94683001#32 = .instr (.mdrain 3 4 6 1) ∧
    decode .tile .matrix 0x982A0001#32 = .instr (.mrescRow 1 5 0) ∧
    decode .tile .matrix 0x9A380040#32 = .instr (.mmigWait 7) ∧
    decode .tile .copy 0x80422D00#32 = .instr (.cp 2 1 5 5 0) ∧
    decode .tile .copy 0x86863511#32 = .instr (.cpMc 4 3 6 5 1 1) ∧
    decode .tile .copy 0x8A20210D#32 = .instr (.cpY 1 0 4 1 3 1) ∧
    decode .tile .copy 0x8C000030#32 = .instr (.cpWait 3 0) ∧
    decode .tile .copy 0x8C000008#32 = .instr (.cpWait 0 1) ∧
    decode .tile .copy 0x8C000031#32 = .reject .unassigned := by and_intros <;> decide +kernel

/-- The worked example after R58: hpa 0x1_0000_1234. -/
theorem test_stripe_example :
    stripeOf false 0x100001234 = 762601 ∧
    unitOf false 0x100001234 = 6 ∧
    parityMember false 762601 = 1 ∧
    memberOf false 0x100001234 = 8 ∧
    stackOffset false 0x100001234 = 0x1745D234 ∧
    stripeChannel false 762601 = 30 ∧
    channelOffset false 0x100001234 = 0xBA2E34 ∧
    hbmSlice 0x100001234 = 286 := by and_intros <;> decide +kernel

/-- Every check of well-formedness refuses a term: the control forms and the memory forms. -/
theorem test_wellformed_scalar :
    ([.bc 8 1 1, .loop 0 1 0, .loopi 0 1 0, .loopx 0 1 0, .loopSp 0 1 1 0, .loopSp 0 1 0 1, .loopSp 0 1 9 1] : List Instr).all (fun i => !wellFormed i) = true ∧
    ([.ld 1 1 0 3 1 0 5, .ldx 1 1 3 1 0, .ldxPeer 1 1 1 3 1 0, .pf 1 1 0 3] : List Instr).all (fun i => !wellFormed i) = true := by and_intros <;> decide +kernel

/-- The vector forms that write a predicate, name a group or have reserved values. -/
theorem test_wellformed_vector :
    ([.fcmp 0 0 1 1 1 0, .icmp 0 0 1 1 1 0, .funSpecial 1 1 8 0 0, .logic 1 1 1 0 6, .imadw 1 2 2 0 0, .imadw 2 2 2 0 2] : List Instr).all (fun i => !wellFormed i) = true ∧
    ([.cvt 1 1 0 0 0 5 0, .cvt 1 1 0 0 0 6 0, .cvt 1 2 0 1 0 0 0, .cvt 2 1 0 0 0 0 1] : List Instr).all (fun i => !wellFormed i) = true ∧
    ([.qnt 1 1 1 12 0, .qnt 1 1 1 2 0, .qnt 1 1 1 0 1, .dqn 1 1 1 0 1, .dqn 1 1 1 8 0, .dqn 1 1 1 1 3, .req 1 1 2 2 0, .req 1 1 1 0 0, .req 1 1 2 1 0] : List Instr).all (fun i => !wellFormed i) = true ∧
    ([.unpk 1 1 0 1, .zip 1 1 1 0 0, .unzip 1 1 1 0 0, .scan 1 1 3 0 0, .red 1 1 14 0 0] : List Instr).all (fun i => !wellFormed i) = true ∧
    ([.pset 0 1 1, .pand 0 1 1, .por 0 1 1, .pnot 0 1, .pmov 0 1, .voteAny 0 1 1, .voteAll 0 1 1, .voteBallot 0 1 1] : List Instr).all (fun i => !wellFormed i) = true ∧
    ([.vbr 1 1 0, .vexit 0, .vexit 63, .vrot 32] : List Instr).all (fun i => !wellFormed i) = true ∧
    ([.vld 1 1 1 0 3 0 5, .vst 1 1 1 0 3 0 5, .vlds 1 1 1 0 3 0 5, .vsts 1 1 1 0 3 0 5, .vgath 1 1 1 0 3 0 5, .vscat 1 1 1 0 3 0 5, .vatom 1 1 1 10 0 5 0] : List Instr).all (fun i => !wellFormed i) = true := by and_intros <;> decide +kernel

/-- The engines' forms and those of the guide half. -/
theorem test_wellformed_engines :
    ([.rayHit 2 1 1 0, .rayRes 2 1 1 0, .tex2d 1 1 1 0, .tex3d 1 2 1 0, .texFetch 1 2 1 0, .visLd 2 1 1 0, .visLdRel 2 1 1 0, .primEmit 1 4 2 0, .primEmit 1 8 1 0] : List Instr).all (fun i => !wellFormed i) = true ∧
    ([.gset 1 1 14, .mloop 13 1 1 3 0 1, .mloopC 15 1 1 1 0 1, .mstep 15 1 1 2 0 1, .cpY 1 1 1 5 1 3, .cpY 1 1 1 5 0 0, .cpPf 1 1 3] : List Instr).all (fun i => !wellFormed i) = true ∧
    ([.mloop 12 1 1 3 0 1, .mstep 15 1 1 0 0 1, .vexit 62, .vrot 31, .loopSp 0 1 8 1, .imadw 4 2 2 0 2] : List Instr).all wellFormed = true := by and_intros <;> decide +kernel

theorem witness_DecodeEncode :
    wellFormed (.mloop 2 1 3 3 1 64) = true ∧
    encode (.mloop 2 1 3 3 1 64) = some 0x8A427C40#32 ∧
    decode .tile .matrix 0x8A427C40#32 = .instr (.mloop 2 1 3 3 1 64) ∧
    wellFormed .powerOn = true ∧
    encode .powerOn = none := by and_intros <;> decide +kernel

end Sys2Proof.Tests
end

section

namespace Sys2Proof.Machine

/-! ### The value of an atomic operation, once for both widths (R104, R363) -/

/-- The table of R363 at width n: what operation `aop` leaves where `old` stood, for operand `x` and compare value `c`.
FADD (8) is not in it: it has one width only (R108). -/
def atomicValue {n : Nat} (aop : Nat) (old x c : BitVec n) : BitVec n :=
  match aop with
  | 0 => old + x
  | 1 => old &&& x
  | 2 => old ||| x
  | 3 => old ^^^ x
  | 4 => if old.toInt < x.toInt then old else x
  | 5 => if old.toInt < x.toInt then x else old
  | 6 => if old.toNat < x.toNat then old else x
  | 7 => if old.toNat < x.toNat then x else old
  | 10 => if old = c then x else old
  | _ => x

theorem atomicValue_min_toInt {n : Nat} (old x c : BitVec n) :
    (atomicValue 4 old x c).toInt = min old.toInt x.toInt := by
  rw [atomicValue, apply_ite BitVec.toInt]
  split <;> omega

theorem atomicValue_max_toInt {n : Nat} (old x c : BitVec n) :
    (atomicValue 5 old x c).toInt = max old.toInt x.toInt := by
  rw [atomicValue, apply_ite BitVec.toInt]
  split <;> omega

theorem atomicValue_minu_toNat {n : Nat} (old x c : BitVec n) :
    (atomicValue 6 old x c).toNat = min old.toNat x.toNat := by
  rw [atomicValue, apply_ite BitVec.toNat]
  split <;> omega

theorem atomicValue_maxu_toNat {n : Nat} (old x c : BitVec n) :
    (atomicValue 7 old x c).toNat = max old.toNat x.toNat := by
  rw [atomicValue, apply_ite BitVec.toNat]
  split <;> omega

theorem atomicValue_cas_of_eq {n : Nat} {old x c : BitVec n} (h : old = c) : atomicValue 10 old x c = x :=
  if_pos h

theorem atomicValue_cas_of_ne {n : Nat} {old x c : BitVec n} (h : old ≠ c) : atomicValue 10 old x c = old :=
  if_neg h

/-! ### Keeping the low word -/

/-- The mask with which the model trims a value to 32 bits keeps the low word. -/
theorem and_lowWord (v : BitVec 64) : v &&& 0xFFFFFFFF#64 = (v.truncate 32).zeroExtend 64 := by
  apply BitVec.eq_of_toNat_eq
  have mask : v.toNat &&& 0xFFFFFFFF % 2 ^ 64 = v.toNat % 2 ^ 32 := Nat.and_two_pow_sub_one_eq_mod _ 32
  rw [BitVec.toNat_and, BitVec.toNat_ofNat, mask, BitVec.toNat_setWidth_of_le (by decide), BitVec.toNat_setWidth]

theorem zeroExtend_and_lowWord (p : BitVec 32) : p.zeroExtend 64 &&& 0xFFFFFFFF#64 = p.zeroExtend 64 := by
  simp [and_lowWord]

theorem zeroExtend_add_and_lowWord (p q : BitVec 32) :
    (p.zeroExtend 64 + q.zeroExtend 64) &&& 0xFFFFFFFF#64 = (p + q).zeroExtend 64 := by
  rw [and_lowWord, BitVec.truncate, BitVec.setWidth_add _ _ (by decide)]
  simp

theorem toNat_zeroExtend_word (p : BitVec 32) : (p.zeroExtend 64).toNat = p.toNat :=
  BitVec.toNat_setWidth_of_le (by decide)

theorem zeroExtend_word_inj (p q : BitVec 32) : p.zeroExtend 64 = q.zeroExtend 64 ↔ p = q := by
  rw [← BitVec.toNat_inj, toNat_zeroExtend_word, toNat_zeroExtend_word, BitVec.toNat_inj]

/-! ### The model's operation meets the table -/

/-- At W = 1 every operation but FADD leaves the table's value at 64 bits. -/
theorem aopNew_wide (aop : Nat) (old x c : BitVec 64) (h : aop ≠ 8) :
    aopNew aop true old x c = atomicValue aop old x c := by
  match aop with
  | 0 | 1 | 2 | 3 | 9 => rfl
  | 4 | 5 => simp [aopNew, aopApply, atomicValue]
  | 6 | 7 => simp [aopNew, aopApply, atomicValue, BitVec.ult]
  | 8 => exact absurd rfl h
  | 10 => simp [aopNew, atomicValue]
  | k + 11 => simp [aopNew, aopApply, atomicValue]

/-- At W = 0 every operation but FADD leaves the table's value at 32 bits, in the low word. -/
theorem aopNew_narrow (aop : Nat) (old x c : BitVec 32) (h : aop ≠ 8) :
    aopNew aop false (old.zeroExtend 64) (x.zeroExtend 64) (c.zeroExtend 64) =
      (atomicValue aop old x c).zeroExtend 64 := by
  match aop with
  | 0 => simp [aopNew, aopApply, atomicValue, zeroExtend_and_lowWord, zeroExtend_add_and_lowWord]
  | 1 | 2 | 3 | 9 => simp [aopNew, aopApply, atomicValue, zeroExtend_and_lowWord]
  | 4 | 5 =>
    simp [aopNew, aopApply, atomicValue, zeroExtend_and_lowWord, toNat_zeroExtend_word, apply_ite (BitVec.setWidth 64),
      -BitVec.toNat_setWidth]
  | 6 | 7 =>
    simp [aopNew, aopApply, atomicValue, zeroExtend_and_lowWord, BitVec.ult, toNat_zeroExtend_word,
      apply_ite (BitVec.setWidth 64), -BitVec.toNat_setWidth]
  | 8 => exact absurd rfl h
  | 10 => simp [aopNew, atomicValue, zeroExtend_and_lowWord, zeroExtend_word_inj, apply_ite (BitVec.setWidth 64)]
  | k + 11 => simp [aopNew, aopApply, atomicValue, zeroExtend_and_lowWord]

/-! ### The statement -/

/-- Settles O24: at each width the model's value is the table's, and the table's comparisons are minima and maxima. -/
theorem atomicOperations : Obligations.AtomicOperations := by
  unfold Obligations.AtomicOperations
  intro x y c p q e wide half
  have hwide (k : Nat) (h : k ≠ 8) : wide k = atomicValue k x y c := aopNew_wide k x y c h
  have hhalf (k : Nat) (h : k ≠ 8) : half k = (atomicValue k p q e).zeroExtend 64 := aopNew_narrow k p q e h
  have hlow (k : Nat) (h : k ≠ 8) : (half k).truncate 32 = atomicValue k p q e := by
    rw [hhalf k h]; simp
  have hnat (k : Nat) (h : k ≠ 8) : (half k).toNat = (atomicValue k p q e).toNat := by
    rw [hhalf k h, toNat_zeroExtend_word]
  refine ⟨hwide 0 (by decide), hwide 1 (by decide), hwide 2 (by decide), hwide 3 (by decide), ?_, ?_, ?_, ?_,
    hwide 9 (by decide), ?_, ?_, hhalf 0 (by decide), hhalf 1 (by decide), hhalf 2 (by decide), hhalf 3 (by decide),
    ?_, ?_, ?_, ?_, hhalf 9 (by decide), ?_, ?_⟩
  · rw [hwide 4 (by decide), atomicValue_min_toInt]
  · rw [hwide 5 (by decide), atomicValue_max_toInt]
  · rw [hwide 6 (by decide), atomicValue_minu_toNat]
  · rw [hwide 7 (by decide), atomicValue_maxu_toNat]
  · intro h; rw [hwide 10 (by decide), atomicValue_cas_of_eq h]
  · intro h; rw [hwide 10 (by decide), atomicValue_cas_of_ne h]
  · rw [hlow 4 (by decide), atomicValue_min_toInt]
  · rw [hlow 5 (by decide), atomicValue_max_toInt]
  · rw [hnat 6 (by decide), atomicValue_minu_toNat]
  · rw [hnat 7 (by decide), atomicValue_maxu_toNat]
  · intro h; rw [hhalf 10 (by decide), atomicValue_cas_of_eq h]
  · intro h; rw [hhalf 10 (by decide), atomicValue_cas_of_ne h]

end Sys2Proof.Machine
end

section

namespace Sys2Proof.Machine

/-! ### The scheduler and time under the writes of a release -/

/-- What the posting of a record reads besides memory and the register space: the scheduler, with the records that wait, and
time. -/
def State.schTime (s : State) : Scheduling × Time := (s.sch, s.time)

theorem schTime_eq {s t : State} (hs : t.sch = s.sch) (ht : t.time = s.time) : t.schTime = s.schTime := by
  rw [State.schTime, hs, ht, State.schTime]

/-- A fold keeps what each of its steps keeps. -/
theorem foldl_keeps {α β : Type} {f : State → α → State} (g : State → β) (hf : ∀ s x, g (f s x) = g s) (xs : List α)
    (s : State) : g (xs.foldl f s) = g s :=
  List.foldlRecOn (motive := fun t => g t = g s) xs f rfl fun t ht x _ => (hf t x).trans ht

@[simp] theorem schTime_countLost (s : State) (n : Nat) : (s.countLost n).schTime = s.schTime := schTime_eq (by simp) (by simp)

@[simp] theorem schTime_noteCmp (s : State) (a : Nat) (c : Bool) : (s.noteCmp a c).schTime = s.schTime :=
  schTime_eq (by simp) (by simp)

@[simp] theorem schTime_backInvalidate (s : State) (a : Nat) : (s.backInvalidate a).schTime = s.schTime :=
  schTime_eq (State.snoopHost_sch s a true) (State.snoopHost_time s a true)

@[simp] theorem schTime_putDirty (s : State) (c l : Nat) (b : Byte) (a p : Bool) :
    (s.putDirty c l b a p).schTime = s.schTime := rfl

@[simp] theorem schTime_fireHostLine (s : State) (l : Nat) : (s.fireHostLine l).schTime = s.schTime := by
  unfold State.fireHostLine
  split <;> rfl

/-- A write within one line, landed or discarded. -/
@[simp] theorem schTime_sliceBytes (s : State) (pa : Nat) (bs : List Byte) : (sliceBytes s pa bs).schTime = s.schTime := by
  unfold sliceBytes
  split
  · rfl
  · split
    · rfl
    · exact schTime_eq (by simp) (by simp)

@[simp] theorem schTime_sliceWriteLine (s : State) (pa : Nat) (bs : List Byte) :
    (sliceWriteLine s pa bs).schTime = s.schTime := by
  simp [sliceWriteLine]

@[simp] theorem schTime_sliceWrite (s : State) (pa : Nat) (bs : List Byte) : (sliceWrite s pa bs).schTime = s.schTime := by
  rw [sliceWrite, foldl_keeps State.schTime]
  exact fun t p => schTime_sliceWriteLine t p.1 p.2

@[simp] theorem schTime_hostWrite (s : State) (a : Nat) (bs : List Byte) : (hostWrite s a bs).schTime = s.schTime := by
  rw [hostWrite, foldl_keeps State.schTime]
  · exact schTime_eq (State.overtake_sch s _ _) (State.overtake_time s _ _)
  · exact fun _ _ => rfl

@[simp] theorem schTime_pointBytes (s : State) (l : Nat) (bs : List Byte) : (pointBytes s l bs).schTime = s.schTime := by
  unfold pointBytes
  split
  · exact schTime_sliceBytes s l bs
  · exact schTime_hostWrite s _ bs

@[simp] theorem schTime_drainByte (s : State) (b : WcByte) : (drainByte s b).schTime = s.schTime := by
  have hdrop : ((s.dropL1 b.core b.loc).dropClu (coreCluster b.core) b.loc).schTime = s.schTime := rfl
  unfold drainByte
  simp only
  split
  · simp [hdrop]
  · split <;> simp [hdrop]

@[simp] theorem schTime_drainStep (s : State) (b : WcByte) : (drainStep s b).schTime = s.schTime := by
  unfold drainStep
  split
  · exact schTime_backInvalidate _ b.loc
  · exact schTime_drainByte s b

@[simp] theorem schTime_writeParcels (s : State) (bs : List WcByte) : (writeParcels s bs).schTime = s.schTime := by
  rw [writeParcels, foldl_keeps State.schTime]
  exact fun _ _ => rfl

@[simp] theorem schTime_drainCore (s : State) (c : Nat) : (drainCore s c).schTime = s.schTime := by
  simp only [drainCore, drainWhere, schTime_writeParcels, schTime_countLost]
  rw [foldl_keeps State.schTime schTime_drainStep]
  rfl

@[simp] theorem schTime_writeBackByte (s : State) (k : Nat) (b : Byte) : (writeBackByte s k b).schTime = s.schTime :=
  (schTime_pointBytes _ _ _).trans (schTime_noteCmp s _ _)

@[simp] theorem schTime_writeBackWhere (s : State) (c : Nat) (p : Nat → Bool) : (writeBackWhere s c p).schTime = s.schTime := by
  rw [writeBackWhere, foldl_keeps State.schTime, foldl_keeps State.schTime, schTime_countLost]
  · exact fun t e => schTime_writeBackByte t e.1 e.2
  · exact fun _ _ => rfl

@[simp] theorem schTime_writeBackCluster (s : State) (c : Nat) : (writeBackCluster s c).schTime = s.schTime :=
  (schTime_writeBackWhere _ _ _).trans (foldl_keeps State.schTime (fun _ _ => schTime_backInvalidate _ _) _ s)

/-- A release (R220) leaves the scheduler and time. -/
@[simp] theorem schTime_releaseAt (s : State) (c n : Nat) : (releaseAt s c n).schTime = s.schTime := by
  unfold releaseAt
  split
  · rfl
  · split <;> simp

theorem sch_of_schTime {s t : State} (h : t.schTime = s.schTime) : t.sch = s.sch := congrArg Prod.fst h

theorem dtb_of_schTime {s t : State} (h : t.schTime = s.schTime) (d : Nat) : t.dtb d = s.dtb d := by
  rw [State.dtb, show t.time = s.time from congrArg Prod.snd h, State.dtb]

/-! ### The stamp on a parked item (R313) -/

@[simp] theorem stampItem_mm (s : State) (i : ParkedItem) (t : Word) : (stampItem s i t).mm = s.mm := by
  cases i <;> simp [stampItem]

@[simp] theorem stampItem_records (s : State) (i : ParkedItem) (t : Word) : (stampItem s i t).sch.records = s.sch.records := by
  cases i <;> simp [stampItem, State.modLaunch]

/-! ### A record in memory (R213) -/

@[simp] theorem length_recordBytes (r : FaultRecord) : (recordBytes r).length = 128 := by
  unfold recordBytes
  simp only [List.length_append, length_leBytes]

/-- A record fills one line, so its write is one line write. -/
theorem sliceWrite_record (s : State) (a : Nat) (r : FaultRecord) (ha : a % 128 = 0) :
    sliceWrite s a (recordBytes r) = sliceWriteLine s a (recordBytes r) :=
  sliceWrite_line s a _ (by simp [ha]) fun h => by simpa [h] using length_recordBytes r

/-- Where its line takes writes, the record reads back. -/
theorem cellsGet_sliceWrite_record (s : State) (a : Nat) (r : FaultRecord) (ha : a % 128 = 0)
    (hp : s.poisonedLine (a / 128) = false) (hc : s.uncommittedAt a = false) :
    cellsGet (sliceWrite s a (recordBytes r)).mm.mem a 128 = recordBytes r := by
  rw [sliceWrite_record s a r ha, cells_sliceWriteLine s a _ hp hc]
  simpa using cellsGet_cellsSet_self (recordBytes r) s.mm.mem a

/-- Every byte outside the record's line reads as before. -/
theorem cellGet_sliceWrite_record_outside (s : State) (a k : Nat) (r : FaultRecord) (ha : a % 128 = 0)
    (hk : k < a ∨ a + 128 ≤ k) : cellGet (sliceWrite s a (recordBytes r)).mm.mem k = cellGet s.mm.mem k := by
  rw [sliceWrite_record s a r ha, cellGet_sliceWriteLine_outside s a k _ (by simpa using hk)]

/-! ### Posting a management core's record (R435) -/

/-- A record of management core n is disposed of at a time: it waits no longer, what it parks takes the time, and PEND is set. -/
def mgmtDone (s : State) (n : Nat) (r : PendingRecord) (time : Word) : State :=
  (stampItem { s with sch := { s.sch with records := s.sch.records.erase r } } r.item time).setField (bootReg 0x058) n n 1

@[simp] theorem mgmtDone_mm (s : State) (n : Nat) (r : PendingRecord) (t : Word) : (mgmtDone s n r t).mm = s.mm := by
  simp [mgmtDone]

@[simp] theorem mgmtDone_records (s : State) (n : Nat) (r : PendingRecord) (t : Word) :
    (mgmtDone s n r t).sch.records = s.sch.records.erase r := by
  simp [mgmtDone]

/-- PEND of the core is set. -/
theorem mgmtDone_pend (s : State) (n : Nat) (r : PendingRecord) (t : Word) (hn : n < 64) :
    (mgmtDone s n r t).field (bootReg 0x058) n n = 1 := by
  rw [mgmtDone, State.field_setField_self _ _ _ _ _ (Nat.le_refl n) hn]
  simp

/-- The management core's slot in the fault area notes whom the record parks, by its TIME and number. -/
def State.noteMgmtPark (s : State) (n : Nat) (p : Park) : State :=
  { s with sys := { s.sys with mgmtPark := (n, p) :: s.sys.mgmtPark } }

@[simp] theorem State.noteMgmtPark_mm (s : State) (n : Nat) (p : Park) : (s.noteMgmtPark n p).mm = s.mm := rfl

@[simp] theorem State.noteMgmtPark_sch (s : State) (n : Nat) (p : Park) : (s.noteMgmtPark n p).sch = s.sch := rfl

@[simp] theorem State.noteMgmtPark_field (s : State) (n : Nat) (p : Park) (o hi lo : Nat) :
    (s.noteMgmtPark n p).field o hi lo = s.field o hi lo := rfl

/-- The slot of management core n in the fault area, which BASE names: 128 bytes a core. -/
abbrev State.mgmtSlot (s : State) (n : Nat) : Nat := s.field (bootReg 0x058) 51 9 * 512 + 128 * n

theorem State.mgmtSlot_aligned (s : State) (n : Nat) : s.mgmtSlot n % 128 = 0 := by
  unfold State.mgmtSlot
  omega

/-- Nothing holds the record of core n back: no earlier record of it stands, the core has no access under way, its release is
done, and the host does not hold the record's line (log entry 154, R119). -/
structure MgmtPostReady (s : State) (n : Nat) : Prop where
  noPark : ∀ p ∈ s.sys.mgmtPark, p.1 ≠ n
  noTxn : ∀ t ∈ s.net.txns, t.strm ≠ ⟨.mgmt n, 0⟩
  released : releasedAt (releaseAt s (544 + n) 5) (544 + n) 5 = true
  notHeld : (releaseAt s (544 + n) 5).hostHolds (s.mgmtSlot n) = false

/-- The record of management core n written to its slot behind the core's release, with the time of the posting. -/
def mgmtWritten (s : State) (n : Nat) (r : PendingRecord) : State :=
  sliceWrite (releaseAt s (544 + n) 5) (s.mgmtSlot n) (recordBytes { r.record with time := s.dtb 6 })

@[simp] theorem mgmtWritten_sch (s : State) (n : Nat) (r : PendingRecord) : (mgmtWritten s n r).sch = s.sch :=
  sch_of_schTime ((schTime_sliceWrite _ _ _).trans (schTime_releaseAt s _ _))

/-- From number 4 on, FAULT_RECORD_POST posts a management core's oldest record. -/
theorem completes_faultRecordPost_mgmt {s : State} {n : Nat} {r : PendingRecord} (ha : s.arg.a = 4 + n)
    (hr : s.sch.records.find? (fun x => x.part == 4 + n) = some r) : Completes s .faultRecordPost (postMgmt s n r) := by
  show execFaultRecordPost s = .next (postMgmt s n r)
  simp [execFaultRecordPost, ha, hr]

section

variable {s : State} {n : Nat} {r : PendingRecord} {id : StreamId} {fr no : Nat}

/-- What posting does to the record of a parked stream that nothing holds back. -/
theorem postMgmt_of_ready (h : MgmtPostReady s n) (hi : r.item = .frag id fr no) :
    postMgmt s n r =
      if s.field (bootReg 0x058) 51 9 * 512 = 0 then mgmtDone (releaseAt s (544 + n) 5) n r (s.dtb 6)
      else (mgmtDone (mgmtWritten s n r) n r (s.dtb 6)).noteMgmtPark n ⟨r.record.disp, s.dtb 6, r.record.kind, false, no⟩ := by
  have hwait : (s.sys.mgmtPark.any (fun p => p.1 == n) || s.net.txns.any (fun t => t.strm == ⟨.mgmt n, 0⟩)) = false := by
    simpa using ⟨fun a b hab => h.noPark (a, b) hab, h.noTxn⟩
  have hdtb : (releaseAt s (544 + n) 5).dtb 6 = s.dtb 6 := dtb_of_schTime (schTime_releaseAt s _ _) 6
  unfold postMgmt
  simp only [hwait, h.released, h.notHeld, hdtb, hi, Bool.and_false, Bool.not_true, Bool.false_eq_true, if_false]
  split <;> simp only [mgmtDone, mgmtWritten, State.noteMgmtPark, hi]

/-- Posting sets PEND of the core. -/
theorem postMgmt_pend (h : MgmtPostReady s n) (hi : r.item = .frag id fr no) (hn : n < 64) :
    (postMgmt s n r).field (bootReg 0x058) n n = 1 := by
  rw [postMgmt_of_ready h hi]
  split
  · exact mgmtDone_pend _ n r _ hn
  · rw [State.noteMgmtPark_field, mgmtDone_pend _ n r _ hn]

/-- The record posted waits no longer, and every other record does. -/
theorem postMgmt_records (h : MgmtPostReady s n) (hi : r.item = .frag id fr no) :
    (postMgmt s n r).sch.records = s.sch.records.erase r := by
  rw [postMgmt_of_ready h hi]
  split
  · rw [mgmtDone_records, sch_of_schTime (schTime_releaseAt s _ _)]
  · rw [State.noteMgmtPark_sch, mgmtDone_records, mgmtWritten_sch]

/-- While BASE is zero posting writes nothing behind the release. -/
theorem postMgmt_mm_of_base_zero (h : MgmtPostReady s n) (hi : r.item = .frag id fr no)
    (hb : s.field (bootReg 0x058) 51 9 * 512 = 0) : (postMgmt s n r).mm = (releaseAt s (544 + n) 5).mm := by
  rw [postMgmt_of_ready h hi, if_pos hb, mgmtDone_mm]

/-- Else memory is what the write of the record makes it. -/
theorem postMgmt_mm (h : MgmtPostReady s n) (hi : r.item = .frag id fr no)
    (hb : s.field (bootReg 0x058) 51 9 * 512 ≠ 0) : (postMgmt s n r).mm = (mgmtWritten s n r).mm := by
  rw [postMgmt_of_ready h hi, if_neg hb, State.noteMgmtPark_mm, mgmtDone_mm]

/-- The fault area's slot notes the park that RESUME and KILL find by the record (R313). -/
theorem postMgmt_notes_park (h : MgmtPostReady s n) (hi : r.item = .frag id fr no)
    (hb : s.field (bootReg 0x058) 51 9 * 512 ≠ 0) :
    (n, (⟨r.record.disp, s.dtb 6, r.record.kind, false, no⟩ : Park)) ∈ (postMgmt s n r).sys.mgmtPark := by
  rw [postMgmt_of_ready h hi, if_neg hb]
  exact List.mem_cons_self

end

/-- Where the slot's line takes writes, the record reads back from it. -/
theorem cellsGet_mgmtWritten (s : State) (n : Nat) (r : PendingRecord)
    (hp : (releaseAt s (544 + n) 5).poisonedLine (s.mgmtSlot n / 128) = false)
    (hc : (releaseAt s (544 + n) 5).uncommittedAt (s.mgmtSlot n) = false) :
    cellsGet (mgmtWritten s n r).mm.mem (s.mgmtSlot n) 128 = recordBytes { r.record with time := s.dtb 6 } := by
  rw [mgmtWritten, cellsGet_sliceWrite_record _ _ _ (s.mgmtSlot_aligned n) hp hc]

/-- Every byte outside the slot reads as the release left it. -/
theorem cellGet_mgmtWritten_outside (s : State) (n k : Nat) (r : PendingRecord)
    (hk : k < s.mgmtSlot n ∨ s.mgmtSlot n + 128 ≤ k) :
    cellGet (mgmtWritten s n r).mm.mem k = cellGet (releaseAt s (544 + n) 5).mm.mem k := by
  rw [mgmtWritten, cellGet_sliceWrite_record_outside _ _ k _ (s.mgmtSlot_aligned n) hk]

/-! ### The exception itself (R435) -/

/-- What an exception on a management core that runs does: it parks for every cause and its record joins those that wait. -/
theorem takeFault_mgmt_parks (s : State) (f : FaultInfo) (hm : s.isMgmt = true)
    (h : s.field (snpReg 0x010) f.cause f.cause ≠ 1) (hp : s.me.frag.parked = none) :
    takeFault s f = (s.park (dispOf f.cause) f.kind).postLater
      ⟨4 + (s.core - 544), faultRecord s f (dispOf f.cause), s.parkedMe, none, none⟩ := by
  rw [takeFault_mgmt s f h hm]
  simp [takePark, hp, hm, mgmtArea]

/-! ### The statement -/

/-- Settles O51: the exception by `takeFault_mgmt_parks`, the posting by what `postMgmt` does once nothing holds the record back. -/
theorem managementFault : Obligations.ManagementFault := by
  unfold Obligations.ManagementFault
  constructor
  · intro s f disp t hm hs hp
    have ht : t = _ := takeFault_mgmt_parks s f hm hs hp
    rw [ht]
    exact ⟨rfl, rfl, fun _ => rfl, rfl, rfl, rfl, rfl, rfl⟩
  · intro s n no id fr r base at_ v ha hn hr hi hpark htxn hrel hheld
    have hready : MgmtPostReady s n := ⟨hpark, htxn, hrel, hheld⟩
    refine ⟨postMgmt s n r, completes_faultRecordPost_mgmt ha hr, postMgmt_pend hready hi (by omega),
      postMgmt_records hready hi, postMgmt_mm_of_base_zero hready hi, fun hb =>
        ⟨⟨_, postMgmt_notes_park hready hi hb, rfl, rfl, rfl⟩, ?_⟩⟩
    rw [postMgmt_mm hready hi hb]
    exact ⟨cellsGet_mgmtWritten s n r, fun a => cellGet_mgmtWritten_outside s n a r⟩

end Sys2Proof.Machine
end

section

namespace Sys2Proof.Machine

/-! ### What a parked fragment loses (R206, R211) -/

/-- A parked cause takes from its fragment the claim to stay the one that issues (R206). -/
theorem takeFault_parks_run (s : State) (f : FaultInfo) (h : s.field (snpReg 0x010) f.cause f.cause ≠ 1) (hj : InJob s)
    (hp : s.me.frag.parked = none) (hd : dispOf f.cause ≠ 2) : (takeFault s f).me.frag.run = 64 := by
  rw [takeFault_parks s f h hj hp hd]
  rfl

/-- A job resident on core 0, whose control stream has issued nothing yet: its fragment counts no instruction in a row. -/
def issuesFirst : State :=
  { State.reset with
    me := Stream.start ⟨.job ⟨0, 0, 0⟩, 0⟩ .control 0#128 0#64
    myJob := { Job.none with state := .resident, core := some 0 } }

/-- Refutes O50: the fragment that a TRANSLATION fault parks counts 64 instructions in a row afterwards, so that another one
issues (R206), where the statement has it keep its count, here 0. -/
theorem not_faultEntryAndReturn : ¬ Obligations.FaultEntryAndReturn := by
  unfold Obligations.FaultEntryAndReturn
  intro h
  let f : FaultInfo := { cause := causeTranslation }
  have hj : InJob issuesFirst := rfl
  have untriggered : issuesFirst.field (snpReg 0x010) f.cause f.cause ≠ 1 := by decide
  have running : issuesFirst.me.frag.parked = none := rfl
  have parks : dispOf f.cause < 2 := by decide
  obtain ⟨entry, -⟩ := h
  have stated := ((entry issuesFirst f).1 hj untriggered).1 parks running
  have claimed : (takeFault issuesFirst f).me.frag.run = 0 := congrArg (fun t : State => t.me.frag.run) stated
  have actual : (takeFault issuesFirst f).me.frag.run = 64 :=
    takeFault_parks_run issuesFirst f untriggered hj running (by omega)
  omega

end Sys2Proof.Machine
end

section

namespace Sys2Proof.Machine

/-! ### The guide half under a write in someone's name (R35, R36, R215)

A unit's write goes through translation, the slices or the host, and for another module's memory the network. None of these
touches what the guide half holds: passes, arrivals, stores, sends, versions and rays. -/

@[simp] theorem fireHostLine_guide (s : State) (l : Nat) : (s.fireHostLine l).guide = s.guide := by
  unfold State.fireHostLine
  split <;> rfl

@[simp] theorem sliceBytes_guide (s : State) (pa : Nat) (bs : List Byte) : (sliceBytes s pa bs).guide = s.guide := by
  unfold sliceBytes
  split
  · rfl
  · split
    · rfl
    · simp

@[simp] theorem sliceWrite_guide (s : State) (pa : Nat) (bs : List Byte) : (sliceWrite s pa bs).guide = s.guide :=
  foldl_keeps (fun t : State => t.guide) (fun _ _ => by simp [sliceWriteLine]) _ s

@[simp] theorem hostWrite_guide (s : State) (a : Nat) (bs : List Byte) : (hostWrite s a bs).guide = s.guide := by
  unfold hostWrite
  rw [foldl_keeps fun t : State => t.guide]
  · exact State.overtake_guide s _ _
  · exact fun _ _ => rfl

@[simp] theorem pointBytes_guide (s : State) (l : Nat) (bs : List Byte) : (pointBytes s l bs).guide = s.guide := by
  unfold pointBytes
  split <;> simp

@[simp] theorem pointWrite_guide (s : State) (l : Nat) (bs : List Byte) : (pointWrite s l bs).guide = s.guide := by
  unfold pointWrite
  split <;> simp

@[simp] theorem drainByte_guide (s : State) (b : WcByte) : (drainByte s b).guide = s.guide := by
  have hdrop : ((s.dropL1 b.core b.loc).dropClu (coreCluster b.core) b.loc).guide = s.guide := rfl
  have hput (t : State) (c l : Nat) (x : Byte) (a p : Bool) : (t.putDirty c l x a p).guide = t.guide := rfl
  unfold drainByte
  simp only
  split
  · simp [hput, hdrop]
  · split <;> simp [hput, hdrop]

@[simp] theorem writeParcels_guide (s : State) (bs : List WcByte) : (writeParcels s bs).guide = s.guide := by
  rw [writeParcels, foldl_keeps fun t : State => t.guide]
  exact fun _ _ => rfl

@[simp] theorem engineBytes_guide (s : State) (c : Nat) (id : StreamId) (n l k : Nat) (m : Bool) (bs : List Byte) :
    (engineBytes s c id n l k m bs).guide = s.guide := by
  simp only [engineBytes, writeParcels_guide, State.countLost_guide]
  exact foldl_keeps (fun t : State => t.guide) drainByte_guide _ s

/-! #### Translation -/

@[simp] theorem readEntry_guide (s : State) (d a : Nat) : (s.readEntry d a).guide = s.guide := by
  simp [State.readEntry]

/-- The reads of the entries that a walk passed. -/
theorem readEntries_guide (s : State) (d a : Nat) (passed : List WalkEntry) :
    (passed.foldr (fun x s => s.readEntry d x.at_) (s.readEntry d a)).guide = s.guide := by
  induction passed with
  | nil => exact readEntry_guide s d a
  | cons x rest ih => rw [List.foldr_cons, readEntry_guide, ih]

@[simp] theorem walked_guide (s : State) (d : Nat) (r : WalkEnd) : (s.walked d r).guide = s.guide := by
  cases r with
  | leaf l passed =>
    show (passed.foldr (fun x s => (s.cacheTable x).readEntry d x.at_) (s.readEntry d l.at_)).guide = s.guide
    induction passed with
    | nil => exact readEntry_guide s d _
    | cons x rest ih =>
      rw [List.foldr_cons, readEntry_guide]
      exact ih
  | bad a passed => exact readEntries_guide s d a passed
  | lost a passed => exact readEntries_guide s d a passed
  | held a => exact State.askLine_guide s a 0 1 false

@[simp] theorem setPte_guide (s : State) (d a b : Nat) : (s.setPte d a b).guide = s.guide := by
  simp [State.setPte, State.orPte]

@[simp] theorem keepLeaf_guide (s : State) (w p x a : Nat) (l : Leaf) : (s.keepLeaf w p x a l).guide = s.guide := by
  unfold State.keepLeaf
  split <;> rfl

theorem installLeaf_guide (s : State) (w p x : Nat) (u : Bool) (a n : Nat) (k : AccessKind) (l : Leaf) :
    (installLeaf s w p x u a n k l).2.guide = s.guide := by
  unfold installLeaf
  split
  · split
    · simp
    · simp only [keepLeaf_guide]
      split <;> simp
  · rfl

theorem takeLeaf_guide (s : State) (w p x : Nat) (u : Bool) (a n : Nat) (k : AccessKind) (l : Leaf) :
    (takeLeaf s w p x u a n k l).2.guide = s.guide := by
  have hi := installLeaf_guide s w p x u a n k l
  unfold takeLeaf
  split <;> rename_i e <;> rw [e] at hi <;> exact hi

theorem missed_guide (s : State) (w p x : Nat) (u : Bool) (a n : Nat) (k : AccessKind) :
    (missed s w p x u a n k).2.guide = s.guide := by
  unfold missed
  split
  · rfl
  · split
    · rfl
    · have hw := walked_guide s (walkDie w) (walkEnd s (walkDie w) p x a)
      generalize walkEnd s (walkDie w) p x a = r at hw ⊢
      cases r with
      | held _ => exact hw
      | leaf l _ => exact (takeLeaf_guide _ _ _ _ _ _ _ _ _).trans hw
      | bad _ _ => exact hw
      | lost _ _ => exact hw
    · exact takeLeaf_guide _ _ _ _ _ _ _ _ _

theorem dirtyUpdate_guide (s : State) (w p x : Nat) (u : Bool) (a n : Nat) (k : AccessKind) :
    (dirtyUpdate s w p x u a n k).2.guide = s.guide := by
  have hw := walked_guide s (walkDie w) (walkEnd s (walkDie w) p x a)
  unfold dirtyUpdate
  generalize walkEnd s (walkDie w) p x a = r at hw ⊢
  cases r with
  | held _ => exact hw
  | bad _ _ => exact hw
  | lost _ _ => exact hw
  | leaf l _ =>
    simp only
    split
    · simp
    · split
      · exact hw
      · simp only [keepLeaf_guide, setPte_guide]
        split <;> simp

/-- A translation answered and then, for a write through a leaf without D, set dirty (R36). -/
theorem answeredThenDirty_guide (s : State) (w p x : Nat) (u : Bool) (va n : Nat) (k : AccessKind) (y : Xlat) (dirty : Bool) :
    (if accessWrites k && !dirty then dirtyUpdate s w p x u va n k else (y, s)).2.guide = s.guide := by
  split
  · exact dirtyUpdate_guide s w p x u va n k
  · rfl

theorem translateCtx_guide (s : State) (w p x : Nat) (u : Bool) (va : Word) (n : Nat) (k : AccessKind) :
    (translateCtx s w p x u va n k).2.guide = s.guide := by
  have hm := missed_guide s w p x u va.toNat n k
  unfold translateCtx
  simp only
  split
  · rfl
  · cases (if w < 1000 then s.heldLeaf w p x va.toNat else none) with
    | some l =>
      simp only
      split <;> rename_i e
      · obtain ⟨-, rfl⟩ := Prod.mk.inj e
        exact answeredThenDirty_guide ..
      · rfl
    | none =>
      simp only
      split <;> rename_i e
      · rw [e] at hm
        exact (answeredThenDirty_guide ..).trans hm
      · exact hm

theorem translatePlain_guide (s : State) (v : Via) (va : Word) (n : Nat) (k : AccessKind) :
    (translatePlain s v va n k).2.guide = s.guide := by
  unfold translatePlain
  split
  · rfl
  · split <;> exact translateCtx_guide ..

theorem translateVia_guide (s : State) (v : Via) (va : Word) (n : Nat) (k : AccessKind) :
    (translateVia s v va n k).2.guide = s.guide := by
  have hp := translatePlain_guide s v va n k
  unfold translateVia
  split
  · rfl
  · split
    · rename_i e
      rw [e] at hp
      split <;> exact hp
    · exact hp

/-! #### Messages for other modules -/

@[simp] theorem enterPacket_guide (s : State) (p : Packet) (n : Nat) : (s.enterPacket p n).guide = s.guide := by
  unfold State.enterPacket State.arriveAt
  split <;> simp

@[simp] theorem sendMessage_guide (s : State) (src : Nat × Nat) (p k : Nat) (ids : List StreamId) (g : Nat) (m : FabricMessage) :
    (sendMessage s src p k ids g m).guide = s.guide := by
  unfold sendMessage State.sendPacket sendParcels
  rw [enterPacket_guide]
  exact foldl_keeps (fun t : State => t.guide) (fun _ _ => enterPacket_guide _ _ _) _ _

theorem askRemote_guide (s : State) (v : Via) (va : Word) (x : Place) (n : Nat) (w : Bool) (m : Nat → FabricMessage) :
    (s.askRemote v va x n w m).2.guide = s.guide := by
  unfold State.askRemote
  simp only
  split
  · split <;> rfl
  · simp

/-! #### The write -/

theorem farWrite_guide (s : State) (v : Via) (x : Place) (bs : List Byte) : (writePlace.farWrite v x bs s).guide = s.guide := by
  unfold writePlace.farWrite
  simp only [pointWrite_guide, State.noteCmp_guide]
  split <;> rfl

theorem writePlace_guide (s : State) (v : Via) (x : Place) (bs : List Byte) : (writePlace s v x bs).guide = s.guide := by
  unfold writePlace
  split
  · split
    · exact engineBytes_guide ..
    · rw [farWrite_guide]
      split <;> rfl
  · exact farWrite_guide s v x bs

theorem writePiece_guide (s : State) (v : Via) (va : Word) (bs : List Byte) : (writePiece s v va bs).2.guide = s.guide := by
  have ht := translateVia_guide s v va bs.length .write
  unfold writePiece
  split <;> rename_i e <;> rw [e] at ht
  · exact ht
  · exact ht
  · exact ht
  · rename_i x t
    split
    · exact ht
    · split
      · exact (State.backInvalidate_guide _ _).trans ht
      · split
        · have ha := (askRemote_guide t v va x bs.length true fun tag => writeMessage t x bs tag).trans ht
          split <;> rename_i e <;> rw [e] at ha <;> exact ha
        · exact (writePlace_guide t v x bs).trans ht

theorem writeRange_guide (fuel : Nat) (s : State) (v : Via) (va : Word) (bs : List Byte) :
    (writeRange fuel s v va bs).2.guide = s.guide := by
  induction fuel generalizing s va bs with
  | zero => rfl
  | succ fuel ih =>
    unfold writeRange
    split
    · rfl
    · have hp := writePiece_guide s v va (bs.take (min bs.length (128 - va.toNat % 128)))
      simp only
      split
      · rename_i e
        rw [e] at hp
        exact (ih _ _ _).trans hp
      · exact hp

/-- A write in someone's name leaves the guide half, however it ends. -/
@[simp] theorem writeVia_guide (s : State) (v : Via) (va : Word) (bs : List Byte) : (writeVia s v va bs).2.guide = s.guide :=
  writeRange_guide _ s v va bs

end Sys2Proof.Machine
end

section

namespace Sys2Proof.Machine

/-! ### Jobs under a change of one of them -/

/-- A search by what a change keeps finds the same element, changed. -/
theorem find?_map_of_keeps {α : Type} {p : α → Bool} {f : α → α} (hf : ∀ x, p (f x) = p x) (xs : List α) :
    (xs.map f).find? p = (xs.find? p).map f := by
  rw [List.find?_map, show p ∘ f = p from funext hf]

/-- The job found under an identity has it. -/
theorem State.id_of_job {s : State} {i : JobId} {j : Job} (h : s.job i = some j) : j.id = i := by
  unfold State.job at h
  split at h
  · rename_i hc
    cases h
    simp only [Bool.and_eq_true, decide_eq_true_eq] at hc
    exact hc.1
  · simpa using List.find?_some h

/-- A change that keeps identity and state: where the job is found, it is found changed, and every other job as before. -/
theorem State.job_modJob (s : State) (i k : JobId) (f : Job → Job) (hid : ∀ j, (f j).id = j.id)
    (hst : ∀ j, (f j).state = j.state) : (s.modJob i f).job k = (s.job k).map fun j => if k = i then f j else j := by
  unfold State.modJob
  split
  · rename_i mine
    simp only [Bool.and_eq_true, decide_eq_true_eq] at mine
    obtain ⟨hi, hlive⟩ := mine
    by_cases hk : k = i
    · simp [State.job, hid, hst, hi, hk, hlive]
    · have hne : s.myJob.id ≠ k := fun h => hk (h.symm.trans hi)
      simp [State.job, hid, hne, hk]
  · rename_i other
    simp only [State.job]
    split
    · rename_i mine
      have hk : k ≠ i := by
        rintro rfl
        exact other mine
      simp [hk]
    · have keeps (x : Job) : decide ((if x.id = i then f x else x).id = k) = decide (x.id = k) := by
        split <;> simp [hid]
      rw [find?_map_of_keeps keeps]
      cases hx : s.jobs.find? fun x => decide (x.id = k) with
      | none => rfl
      | some x =>
        have : x.id = k := by simpa using List.find?_some hx
        simp [this]

section

variable {s : State} {i k : JobId} {j : Job} {f : Job → Job}

theorem State.job_modJob_of_job (h : s.job k = some j) (hid : ∀ j, (f j).id = j.id) (hst : ∀ j, (f j).state = j.state) :
    (s.modJob i f).job k = some (if k = i then f j else j) := by
  rw [State.job_modJob s i k f hid hst, h, Option.map_some]

theorem State.job_modJob_self (h : s.job i = some j) (hid : ∀ j, (f j).id = j.id) (hst : ∀ j, (f j).state = j.state) :
    (s.modJob i f).job i = some (f j) := by
  rw [State.job_modJob_of_job h hid hst, if_pos rfl]

end

/-! ### Pools (R197, R369) -/

theorem length_poolRead (s : State) (j : JobId) (off n : Nat) : (s.poolRead j off n).length = n := by
  unfold State.poolRead
  split <;> simp

theorem State.poolRead_of_job {s : State} {i : JobId} {j : Job} (h : s.job i = some j) (off n : Nat) :
    s.poolRead i off n = cellsGet j.scratch off n := by
  simp [State.poolRead, h]

theorem State.job_poolWrite {s : State} {i : JobId} {j : Job} (h : s.job i = some j) (off : Nat) (bs : List Byte) :
    (s.poolWrite i off bs).job i = some { j with scratch := cellsSet j.scratch off bs } :=
  State.job_modJob_self h (fun _ => rfl) fun _ => rfl

/-- What was written to a pool reads back. -/
theorem State.poolRead_poolWrite_self {s : State} {i : JobId} {j : Job} (h : s.job i = some j) (off : Nat) (bs : List Byte) :
    (s.poolWrite i off bs).poolRead i off bs.length = bs := by
  rw [State.poolRead_of_job (State.job_poolWrite h off bs), cellsGet_cellsSet_self]

/-- Other bytes of the pool read as before. -/
theorem State.poolRead_poolWrite_outside {s : State} {i : JobId} {j : Job} (h : s.job i = some j) (off a n : Nat)
    (bs : List Byte) (ha : a + n ≤ off ∨ off + bs.length ≤ a) :
    (s.poolWrite i off bs).poolRead i a n = s.poolRead i a n := by
  rw [State.poolRead_of_job (State.job_poolWrite h off bs), State.poolRead_of_job h, cellsGet_cellsSet_outside _ _ _ _ _ ha]

theorem satAdd32_lt (a b : Nat) : satAdd32 a b < 2 ^ 32 := by
  unfold satAdd32
  omega

/-- A semaphore raised holds the saturated sum. -/
theorem poolNat_semRaise {s : State} {i : JobId} {j : Job} (h : s.job i = some j) (off n : Nat) :
    (semRaise s i off n).poolNat i off 4 = satAdd32 (s.poolNat i off 4) n := by
  have hr := State.poolRead_poolWrite_self h off (leBytes 4 (satAdd32 (s.poolNat i off 4) n))
  rw [length_leBytes] at hr
  rw [semRaise, State.poolNat, hr, leNat_leBytes, Nat.mod_eq_of_lt (satAdd32_lt _ _)]

theorem poolRead_semRaise_outside {s : State} {i : JobId} {j : Job} (h : s.job i = some j) (off n a m : Nat)
    (ha : a + m ≤ off ∨ off + 4 ≤ a) : (semRaise s i off n).poolRead i a m = s.poolRead i a m :=
  State.poolRead_poolWrite_outside h off a m _ (by simpa using ha)

end Sys2Proof.Machine
end

section

namespace Sys2Proof.Machine

/-! ### Registers and split-table entries (R198, R203) -/

section

variable {s v w : State} {bs : List Byte}

/-- The stream and fragment that an engine acts for. -/
abbrev State.charged (s : State) : State := s.select s.arg.strm s.arg.b

/-- The name in which an engine reaches the context area for the current fragment. -/
abbrev State.contextVia (s : State) : Via := s.myJob.via 1 s.me.id.strm s.fragOp

theorem completes_registerFillDone_start (hf : s.arg.flag = true) :
    Completes s .registerFillDone (if s.charged.myJob.works = true ∧ s.charged.me.frag.ready = true then startFill s.charged
      else s.charged) := by
  show execRegisterFillDone s = _
  simp [execRegisterFillDone, hf]

/-- A register of the current stream with what was read from its backing slot, resident and clean. -/
def registerFilled (s : State) (reg strm : Nat) (bs : List Byte) : State :=
  let t := (s.answered s.me.id s.fragOp).setJob fun j => j.touch strm reg false
  { t with me := t.me.setVAfter reg (BitVec.ofNat 4096 (leNat bs)) }

theorem completes_registerFillDone_fill (hf : s.arg.flag = false) (hr : s.charged.myJob.state = .resident)
    (hn : s.charged.myJob.holds s.charged.me.id.strm s.arg.a = false)
    (hroom : s.charged.myJob.resident.length < s.charged.myJob.physical)
    (hread : readVia s.charged s.charged.contextVia (s.charged.myJob.slotOf s.charged.me.id.strm s.arg.a) 512 = (.ok bs, v)) :
    Completes s .registerFillDone (registerFilled v s.arg.a s.charged.me.id.strm bs) := by
  show execRegisterFillDone s = _
  have hroom' : ¬ s.charged.myJob.physical ≤ s.charged.myJob.resident.length := by omega
  simp only [execRegisterFillDone, hf, hr, hn, hroom', hread]
  simp [registerFilled]

/-- A register of stream n of the current job written to its backing slot: resident no more, and spilled. -/
def registerSpilled (s : State) (o : Owner) (n reg : Nat) : State :=
  ((s.answered s.me.id s.fragOp).setJob fun j => j.drop n reg).modStream ⟨o, n⟩ fun st =>
    { st with spilled := reg :: st.spilled.filter fun r => r ≠ reg }

theorem completes_registerSpillDone {st : Stream} (hst : s.charged.stream ⟨s.charged.me.id.owner, s.arg.c⟩ = some st)
    (hh : s.charged.myJob.holds s.arg.c s.arg.a = true) (hr : s.charged.myJob.state = .resident)
    (hw : writeVia s.charged s.charged.contextVia (s.charged.myJob.slotOf s.arg.c s.arg.a)
      (leBytes 512 (st.vregAfter s.arg.a).toNat) = (.ok (), v)) :
    Completes s .registerSpillDone (registerSpilled v s.charged.me.id.owner s.arg.c s.arg.a) := by
  show execRegisterSpillDone s = _
  simp only [execRegisterSpillDone, hst, hh, hr, hw]
  simp [registerSpilled]

/-- Bytes written to slots of the split-table area: the operation goes on. -/
theorem writeSplit_of_written {n : Nat} (k : State → State)
    (h : writeVia s s.contextVia (s.myJob.splitSlot s.me.id.strm n) bs = (.ok (), v)) :
    writeSplit s n bs k = k (v.answered v.me.id v.fragOp) := by
  simp only [writeSplit, h]

/-- A slot read and then cleared: the operation goes on. -/
theorem takeSplit_of_taken {n : Nat} (k : State → State)
    (hr : readVia s s.contextVia (s.myJob.splitSlot s.me.id.strm n) 32 = (.ok bs, v))
    (hw : writeVia v v.contextVia (v.myJob.splitSlot v.me.id.strm n) (List.replicate 32 0#8) = (.ok (), w)) :
    takeSplit s n 1 k = k (w.answered w.me.id w.fragOp) := by
  simp only [takeSplit, Nat.mul_one, hr, writeSplit_of_written k hw]

/-- An entry that stands on the core spills to the lowest free slot; the slot's bytes are free values (log entry 100). -/
theorem completes_splitTableSpillFill_spill {n : Nat} (hr : s.charged.myJob.state = .resident) (hf : s.arg.flag = false)
    (hs : s.charged.me.slotOfEntry s.arg.a = none)
    (hn : firstBelow 240 (fun k => !s.charged.me.slotsTaken.contains k) = some n)
    (hw : writeVia (s.charged.freeBytes 32).2 s.charged.contextVia (s.charged.myJob.splitSlot s.charged.me.id.strm n)
      (s.charged.freeBytes 32).1 = (.ok (), v)) :
    let w := v.answered v.me.id v.fragOp
    Completes s .splitTableSpillFill { w with me := w.me.setSlot s.arg.a (some n) } := by
  show execSplitTableSpillFill s = _
  simp only [execSplitTableSpillFill, hr, hf, hs, hn, ne_eq, not_true_eq_false, if_false]
  exact congrArg _ (writeSplit_of_written (s := (s.charged.freeBytes 32).2)
    (fun t => { t with me := t.me.setSlot s.arg.a (some n) }) hw)

/-- An entry returns from its slot, which holds nothing afterwards; the current fragment may then arrive. -/
theorem completes_splitTableSpillFill_fill {n : Nat} (hr : s.charged.myJob.state = .resident) (hf : s.arg.flag = true)
    (hs : s.charged.me.slotOfEntry s.arg.a = some n)
    (hread : readVia s.charged s.charged.contextVia (s.charged.myJob.splitSlot s.charged.me.id.strm n) 32 = (.ok bs, v))
    (hw : writeVia v v.contextVia (v.myJob.splitSlot v.me.id.strm n) (List.replicate 32 0#8) = (.ok (), w)) :
    let x := w.answered w.me.id w.fragOp
    Completes s .splitTableSpillFill { x with me := (x.me.setSlot s.arg.a none).settle } := by
  show execSplitTableSpillFill s = _
  simp only [execSplitTableSpillFill, hr, hf, hs, ne_eq, not_true_eq_false, if_false]
  exact congrArg _ (takeSplit_of_taken (fun t => { t with me := (t.me.setSlot s.arg.a none).settle }) hread hw)

end

end Sys2Proof.Machine
end

section

namespace Sys2Proof.Machine

/-! ### Copies (R163, R212, R404) -/

/-- An engine of the job that the event names works, and u is the state in which its stream is the current one. -/
def EngineWorks (s : State) (strm : Nat) (u : State) : Prop :=
  ∃ j : Job, s.job s.arg.job = some j ∧ j.state = .resident ∧ j.hardStop = false ∧ u = s.select ⟨.job s.arg.job, strm⟩ 0

theorem EngineWorks.onEngine {s u : State} {strm : Nat} (h : EngineWorks s strm u) (k : State → State) :
    onEngine s s.arg.job strm k = k u := by
  obtain ⟨j, hj, hr, hh, rfl⟩ := h
  simp [Machine.onEngine, hj, hr, hh]

section

variable {s u : State}

theorem completes_copyStart {c : CopyCmd} (hw : EngineWorks s copyStrm u) (hn : u.myJob.nextCopy = some c)
    (hc : c.id = u.arg.a) (hp : u.myJob.preempt = false) :
    Completes s .copyStart (u.setJob fun j => j.modCopy c.id fun c => { c with started := true }) := by
  show execCopyStart s = _
  rw [execCopyStart, hw.onEngine]
  simp [hn, hc, hp]

/-- An operation other than CP.SEM that has moved everything ends behind its release. -/
theorem completes_copyComplete {c : CopyCmd} (hw : EngineWorks s copyStrm u) (hc : u.myJob.copyOp u.arg.a = some c)
    (hs : c.started = true) (hp : c.parked = none) (hm : c.moveDone u.myJob = true) (hop : ∀ x y, c.op ≠ .sem x y)
    (hr : releasedAt (releaseAt u u.core c.scope) (releaseAt u u.core c.scope).core c.scope = true) :
    Completes s .copyComplete (finishCopy (releaseAt u u.core c.scope) c) := by
  have hrel : releaseCopy u c = some (releaseAt u u.core c.scope) := by simp [releaseCopy, hr]
  show execCopyComplete s = _
  rw [execCopyComplete, hw.onEngine]
  simp only [hc, hs, hp, hm]
  cases h : c.op with
  | sem x y => exact absurd h (hop x y)
  | _ => simp [hrel]

/-- The record of a fault during a transfer (R212, R213). -/
def copyFaultRecord (s : State) (j : Job) (c : CopyCmd) : FaultRecord :=
  let ends := dispOf s.arg.b = 2
  { jobRecord s j s.arg.b with
    disp := if ends then 2 else 0, engine := 3, kind := 6, strmid := copyStrm, space := s.arg.c,
    akind := if s.arg.flag then 1 else 0, pc := c.pc,
    addr := if s.arg.c = 0 && !ends then s.arg.v &&& ~~~(127#64) else s.arg.v }

/-- An operation changed is found under its number as before. -/
theorem copyOp_modCopy {j : Job} {n : Nat} {c : CopyCmd} {f : CopyCmd → CopyCmd} (h : j.copyOp n = some c)
    (hf : ∀ c, (f c).id = c.id) : (j.modCopy c.id f).copyOp n = some (f c) := by
  have keeps (x : CopyCmd) : ((if x.id = c.id then f x else x).id == n) = (x.id == n) := by
    split <;> simp [hf]
  unfold Job.copyOp at h ⊢
  rw [Job.modCopy, find?_map_of_keeps keeps, h]
  simp

section

variable {j : Job} {c : CopyCmd} (hj : s.job s.arg.job = some j) (hc : j.copyOp s.arg.a = some c) (hh : j.hardStop = false)
  (hp : c.parked = none) (ht : s.field (snpReg 0x010) s.arg.b s.arg.b = 0)

include hj hc hh hp ht

/-- A cause that ends the job stops it, and its record says so. -/
theorem completes_copyTransferFault_ends (hd : dispOf s.arg.b = 2) :
    Completes s .copyTransferFault ((s.modJob s.arg.job fun j => { j with hardStop := true }).postLater
      ⟨j.id.part, copyFaultRecord s j c, .nothing, some s.arg.job, none⟩) := by
  show execCopyTransferFault s = _
  have hid : j.id = s.arg.job := State.id_of_job hj
  simp [execCopyTransferFault, hj, hc, hh, hp, ht, hd, hid, copyFaultRecord]

/-- Any other cause parks the operation. -/
theorem completes_copyTransferFault_parks (hd : dispOf s.arg.b ≠ 2) :
    Completes s .copyTransferFault
      ((s.modJob s.arg.job fun j => j.modCopy c.id fun c => { c with parked := some (s.newPark 0 6) }).postLater
        ⟨j.id.part, copyFaultRecord s j c, .copy s.arg.job c.id, none, none⟩) := by
  show execCopyTransferFault s = _
  have hid : j.id = s.arg.job := State.id_of_job hj
  simp [execCopyTransferFault, hj, hc, hh, hp, ht, hd, hid, copyFaultRecord]

/-- A fault during a transfer: its record, and who stops (R212). -/
theorem copyTransferFault_stops :
    ∃ (t : State) (k : Job) (r : PendingRecord), Completes s .copyTransferFault t ∧ t.job s.arg.job = some k ∧
      t.sch.records = s.sch.records ++ [r] ∧ r.record.cause = s.arg.b ∧ r.record.engine = 3 ∧ r.record.kind = 6 ∧
      (dispOf s.arg.b = 2 → k.hardStop = true ∧ r.record.disp = 2 ∧ r.ends = some s.arg.job) ∧
      (dispOf s.arg.b ≠ 2 → k.copyOp s.arg.a = some { c with parked := some ⟨0, s.time.ns, 6, false, s.ticket⟩ } ∧
        r.record.disp = 0) := by
  by_cases hd : dispOf s.arg.b = 2
  · exact ⟨_, _, _, completes_copyTransferFault_ends hj hc hh hp ht hd,
      State.job_modJob_self hj (fun _ => rfl) fun _ => rfl, by rw [State.postLater_sch, State.modJob_sch], rfl, rfl, rfl,
      fun _ => ⟨rfl, if_pos hd, rfl⟩, fun h => absurd hd h⟩
  · exact ⟨_, _, _, completes_copyTransferFault_parks hj hc hh hp ht hd,
      State.job_modJob_self hj (fun _ => rfl) fun _ => rfl, by rw [State.postLater_sch, State.modJob_sch], rfl, rfl, rfl,
      fun h => absurd h hd, fun _ => ⟨copyOp_modCopy hc fun _ => rfl, if_neg hd⟩⟩

end

end

end Sys2Proof.Machine
end

section

namespace Sys2Proof.Machine

/-! ### Matrix commands (R167, R382, R391, R392, R398, R399) -/

theorem id_of_mcmd {j : Job} {n : Nat} {c : MatrixCmd} (h : j.mcmd n = some c) : c.id = n := by
  simpa using List.find?_some h

section

variable {s u : State}

theorem completes_matrixCommandStart {c : MatrixCmd} (hw : EngineWorks s matrixStrm u)
    (hc : u.myJob.mcmd u.arg.a = some c) (hm : u.myJob.mayStart c = true) :
    Completes s .matrixCommandStart (u.setJob fun j => j.begin c) := by
  show execMatrixCommandStart s = _
  rw [execMatrixCommandStart, hw.onEngine]
  simp [hc, hm]

/-- A command that writes no memory and is no part of a cooperative product is gone once its units are done. -/
theorem completes_matrixCommandDone {c : MatrixCmd} (hw : EngineWorks s matrixStrm u)
    (hc : u.myJob.mcmd u.arg.a = some c) (hs : c.started = true) (hd : c.units ≤ c.steps) (hshared : c.shared = false)
    (hwrites : c.writes = false) : Completes s .matrixCommandDone (finishCommand u c) := by
  show execMatrixCommandDone s = _
  rw [execMatrixCommandDone, hw.onEngine]
  simp only [hc, hs, hshared, hwrites, Nat.not_lt.mpr hd]
  cases hop : c.op with
  | drain z => simp [MatrixCmd.writes, hop] at hwrites
  | _ => simp

/-! #### Descriptors (R391) -/

/-- A member's descriptor accepted: the origin's command counts its part, and the member has its answer. -/
def coopAccepted (s : State) (q : CoopAsk) (c : MatrixCmd) : State :=
  (s.modJob q.origin fun j => j.modMcmd c.id fun x => { x with accepted := x.accepted ++ [q.part] }).modJob s.arg.job
    fun j => { j with coopAsk := some { q with answer := some (some c.id) } }

theorem coopAccepted_member {j : Job} (h : s.job s.arg.job = some j) (q : CoopAsk) (c : MatrixCmd) :
    ∃ k : Job, (coopAccepted s q c).job s.arg.job = some k ∧ k.coopAsk = some { q with answer := some (some c.id) } :=
  ⟨_, State.job_modJob_self (State.job_modJob_of_job h (fun _ => rfl) fun _ => rfl) (fun _ => rfl) fun _ => rfl, rfl⟩

theorem coopAccepted_origin {o : Job} {q : CoopAsk} (h : s.job q.origin = some o) (c : MatrixCmd) :
    ∃ m : Job, (coopAccepted s q c).job q.origin = some m ∧
      m.mcmds = (o.modMcmd c.id fun x => { x with accepted := x.accepted ++ [q.part] }).mcmds := by
  refine ⟨_, State.job_modJob_of_job (State.job_modJob_self h (fun _ => rfl) fun _ => rfl) (fun _ => rfl) fun _ => rfl, ?_⟩
  split <;> rfl

section

variable {j o : Job} {q : CoopAsk} {c : MatrixCmd} (hj : s.job s.arg.job = some j) (hq : j.coopAsk = some q)
  (hn : q.answer = none) (ho : s.job q.origin = some o) (ha : o.away = false) (hc : o.coopOrigin q = some c)

include hj hq hn ho ha hc

/-- A descriptor that differs from the origin's command is refused. -/
theorem coopDescriptor_refuses (hsame : sameDescriptor q c = false) :
    ∃ (t : State) (k : Job), Completes s .coopDescriptor t ∧ t.job s.arg.job = some k ∧
      k.coopAsk = some { q with answer := some none } := by
  refine ⟨s.modJob s.arg.job fun j => { j with coopAsk := some { q with answer := some none } }, _, ?_,
    State.job_modJob_self hj (fun _ => rfl) fun _ => rfl, rfl⟩
  show execCoopDescriptor s = _
  simp [execCoopDescriptor, hj, hq, hn, ho, ha, hc, hsame]

/-- One that agrees is accepted. -/
theorem completes_coopDescriptor_accepts (hsame : sameDescriptor q c = true) :
    Completes s .coopDescriptor (coopAccepted s q c) := by
  show execCoopDescriptor s = _
  simp [execCoopDescriptor, hj, hq, hn, ho, ha, hc, hsame, coopAccepted]

theorem coopDescriptor_accepts (hsame : sameDescriptor q c = true) :
    ∃ (t : State) (k m : Job), Completes s .coopDescriptor t ∧ t.job s.arg.job = some k ∧
      k.coopAsk = some { q with answer := some (some c.id) } ∧ t.job q.origin = some m ∧
      ∃ x ∈ m.mcmds, x.id = c.id ∧ x.accepted = c.accepted ++ [q.part] := by
  have hmem : c ∈ o.mcmds := List.mem_of_find?_eq_some hc
  obtain ⟨k, hk, answered⟩ := coopAccepted_member hj q c
  obtain ⟨m, hm, commands⟩ := coopAccepted_origin ho c
  refine ⟨_, k, m, completes_coopDescriptor_accepts hj hq hn ho ha hc hsame, hk, answered, hm,
    { c with accepted := c.accepted ++ [q.part] }, ?_, rfl, rfl⟩
  rw [commands]
  exact List.mem_map.mpr ⟨c, hmem, if_pos rfl⟩

end

/-! #### Combination (R392) -/

theorem completes_coopCombine_unfinished {c : MatrixCmd} (hw : EngineWorks s matrixStrm u)
    (hc : u.myJob.mcmd u.arg.a = some c) (hf : c.finished = none) : Completes s .coopCombine u := by
  show execCoopCombine s = _
  rw [execCoopCombine, hw.onEngine]
  simp only [hc, hf]

/-- The other parts of the tile group of a command, as far as they are finished. -/
abbrev State.coopOthers (s : State) (c : MatrixCmd) : List (Job × MatrixCmd) :=
  (List.range (coopParts c.a - 1)).filterMap fun p => s.coopMember s.myJob.id c.id (p + 1)

/-- The origin's panels combined with those of the other parts (R284). -/
abbrev State.combined (s : State) (c : MatrixCmd) (die : Nat) (others : List (Job × MatrixCmd)) : State :=
  s.setJob fun j => (List.range (shapeRows c.shape * shapeCols c.shape)).foldl
    (fun (y : Job) n => y.mapPanel (c.md + n) fun i k => combine ((die, j.panel (c.md + n) i k) ::
      others.map fun o => (o.2.finished.getD 0, o.1.panel (o.2.md + n) i k))) j

theorem mapPanel_id (j : Job) (m : Nat) (f : Nat → Nat → BitVec 32) : (j.mapPanel m f).id = j.id := by
  simp only [Job.mapPanel]

theorem combined_id (s : State) (c : MatrixCmd) (die : Nat) (others : List (Job × MatrixCmd)) :
    (s.combined c die others).myJob.id = s.myJob.id := by
  rw [State.combined, State.setJob_myJob]
  refine List.foldlRecOn (motive := fun y : Job => y.id = s.myJob.id) _ _ rfl fun y hy n _ => ?_
  rw [mapPanel_id, hy]

theorem completes_coopCombine {c : MatrixCmd} {die : Nat} {others : List (Job × MatrixCmd)}
    (hw : EngineWorks s matrixStrm u) (hc : u.myJob.mcmd u.arg.a = some c) (hf : c.finished = some die)
    (hs : c.shared = true) (hp : c.part = 0) (ho : u.coopOthers c = others) (hn : others.length = coopParts c.a - 1) :
    Completes s .coopCombine (others.foldl (fun s o => onEngine s o.1.id matrixStrm fun s => finishCommand s o.2)
      (finishCommand ((others.foldl
          (fun s o => onEngine s o.1.id matrixStrm fun s => s.sendPanels u.myJob.id c.shapePanels)
          (u.combined c die others)).select ⟨.job u.myJob.id, matrixStrm⟩ 0) c)) := by
  show execCoopCombine s = _
  rw [execCoopCombine, hw.onEngine]
  simp only [hc, hf, hs, hp, ho, hn, Bool.not_true, ne_eq, not_true_eq_false, decide_false, Bool.or_self, Bool.false_eq_true,
    if_false]
  rw [← combined_id u c die others]
  rfl

/-! #### Migration (R398) -/

theorem completes_commandMigrate {c : MatrixCmd} (hw : EngineWorks s matrixStrm u)
    (hc : u.myJob.mcmd u.arg.a = some c) (hm : u.mayMigrate u.myJob c u.arg.b = true) :
    Completes s .commandMigrate ((u.setJob fun j => j.begin c).setJob fun j =>
      j.modMcmd c.id fun x => { x with helper := some u.arg.b }) := by
  show execCommandMigrate s = _
  rw [execCommandMigrate, hw.onEngine]
  simp [hc, hm]

/-- A migrated command back at the head of its queue. -/
def Job.recalled (j : Job) (n : Nat) : Job :=
  match j.mcmd n with
  | some c =>
    if c.helper.isSome then { j with mcmds := { c with helper := Option.none } :: j.mcmds.filter fun x => x.id ≠ c.id } else j
  | Option.none => j

theorem recalled_id (j : Job) (n : Nat) : (j.recalled n).id = j.id := by
  unfold Job.recalled
  split
  · split <;> rfl
  · rfl

theorem recalled_state (j : Job) (n : Nat) : (j.recalled n).state = j.state := by
  unfold Job.recalled
  split
  · split <;> rfl
  · rfl

theorem recalled_of_migrated {j : Job} {n : Nat} {c : MatrixCmd} (hc : j.mcmd n = some c) (hh : c.helper ≠ none) :
    j.recalled n = { j with mcmds := { c with helper := none } :: j.mcmds.filter fun x => x.id ≠ c.id } := by
  simp [Job.recalled, hc, Option.isSome_iff_ne_none.mpr hh]

theorem commandRecall_returns {j : Job} {c : MatrixCmd} (hj : s.job s.arg.job = some j) (hc : j.mcmd s.arg.a = some c)
    (hh : c.helper ≠ none) :
    ∃ (t : State) (k : Job), Completes s .commandRecall t ∧ t.job s.arg.job = some k ∧
      k.mcmd s.arg.a = some { c with helper := none } ∧ k.mcmds.head? = some { c with helper := none } := by
  refine ⟨s.modJob s.arg.job fun j => j.recalled s.arg.a, _, rfl,
    State.job_modJob_self hj (fun _ => recalled_id _ _) fun _ => recalled_state _ _, ?_, ?_⟩
  · simp [recalled_of_migrated hc hh, Job.mcmd, id_of_mcmd hc]
  · simp [recalled_of_migrated hc hh]

/-! #### Operand faults (R167, R399) -/

/-- The record of an operand fault: the job is relaunched under it or ends (R167, R213). -/
def operandFaultRecord (s : State) (j : Job) (c : MatrixCmd) : FaultRecord :=
  { jobRecord s j s.arg.b with
    disp := if s.arg.b ≠ causeDataLost ∧ s.mayRelaunch j = true then 3 else 2, engine := 2, kind := 5, strmid := matrixStrm,
    space := s.arg.c, akind := if s.arg.flag then 1 else 0, pc := c.pc, addr := s.arg.v }

theorem completes_matrixOperandFault {j : Job} {c : MatrixCmd} (hj : s.job s.arg.job = some j)
    (hc : j.mcmd s.arg.a = some c) (hh : j.hardStop = false) (he : j.expired = false)
    (ht : s.field (snpReg 0x010) s.arg.b s.arg.b = 0) :
    Completes s .matrixOperandFault ((stopJob s s.arg.job).postLater
      ⟨j.id.part, operandFaultRecord s j c, .nothing, some s.arg.job, none⟩) := by
  show execMatrixOperandFault s = _
  have hid : j.id = s.arg.job := State.id_of_job hj
  simp [execMatrixOperandFault, hj, hc, hh, he, ht, hid, operandFaultRecord]

end

end Sys2Proof.Machine
end

section

namespace Sys2Proof.Machine

/-! ### The guide half: passes, sends and rays (R173, R174, R179, R185, R418) -/

@[simp] theorem fillBins_guide (s : State) (p : Pass) (a n : Nat) : (fillBins s p a n).guide = s.guide :=
  writeVia_guide _ _ _ _

/-- What recording a primitive does to the arrivals that follow it: nothing. -/
theorem recordPrimitive_arrivals (s : State) (p : Pass) (q : Primitive) :
    (recordPrimitive s p q).guide.arrivals = s.guide.arrivals := by
  unfold recordPrimitive
  simp only
  split
  · rfl
  · split
    · rfl
    · show (fillBins s p _ _).guide.arrivals = _
      rw [fillBins_guide]

section

variable {s : State}

/-- The STATUS of every pass that has closed and waits for it is written. -/
abbrev State.allTold (s : State) : State := s.untold.foldl tellStatus s

/-- The oldest primitive or end form is on its way no longer. -/
abbrev State.withArrivals (s : State) (rest : List Primitive) : State := { s with guide := { s.guide with arrivals := rest } }

section

variable {q : Primitive} {rest : List Primitive} {p : Pass} (ha : s.allTold.guide.arrivals = q :: rest)
  (hp : s.allTold.openPass q.part = some p)

include ha hp

theorem completes_primitiveArrival_end (he : q.ends = true) :
    Completes s .primitiveArrival (endForm (s.allTold.withArrivals rest) p) := by
  have hp' : (s.allTold.withArrivals rest).openPass q.part = some p := hp
  show execPrimitiveArrival s = _
  simp only [execPrimitiveArrival, ha, hp', he, if_true]

theorem completes_primitiveArrival_triangle (he : q.ends = false) :
    Completes s .primitiveArrival (recordPrimitive (s.allTold.withArrivals rest) p q) := by
  have hp' : (s.allTold.withArrivals rest).openPass q.part = some p := hp
  show execPrimitiveArrival s = _
  simp only [execPrimitiveArrival, ha, hp', he, Bool.false_eq_true, if_false]

end

/-- The next bin of a pass goes to a store, and the pass goes on to the one after it. -/
theorem binResolve_stores {p : Pass} {r k : Nat}
    (hp : s.guide.passes.find? (fun p => p.part == s.arg.a && s.mayResolve p) = some p) (hk : s.freeStore p = some (r, k)) :
    ∃ t : State, Completes s .binResolve t ∧
      t.guide.stores = s.guide.stores ++ [⟨p.gd, r, k, p.id, p.nextBin, resolveBin p s.draw p.nextBin⟩] ∧
      ∃ q ∈ t.guide.passes, q.id = p.id ∧ q.nextBin = p.nextBin + 1 := by
  have hmem : p ∈ s.guide.passes := List.mem_of_find?_eq_some hp
  refine ⟨(State.setStores { s with draw := s.draw + 2048 * p.prims.length } (s.guide.stores ++
      [⟨p.gd, r, k, p.id, p.nextBin, resolveBin p s.draw p.nextBin⟩])).modPass p.id fun p => { p with nextBin := p.nextBin + 1 },
    ?_, rfl, { p with nextBin := p.nextBin + 1 }, List.mem_map.mpr ⟨p, hmem, if_pos rfl⟩, rfl, rfl⟩
  show execBinResolve s = _
  simp only [execBinResolve, hp, hk]

/-- A send is on its way no longer. -/
def State.endSend (s : State) (r : RingSend) : State :=
  { s.freeLocks r.src r.id with guide := { s.guide with sends := s.guide.sends.filter fun x => x.id ≠ r.id } }

@[simp] theorem State.poolRead_endSend (s : State) (r : RingSend) (i : JobId) (off n : Nat) :
    (s.endSend r).poolRead i off n = s.poolRead i off n := rfl

/-- A send's bytes and tag in the consumer's slot. -/
def sendWritten (s : State) (r : RingSend) : State :=
  (s.poolWrite r.dst (r.ringOff + 16384 * r.slot) (s.poolRead r.src r.srcOff 16384)).poolWrite r.dst
    (r.tagOff + 8 * r.slot) (leBytes 8 r.tag.toNat)

/-- The consumer's slot written, its full semaphore is raised, and the send is gone. -/
def binLanded (s : State) (r : RingSend) : State := (semRaise (sendWritten s r) r.dst r.fullOff 1).endSend r

theorem completes_guideBinLanded {r : RingSend} {c : Job}
    (hr : s.guide.sends.find? (fun r => r.id == s.arg.a) = some r) (hc : s.job r.dst = some c) (ha : c.away = false)
    (hb : s.sendsBefore r = false) : Completes s .guideBinLanded (binLanded s r) := by
  show execGuideBinLanded s = _
  simp only [execGuideBinLanded, hr, hc, ha, hb, Bool.or_self, Bool.false_eq_true, if_false]
  rfl

section

variable {r : RingSend} {c : Job} (hc : s.job r.dst = some c)

include hc

/-- The consumer is found as before, with the slot and the tag written. -/
theorem job_sendWritten : ∃ d : Job, (sendWritten s r).job r.dst = some d :=
  ⟨_, State.job_poolWrite (State.job_poolWrite hc _ _) _ _⟩

/-- The slot's tag is the send's. -/
theorem sendWritten_tag : (sendWritten s r).poolRead r.dst (r.tagOff + 8 * r.slot) 8 = leBytes 8 r.tag.toNat := by
  have h := State.poolRead_poolWrite_self (State.job_poolWrite hc (r.ringOff + 16384 * r.slot)
    (s.poolRead r.src r.srcOff 16384)) (r.tagOff + 8 * r.slot) (leBytes 8 r.tag.toNat)
  rwa [length_leBytes] at h

variable (hring : r.ringOff + 16384 * (r.slot + 1) ≤ r.tagOff)

include hring

/-- The slot holds the bytes that the source held: the tag stands behind the slot. -/
theorem sendWritten_slot :
    (sendWritten s r).poolRead r.dst (r.ringOff + 16384 * r.slot) 16384 = s.poolRead r.src r.srcOff 16384 := by
  have h := State.poolRead_poolWrite_self hc (r.ringOff + 16384 * r.slot) (s.poolRead r.src r.srcOff 16384)
  rw [length_poolRead] at h
  rw [sendWritten, State.poolRead_poolWrite_outside (State.job_poolWrite hc _ _) _ _ _ _ (by omega), h]

variable (hfull : r.fullOff + 4 ≤ r.ringOff)

include hfull

/-- The full semaphore stands before the slot and the tag. -/
theorem sendWritten_full : (sendWritten s r).poolRead r.dst r.fullOff 4 = s.poolRead r.dst r.fullOff 4 := by
  rw [sendWritten, State.poolRead_poolWrite_outside (State.job_poolWrite hc _ _) _ _ _ _ (by omega),
    State.poolRead_poolWrite_outside hc _ _ _ _ (by omega)]

theorem binLanded_slot :
    (binLanded s r).poolRead r.dst (r.ringOff + 16384 * r.slot) 16384 = s.poolRead r.src r.srcOff 16384 := by
  obtain ⟨d, hd⟩ := job_sendWritten (r := r) hc
  rw [binLanded, State.poolRead_endSend, poolRead_semRaise_outside hd _ _ _ _ (by omega), sendWritten_slot hc hring]

theorem binLanded_tag : (binLanded s r).poolRead r.dst (r.tagOff + 8 * r.slot) 8 = leBytes 8 r.tag.toNat := by
  obtain ⟨d, hd⟩ := job_sendWritten (r := r) hc
  rw [binLanded, State.poolRead_endSend, poolRead_semRaise_outside hd _ _ _ _ (by omega), sendWritten_tag hc]

theorem binLanded_full : (binLanded s r).poolNat r.dst r.fullOff 4 = satAdd32 (s.poolNat r.dst r.fullOff 4) 1 := by
  obtain ⟨d, hd⟩ := job_sendWritten (r := r) hc
  have raised := poolNat_semRaise hd r.fullOff 1
  simp only [State.poolNat, sendWritten_full hc hring hfull] at raised
  simpa only [State.poolNat, binLanded, State.poolRead_endSend] using raised

end

theorem binLanded_sends (s : State) (r : RingSend) : ∀ x ∈ (binLanded s r).guide.sends, x.id ≠ r.id := by
  intro x hx
  simpa using (List.mem_filter.mp hx).2

/-- A ray that is traversing goes on, to a candidate, its end or a fault. -/
theorem completes_rayTraversalStop {r : Ray} {j : Job} (hr : s.guide.rays.find? (fun r => r.id == s.arg.a) = some r)
    (hp : r.phase = .traversing) (hj : s.job r.job = some j) (hres : j.state = .resident) (hh : j.hardStop = false) :
    Completes s .rayTraversalStop (match traverse 64 s r with
      | .at_ r s => s.modRay r.id fun _ => r
      | .complete r s => completeRay (s.modRay r.id fun _ => r) r
      | .fault r c a s => rayFault (s.modRay r.id fun _ => r) r c a) := by
  show execRayTraversalStop s = _
  simp only [execRayTraversalStop, hr, hp, hj, hres, hh, ne_eq, not_true_eq_false, decide_false, Option.any_some,
    beq_self_eq_true, Bool.not_false, Bool.and_self, Bool.not_true, Bool.or_self, Bool.false_eq_true, if_false]
  cases traverse 64 s r <;> rfl

/-- Both writes to the record done, the ray is parked. -/
theorem completes_rayPark {v w : State} {r : Ray} (hr : s.guide.rays.find? (fun r => r.id == s.arg.a) = some r)
    (hp : r.phase ≠ .parked)
    (hstate : rayWrite (bestBytes s r).2 r 0x30 (stateBytes (bestBytes s r).1 r) = (.ok (), v))
    (hmark : rayWrite v r 0x2C (leBytes 4 1) = (.ok (), w)) :
    Completes s .rayPark
      ((w.answered ⟨.job r.job, r.strm⟩ (2 * r.id + 1)).modRay r.id fun r => { r with phase := .parked }) := by
  show execRayPark s = _
  simp only [execRayPark, hr, hp, if_false, parkRay, hstate, hmark]

end

end Sys2Proof.Machine
end

section

namespace Sys2Proof.Machine

/-! ### The statement -/

/-- Settles O60: each event's outcome is the named lemma about it; registers and the split table first, then copies, matrix
commands, passes, sends and rays. -/
theorem engineEvents : Obligations.EngineEvents := by
  unfold Obligations.EngineEvents
  intro s v j bs a id f works via
  have engine {strm : Nat} {u : State} (h : works strm u) : EngineWorks s strm u := ⟨j, h⟩
  refine ⟨completes_registerFillDone_start, ?fill, ?spill, ?splitSpill, ?splitFill, ?copyStart, ?copyComplete, ?copyFault,
    ?matrixStart, ?matrixDone, ?refuse, ?accept, ?unfinished, ?combine, ?migrate, ?recalled, ?operandFault, ?arrival,
    ?resolve, ?landed, ?traversal, ?park⟩
  case fill =>
    exact fun hf hr hn hroom hread => ⟨_, completes_registerFillDone_fill hf hr hn hroom hread, rfl, rfl, rfl⟩
  case spill =>
    exact fun st hst hh hr hw => ⟨_, completes_registerSpillDone hst hh hr hw, by simp [registerSpilled, a],
      by simp [registerSpilled]⟩
  case splitSpill => exact fun n hr hf hs hn => completes_splitTableSpillFill_spill hr hf hs hn
  case splitFill => exact fun n w hr hf hs hread hw => completes_splitTableSpillFill_fill hr hf hs hread hw
  case copyStart => exact fun u c hw hn hc hp => completes_copyStart (engine hw) hn hc hp
  case copyComplete =>
    exact fun u c hw hc hs hp hm hop hr => completes_copyComplete (engine hw) hc hs hp hm hop hr
  case copyFault => exact fun c hj hc _ hh hp ht => copyTransferFault_stops hj hc hh hp ht
  case matrixStart => exact fun u c hw hc hm => completes_matrixCommandStart (engine hw) hc hm
  case matrixDone =>
    exact fun u c hw hc hs hd hshared hwrites => completes_matrixCommandDone (engine hw) hc hs hd hshared hwrites
  case refuse => exact fun q o c hj hq hn ho ha hc hsame => coopDescriptor_refuses hj hq hn ho ha hc hsame
  case accept => exact fun q o c hj hq hn ho ha hc hsame => coopDescriptor_accepts hj hq hn ho ha hc hsame
  case unfinished => exact fun u c hw hc hf => completes_coopCombine_unfinished (engine hw) hc hf
  case combine =>
    exact fun u c d hw hc hf hs hp hn => ⟨_, completes_coopCombine (engine hw) hc hf hs hp rfl hn, rfl⟩
  case migrate => exact fun u c hw hc hm => completes_commandMigrate (engine hw) hc hm
  case recalled => exact fun c hj hc hh => commandRecall_returns hj hc hh
  case operandFault =>
    exact fun c hj hc _ hh he ht => ⟨_, _, completes_matrixOperandFault hj hc hh he ht,
      List.mem_append_right _ (List.mem_singleton_self _), rfl, rfl, rfl, rfl, rfl, rfl⟩
  case arrival =>
    exact fun q rest p ha hp => ⟨completes_primitiveArrival_end ha hp, fun he =>
      ⟨completes_primitiveArrival_triangle ha hp he, recordPrimitive_arrivals _ p q⟩⟩
  case resolve => exact fun p r k hp hk => binResolve_stores hp hk
  case landed =>
    exact fun r c hr hc ha hb hfull hring _ => ⟨_, completes_guideBinLanded hr hc ha hb, binLanded_slot hc hring hfull,
      binLanded_tag hc hring hfull, binLanded_full hc hring hfull, binLanded_sends s r⟩
  case traversal => exact fun r hr hp hj hres hh => completes_rayTraversalStop hr hp hj hres hh
  case park => exact fun r w hr hp hstate hmark => completes_rayPark hr hp hstate hmark

end Sys2Proof.Machine
end
